-- ==== Sys2Proof/Word.lean ====
section
/-! DEFINITION. The words the spec counts in: 32-bit words of the line memory, 16-bit belt positions, 32-bit piece
numbers and 8-bit samples and bytes (spec/00_scope.md, 0.8 and 0.10). -/

namespace Sys2Proof

/-- A word of the shared memory or of the register port (0.10). -/
abbrev Word := BitVec 32

/-- A belt position, 0 to 65,535 steps (0.8, R1). -/
abbrev Pos := BitVec 16

/-- A piece number, 0 to 4,294,967,295 (0.10). -/
abbrev PieceNo := BitVec 32

/-- A byte of line memory, or one scanner sample (R23). -/
abbrev Byte := BitVec 8

end Sys2Proof
end

