-- ==== Sys2Proof/Syntax.lean ====
section
/-! DEFINITION. The commands of the FC640: one constructor of `Instr` for each row of spec/opcode_table.json, with the
operands the numbered rules give the step, and the small types those operands need. -/

namespace Sys2Proof

/-- The five gated stackers (0.3, R108). -/
inductive Stacker
  | stk1 | stk2 | stk3 | stk4 | stk5
deriving DecidableEq, Repr

/-- The eleven photocells (0.3, R3). -/
inductive Cell
  | entry | scan | pocket | merge | cancel
  | stk (k : Stacker)
  | endCell
deriving DecidableEq, Repr

/-- The six destinations, which are also the six stacker-full inputs (R108, R110). -/
inductive Dest
  | stk (k : Stacker)
  | endCatch
deriving DecidableEq, Repr

/-- The level a full input shows (R108). -/
inductive FullLevel
  | inactive | active
deriving DecidableEq, Repr

/-- One thing kept for each of the four scanners, which are named after the four attitudes (R23). -/
structure PerScanner (α : Type) where
  aTop : α
  bBottom : α
  bTop : α
  aBottom : α
deriving DecidableEq, Repr

/-- One sample pair of one scanner: the prompt value P and the afterglow value G (R23). -/
structure Sample where
  prompt : Byte
  afterglow : Byte
deriving DecidableEq, Repr

/-- The sample pairs of the four scanners, latched at once (R23). -/
abbrev SampleSet := PerScanner Sample

/-- One word the line processor has stored into line memory (0.2, 0.10). -/
structure LineStore where
  addr : Word
  value : Word
deriving DecidableEq, Repr

/-- Which of a forward step and the schedule entries due at its new position comes first to the blocks both reach: the spec lets
either (R101, R104). -/
inductive StepOrder
  | stepFirst | entriesFirst
deriving DecidableEq, Repr

/-- Which position a cover has captured: the one at which its handling finds the belt, or the one before it, a forward step having
been taken between the capture and the handling (R58, log entry 32). -/
inductive Capture
  | present | stepBefore
deriving DecidableEq, Repr

/-- What a cover brings with it: its cell, and which position it has captured. -/
structure CoverEvent where
  cell : Cell
  capture : Capture
deriving DecidableEq, Repr

/-- What a forward step brings with it: the sample set of its flash (R23), and its order with the entries of its position. -/
structure BeltStep where
  samples : SampleSet
  order : StepOrder
deriving DecidableEq, Repr

/-- What a page scan brings with it: the words the line processor has stored since the parts before, and how many parts of the scan
are carried through before an event of another block comes in between (R170, log entries 12 and 34). -/
structure ScanAct where
  stores : List LineStore
  parts : Nat
deriving DecidableEq, Repr

/-- When run control takes the report of a target that a ramp tick reaches: in the tick, or after an event that comes in between (R127,
log entry 35). A RAMP_TICK given without it has the report in the tick. -/
inductive ReportTime
  | withTick | afterwards
deriving DecidableEq, Repr

/-- The commands. Each row of the opcode table is one whole and indivisible step of the controller; the operands are
what the step brings with it from outside (a written value, a cell, a level, the samples of a flash, the words of a
request cell). Rows whose whole content is in the controller's state have no operand. -/
inductive Instr
  | resetInput
  | controlReset
  | setEnable (value : Word)
  | clearEnable (value : Word)
  | scanTap (value : Word)
  | pageAddressWrite (value : Word)
  | attentionMaskWrite (value : Word)
  | attentionRead
  | attentionWrite (value : Word)
  | forwardStep (step : BeltStep)
  | reverseStep
  | cover (x : CoverEvent)
  | uncover (c : Cell)
  | guardOpening
  | guardClosing
  | fullInputChange (d : Dest) (level : FullLevel)
  | pageScan (x : ScanAct)
  | rampTick (report : ReportTime := .withTick)
  | stillTimerExpiry
  | dwellTimerExpiry
  | holdTimerExpiry
  | trayAgeExpiry
  | intakeComplete
  | forcedClose
  | crawlEnd
  | gateOpen
  | gateClose
  | printStart
  | cellDeadline
  | overstay
  | moveReports
  | loadPlan (cell : Fin 8) (tag : Word)
  | start (cell : Fin 8) (tag : Word)
  | drain (cell : Fin 8) (tag : Word)
  | stop (cell : Fin 8) (tag : Word)
  | setImpression (cell : Fin 8) (tag slot columns : Word)
  | loadKiller (cell : Fin 8) (tag bank columns : Word)
  | setStacker (cell : Fin 8) (tag stacker service : Word)
  | snapshotTallies (cell : Fin 8) (tag clear : Word)
  | closeTray (cell : Fin 8) (tag : Word)
  | clearJam (cell : Fin 8) (tag : Word)
  | unknownKind (cell : Fin 8) (tag kind : Word)
deriving DecidableEq, Repr

end Sys2Proof
end

