-- ==== Sys2Proof/Decode.lean ====
section
/-! DEFINITION. Decoding. The FC640 is a block that takes commands; no row of spec/opcode_table.json gives any bits, so
no word spells a command. -/

namespace Sys2Proof

/-- The command a table word spells: none, since no row of the table gives bits. -/
def decodeTableWord (_nbits _w : Nat) : Option Instr := none

end Sys2Proof
end

