-- ==== Sys2Proof/Config.lean ====
section
/-! DEFINITION. The values the spec leaves open, as constants without a body: nothing can evaluate them, so every
claim holds whatever they are. -/

namespace Sys2Proof.Config

/-- The length used for a piece whose length is still absent where a rule reads "the record's length" and says
that it is present (R48, R53, R75, R80, R96, R114). The argument is the record's open key, drawn from the model's own
counter at the piece's admission. DESIGN CHOICE: the spec states no result there (log entry 5). -/
opaque unstatedLength : Nat → Nat

end Sys2Proof.Config
end

