-- ==== Sys2Proof/Machine/State.lean ====
section
/-! DEFINITION. The state of the FC640: one structure for each block of spec/00_scope.md, 0.5, that owns state, the
line memory, the inputs, the queue of waiting commands, and the state after reset. -/

namespace Sys2Proof.Machine

/-! ## Names of states, phases, reasons, causes and results -/

/-- The run states (R125). -/
inductive RunState
  | idle | starting | running | draining | stopping | jammed
deriving DecidableEq, Repr

/-- The pocket states (R72). -/
inductive PocketState
  | empty | reserved | entering | dwell | waiting | releasing
deriving DecidableEq, Repr

/-- The pocket motor commands (R73). -/
inductive Motor
  | inward | hold | outward
deriving DecidableEq, Repr

/-- The phases of a piece (R22). -/
inductive Phase
  | entering | scanning | travelling | pocketed | released | downstream
deriving DecidableEq, Repr

/-- The four scanners, which give the four attitudes their names (R23, R47), in the tie order of R43. -/
inductive Scanner
  | aTop | bBottom | bTop | aBottom
deriving DecidableEq, Repr

/-- The classes a run can qualify in (R33); class NONE is the absence of one. -/
inductive IndiciumClass
  | tag | meter
deriving DecidableEq, Repr

/-- Turnings (R47). -/
inductive Turning
  | straight | twist | reverse | both
deriving DecidableEq, Repr

/-- The eight cull reasons, in the cull precedence (R21). -/
inductive CullReason
  | overlength | underlength | shortGap | noIndicium | ambiguous | lateDecision | pocketBusy | noRoom
deriving DecidableEq, Repr

/-- Outcomes of a piece (R157). -/
inductive PieceOutcome
  | sorted | culled | stranded | purged
deriving DecidableEq, Repr

/-- Cancel results (R21). -/
inductive CancelResult
  | unprinted | full | dieOnly | incomplete
deriving DecidableEq, Repr

/-- Cancel policies (R94). -/
inductive Policy
  | nothing | dieOnly | full
deriving DecidableEq, Repr

/-- The seven gates (R65). -/
inductive Gate
  | twist | pocket
  | stk (k : Stacker)
deriving DecidableEq, Repr

/-- A gate level; the gate drive output is asserted while the level is OPEN (R65). -/
inductive GateLevel
  | closed | opened
deriving DecidableEq, Repr

/-- Protect modes (R142). -/
inductive ProtectMode
  | cut | ramp | crawlThenCut
deriving DecidableEq, Repr

/-- Trip causes (R137). -/
inductive TripCause
  | missing | stray | overstay | guardOpened
deriving DecidableEq, Repr

/-- Tray close causes (R166). -/
inductive CloseCause
  | full | age | request | idle | purge
deriving DecidableEq, Repr

/-- Result codes of a request (R177). -/
inductive ResultCode
  | ok | unknownKind | badArgument | wrongState | planInvalid | notReady | slotActive | guardOpen | cellsCovered
  | notStill | superseded | tripped | nothingToClose
deriving DecidableEq, Repr

/-- The kinds of run request that can be pending (R125). -/
inductive RunKind
  | start | drain | stop
deriving DecidableEq, Repr

/-- The five attention causes (R175). -/
inductive AttentionCause
  | jam | trayStarved | carry | trayClosed | requestDone
deriving DecidableEq, Repr

/-- The counters of the piece group (R151). In the destination, attitude and class subgroups `none` is the counter
NO_DEST or NONE; the length bins are numbered from 0. -/
inductive PieceCounter
  | completed
  | outcome (o : PieceOutcome)
  | dest (d : Option Dest)
  | attitude (a : Option Scanner)
  | cls (c : Option IndiciumClass)
  | lengthBin (b : Fin 5)
  | cancel (r : CancelResult)
deriving DecidableEq, Repr

/-- The counters of the event group (R151). -/
inductive EventCounter
  | cull (r : CullReason)
  | untracked | runsDropped | truncated | diverted | mergeGaps | trips
deriving DecidableEq, Repr

/-- A timer: stopped, or running toward the time of the timebase at which it expires, in ms. -/
abbrev Timer := Option Nat

/-! ## Cell unit (R3, R5, R6) -/

/-- Who is expected at, or covers, a cell: a tracked piece by its number, or UNTRACKED (R3, R5). -/
inductive Occupant
  | piece (p : PieceNo)
  | untracked
deriving DecidableEq, Repr

/-- What the cell unit keeps for one cell (R3). -/
structure CellState where
  covered : Bool
  coverAt : Pos
  uncoverAt : Pos
  occupant : Option Occupant
deriving DecidableEq, Repr

/-- An expectation (R5); its cell is the cell in whose queue it stands. -/
structure Expectation where
  who : Occupant
  early : Pos
  late : Pos
deriving DecidableEq, Repr

/-- The cell unit (R3, R6). -/
structure CellUnit where
  cells : Vector CellState 11
  queues : Vector (List Expectation) 11
deriving DecidableEq, Repr

/-! ## Admission unit (R13) -/

structure Admission where
  nextPiece : PieceNo
  prevTrail : Option Pos
  travel : Nat
  prevPiece : Option Occupant
deriving DecidableEq, Repr

/-! ## Tracking table (R20, R21) -/

/-- A stretch of offsets, start included and stop excluded (0.9). -/
structure Span where
  start : Nat
  stop : Nat
deriving DecidableEq, Repr

/-- The decision field of a record (R52); attitude and class NONE are `none`. -/
structure Decision where
  attitude : Option Scanner
  cls : Option IndiciumClass
  best : Nat
  second : Nat
  span : Option Span
  turning : Turning
  qualifying : Nat
deriving DecidableEq, Repr

/-- The set of cull reasons of a piece (R21). -/
structure CullSet where
  overlength : Bool
  underlength : Bool
  shortGap : Bool
  noIndicium : Bool
  ambiguous : Bool
  lateDecision : Bool
  pocketBusy : Bool
  noRoom : Bool
deriving DecidableEq, Repr

/-- The set of flags of a piece (R21); `incomplete` is PARTIAL. -/
structure PieceFlags where
  coupled : Bool
  truncated : Bool
  incomplete : Bool
  diverted : Bool
  runsDropped : Bool
  forcedClose : Bool
  missing : Bool
deriving DecidableEq, Repr

/-- A cancel plan (R97); the bank is absent under DIE_ONLY. -/
structure CancelPlan where
  policy : Policy
  start : Nat
  bank : Option (Fin 4)
  killer : Nat
  die : Nat
deriving DecidableEq, Repr

/-- The next-cell fields of a record (R5). -/
structure NextCell where
  cell : Cell
  early : Pos
  late : Pos
deriving DecidableEq, Repr

/-- A piece record (R21). `openKey` is the model's own: the argument of the free value that stands for this piece's
length where a rule reads an absent one (log entry 5). -/
structure Record where
  number : PieceNo
  phase : Phase
  lead : Pos
  admittedAt : Pos
  length : Option Nat
  gap : Option Nat
  slot : Fin 2
  coupledTo : Option PieceNo
  decision : Option Decision
  culls : CullSet
  flags : PieceFlags
  destination : Option Dest
  plan : Option CancelPlan
  result : CancelResult
  dots : Nat
  next : Option NextCell
  lastCell : Cell
  openKey : Nat
deriving DecidableEq, Repr

/-! ## Scan unit (R24) -/

/-- The run being accumulated (R31). -/
structure OpenRun where
  start : Nat
  sumP : Nat
  sumG : Nat
  excess : Nat
deriving DecidableEq, Repr

/-- A kept run (R37). -/
structure KeptRun where
  start : Nat
  stop : Nat
  cls : IndiciumClass
  score : Nat
deriving DecidableEq, Repr

/-- What the scan context keeps for one scanner: the comparator is IN exactly while a run is open (R24, R30). -/
structure ScannerState where
  run : Option OpenRun
  kept : List KeptRun
deriving DecidableEq, Repr

/-- What the scan context holds while its state is OPEN (R24). -/
structure Window where
  piece : PieceNo
  openAt : Pos
  count : Nat
deriving DecidableEq, Repr

/-- The scan context (R24): OPEN exactly while a window is present. The run lists outlast the close: they stand as handed over
until the next window opens (R37). -/
structure ScanContext where
  window : Option Window
  scanners : PerScanner ScannerState
deriving DecidableEq, Repr

/-! ## Action schedule (R56) -/

inductive EntryKind
  | gateOpen (g : Gate)
  | gateClose (g : Gate)
  | printStart
  | cellDeadline (c : Cell)
  | overstay (c : Cell)
deriving DecidableEq, Repr

structure Entry where
  kind : EntryKind
  piece : PieceNo
  due : Pos
deriving DecidableEq, Repr

/-! ## Pocket controller (R72, R73) -/

structure Pocket where
  state : PocketState
  occupant : Option PieceNo
  intake : Nat
  dwellTimer : Timer
  holdTimer : Timer
  passes : Nat
  cellClear : Bool
  mergeHold : Bool
  motor : Motor
deriving DecidableEq, Repr

/-! ## Cancel printer (R89, R99) -/

/-- An impression slot; the column count is the number of columns held (R89). -/
structure DieSlot where
  columns : List Word
  inUse : Nat
deriving DecidableEq, Repr

/-- The impression in progress (R99). -/
structure Impression where
  piece : PieceNo
  base : Pos
  killer : Nat
  die : Nat
  bank : Option (Fin 4)
  slot : Fin 2
  next : Nat
  skipped : Bool
deriving DecidableEq, Repr

/-- The printer is PRINTING exactly while a job is present (R99); `head` is the printhead column output. -/
structure Printer where
  slots : Vector DieSlot 2
  active : Fin 2
  waiting : Option (Fin 2)
  banks : Vector (List Word) 4
  job : Option Impression
  head : Word
deriving DecidableEq, Repr

/-! ## Stacker router (R108) -/

structure Router where
  inService : Vector Bool 5
  full : Vector FullLevel 5
  endFull : FullLevel
  lastRouted : Option (PieceNo × Dest)
deriving DecidableEq, Repr

/-! ## Drive reference and still detection (R121, R124) -/

/-- The drive reference and still detection. `report` is the model's own: the value of a target reached at a ramp tick of which run
control is still to be told (R127, log entry 35). -/
structure Drive where
  code : Nat
  target : Nat
  rampTimer : Timer
  still : Bool
  stillTimer : Timer
  report : Option Nat
deriving DecidableEq, Repr

/-! ## Run control (R125, R135, R136) -/

/-- The pending run request: its kind, its request cell (the pending cell of R168) and the tag read at the take. -/
structure RunRequest where
  kind : RunKind
  cell : Fin 8
  tag : Word
deriving DecidableEq, Repr

/-- The feed hold reasons standing (R135). -/
structure FeedHold where
  notRunning : Bool
  tableMargin : Bool
  reportSpace : Bool
  mergeGap : Bool
  endFull : Bool
deriving DecidableEq, Repr

structure RunControl where
  state : RunState
  request : Option RunRequest
  hold : FeedHold
  feedEnable : Bool
deriving DecidableEq, Repr

/-! ## Protect unit (R137) -/

structure Protect where
  latch : Bool
  cause : Option TripCause
  cell : Option Cell
  position : Pos
  piece : Option PieceNo
  furtherTrips : Nat
  crawlCount : Nat
  crawling : Bool
  guardIsOpen : Bool
  recordWritten : Bool
  rewriteDue : Bool
deriving DecidableEq, Repr

/-! ## Tally unit (R151) -/

structure Tally where
  pieces : Vector (BitVec 24) 29
  pieceCarry : Vector Bool 29
  events : Vector (BitVec 16) 14
  eventCarry : Vector Bool 14
  dots : Word
  dotsCarry : Bool
  snapshot : BitVec 16
deriving DecidableEq, Repr

/-! ## Report unit (R157, R159) -/

/-- A piece report (R157): the record as it stood when the report was made, with its outcome. -/
structure Report where
  piece : Record
  outcome : PieceOutcome
deriving DecidableEq, Repr

/-- The open tray (R159); a tray just taken has no first or last piece number. -/
structure OpenTray where
  index : Fin 16
  addr : Word
  count : Nat
  firstPiece : Option PieceNo
  lastPiece : Option PieceNo
deriving DecidableEq, Repr

/-- The report unit. `closeDue` says that close due is AGE. `filingDue` is the model's own: an act has appended reports
and the MOVE_REPORTS that follows it has not been taken yet (log entry 9). -/
structure ReportUnit where
  held : List Report
  tray : Option OpenTray
  cursor : Option (Fin 16)
  serial : Word
  ageTimer : Timer
  closeDue : Bool
  starved : Bool
  filingDue : Bool
deriving DecidableEq, Repr

/-! ## Page interface (R168) and working plan (R174) -/

/-- One thing kept for each attention cause (R168). -/
structure PerCause (α : Type) where
  jam : α
  trayStarved : α
  carry : α
  trayClosed : α
  requestDone : α
deriving DecidableEq, Repr

/-- A request read from its cell at the take (R172). -/
structure Request where
  cell : Fin 8
  kind : Word
  tag : Word
  arg0 : Word
  arg1 : Word
  arg2 : Word
deriving DecidableEq, Repr

/-- A part of a page scan, between two of which events of other blocks may fall: steps 1, 2 and 3, and each request cell of step 4
(R170). -/
inductive ScanPart
  | status | jamRecord | trays
  | cell (i : Fin 8)
deriving DecidableEq, Repr

/-- The page interface; its pending cell stands with the pending run request. `scanLeft` holds the parts still to come of the page
scan in progress, in order; it is empty while none is. `readData` is what the last register read presented at the register port. -/
structure PageInterface where
  pageAddress : Word
  enable : Bool
  scanTap : BitVec 3
  causes : PerCause Bool
  seen : PerCause Bool
  masked : PerCause Bool
  scanTimer : Timer
  scanLeft : List ScanPart
  readData : Word
deriving DecidableEq, Repr

/-- A route of the routing table (R111). -/
structure Route where
  primary : Dest
  alternate : Dest
deriving DecidableEq, Repr

/-- The plan parameters, in the order of the plan area (section 11.7). -/
structure Plan where
  dScan : Nat
  dTwist : Nat
  dRev : Nat
  dPocket : Nat
  dRelease : Nat
  dMerge : Nat
  dCancel : Nat
  dStk1 : Nat
  dStk2 : Nat
  dStk3 : Nat
  dStk4 : Nat
  dStk5 : Nat
  dEnd : Nat
  minLen : Nat
  maxLen : Nat
  minGap : Nat
  gateLead : Nat
  gateLag : Nat
  cellTol : Nat
  onLevel : Nat
  offLevel : Nat
  endWin : Nat
  tagRMin : Nat
  mtrRMin : Nat
  mtrRMax : Nat
  tagLenMin : Nat
  tagLenMax : Nat
  mtrLenMin : Nat
  mtrLenMax : Nat
  ambig : Nat
  policyTag : Policy
  policyMeter : Policy
  bankTag : Fin 4
  bankMeter : Fin 4
  killLead : Nat
  tailMargin : Nat
  routeTag : Route
  routeMeter : Route
  routeCull : Route
  revDwell : Nat
  revMaxHold : Nat
  mergeRatio : Nat
  runCode : Nat
  crawlCode : Nat
  codeStep : Nat
  rampTick : Nat
  stillTime : Nat
  protectMode : ProtectMode
  crawlSteps : Nat
  b1 : Nat
  b2 : Nat
  b3 : Nat
  b4 : Nat
  maskPiece : Bool
  maskEvent : Bool
  maskDots : Bool
  trayAge : Nat
deriving DecidableEq, Repr

/-! ## The state -/

/-- Line memory as (address, byte) pairs in canonical form: addresses rising and below 2^32, no byte equal to the 0 an
unlisted address reads as (log entry 3). -/
abbrev Memory := List Host.Cell

/-- The FC640, its line memory and its inputs. `pending` is the queue of waiting commands, first in first out.
`openSeq` is the model's own counter for free values (log entry 5). -/
structure State where
  pending : List Instr
  now : Nat
  position : Pos
  lastStep : Nat
  samples : SampleSet
  cellUnit : CellUnit
  admission : Admission
  records : List Record
  scan : ScanContext
  schedule : List Entry
  gates : Vector GateLevel 7
  pocket : Pocket
  printer : Printer
  router : Router
  drive : Drive
  run : RunControl
  protect : Protect
  tally : Tally
  reports : ReportUnit
  port : PageInterface
  plan : Plan
  planValid : Bool
  mem : Memory
  openSeq : Nat
deriving DecidableEq, Repr

/-- Why the machine could stop with a fault. The FC640 has no such stop: an error of the letter path is a trip into
JAMMED, which is a next state, so this type has no constructor. -/
inductive Fault
deriving DecidableEq, Repr

/-- Why a command could be refused by the model. -/
inductive Refusal
  /-- Raised by an arm of exec whose command has no meaning yet; no arm does. Safe: the model stops where the machine
  goes on. -/
  | notModelled (mnemonic : String)
deriving DecidableEq, Repr

/-! ## The state after reset -/

/-- A cell that shows its input clear, with captures 0 and no occupant (R3). -/
def clearCell : CellState where
  covered := false
  coverAt := 0
  uncoverAt := 0
  occupant := none

def CullSet.none : CullSet where
  overlength := false
  underlength := false
  shortGap := false
  noIndicium := false
  ambiguous := false
  lateDecision := false
  pocketBusy := false
  noRoom := false

def PieceFlags.none : PieceFlags where
  coupled := false
  truncated := false
  incomplete := false
  diverted := false
  runsDropped := false
  forcedClose := false
  missing := false

def PerCause.all {α : Type} (x : α) : PerCause α where
  jam := x
  trayStarved := x
  carry := x
  trayClosed := x
  requestDone := x

def PerScanner.all {α : Type} (x : α) : PerScanner α where
  aTop := x
  bBottom := x
  bTop := x
  aBottom := x

/-- A FREE scan context: comparators OUT, no run open, run lists empty (R24, R29). -/
def ScanContext.free : ScanContext where
  window := none
  scanners := PerScanner.all ⟨none, []⟩

/-- The contents of the working plan while none has been loaded. The plan is then invalid (R174) and the spec gives it no
contents: every parameter 0 (DESIGN CHOICE, log entry 4). -/
def Plan.blank : Plan where
  dScan := 0
  dTwist := 0
  dRev := 0
  dPocket := 0
  dRelease := 0
  dMerge := 0
  dCancel := 0
  dStk1 := 0
  dStk2 := 0
  dStk3 := 0
  dStk4 := 0
  dStk5 := 0
  dEnd := 0
  minLen := 0
  maxLen := 0
  minGap := 0
  gateLead := 0
  gateLag := 0
  cellTol := 0
  onLevel := 0
  offLevel := 0
  endWin := 0
  tagRMin := 0
  mtrRMin := 0
  mtrRMax := 0
  tagLenMin := 0
  tagLenMax := 0
  mtrLenMin := 0
  mtrLenMax := 0
  ambig := 0
  policyTag := .nothing
  policyMeter := .nothing
  bankTag := 0
  bankMeter := 0
  killLead := 0
  tailMargin := 0
  routeTag := ⟨.endCatch, .endCatch⟩
  routeMeter := ⟨.endCatch, .endCatch⟩
  routeCull := ⟨.endCatch, .endCatch⟩
  revDwell := 0
  revMaxHold := 0
  mergeRatio := 0
  runCode := 0
  crawlCode := 0
  codeStep := 0
  rampTick := 0
  stillTime := 0
  protectMode := .cut
  crawlSteps := 0
  b1 := 0
  b2 := 0
  b3 := 0
  b4 := 0
  maskPiece := false
  maskEvent := false
  maskDots := false
  trayAge := 0

/-- The counters and carry flags after a reset (R151). -/
def Tally.zero : Tally where
  pieces := Vector.replicate 29 0
  pieceCarry := Vector.replicate 29 false
  events := Vector.replicate 14 0
  eventCarry := Vector.replicate 14 false
  dots := 0
  dotsCarry := false
  snapshot := 0

/-- The machine right after the reset input, with an empty queue: every value as the owning rule gives it (R1, R3, R6,
R13, R20, R24, R56, R65, R72, R73, R89, R99, R108, R121, R124, R125, R135, R136, R137, R151, R159, R168, R174). The
inputs are shown clear, inactive and closed, the samples 0, the time 0 and line memory with nothing listed (DESIGN
CHOICE, log entries 2 and 3). -/
def State.reset : State where
  pending := []
  now := 0
  position := 0
  lastStep := 0
  samples := PerScanner.all ⟨0, 0⟩
  cellUnit := { cells := Vector.replicate 11 clearCell, queues := Vector.replicate 11 [] }
  admission := { nextPiece := 1, prevTrail := none, travel := 0, prevPiece := none }
  records := []
  scan := ScanContext.free
  schedule := []
  gates := Vector.replicate 7 .closed
  pocket :=
    { state := .empty, occupant := none, intake := 0, dwellTimer := none, holdTimer := none, passes := 0,
      cellClear := false, mergeHold := false, motor := .inward }
  printer :=
    { slots := Vector.replicate 2 ⟨[], 0⟩, active := 0, waiting := none, banks := Vector.replicate 4 [], job := none,
      head := 0 }
  router :=
    { inService := Vector.replicate 5 false, full := Vector.replicate 5 .inactive, endFull := .inactive,
      lastRouted := none }
  drive := { code := 0, target := 0, rampTimer := none, still := false, stillTimer := some 1000, report := none }
  run :=
    { state := .idle, request := none,
      hold :=
        { notRunning := true, tableMargin := false, reportSpace := false, mergeGap := false, endFull := false },
      feedEnable := false }
  protect :=
    { latch := false, cause := none, cell := none, position := 0, piece := none, furtherTrips := 0, crawlCount := 0,
      crawling := false, guardIsOpen := false, recordWritten := false, rewriteDue := false }
  tally := Tally.zero
  reports :=
    { held := [], tray := none, cursor := none, serial := 1, ageTimer := none, closeDue := false, starved := false,
      filingDue := false }
  port :=
    { pageAddress := 0, enable := false, scanTap := 3, causes := PerCause.all false, seen := PerCause.all false,
      masked := PerCause.all false, scanTimer := none, scanLeft := [], readData := 0 }
  plan := Plan.blank
  planValid := false
  mem := []
  openSeq := 0

end Sys2Proof.Machine
end

