-- ==== Sys2Proof/Machine/Operands.lean ====
section
/-! DEFINITION. Positions and their order, the numbering of cells, gates, scanners, counters and codes, line memory, and
the places of the run page (spec/01 R2, spec/00 0.8 to 0.10, spec/11 R177 to R179). -/

namespace Sys2Proof.Machine

/-! ## Positions (R2) -/

/-- The distance ahead of p from q: (p − q) modulo 65,536 (R2). -/
def distanceAhead (p q : Pos) : Nat := (p - q).toNat

/-- p is ahead of q when its distance ahead is 1 to 32,767 steps (R2). -/
def isAhead (p q : Pos) : Bool := 1 ≤ distanceAhead p q && distanceAhead p q ≤ 32767

/-- p is behind q when its distance ahead is 32,768 to 65,535 steps (R2). -/
def isBehind (p q : Pos) : Bool := 32768 ≤ distanceAhead p q

/-- a precedes b when b is ahead of a (R2). -/
def precedes (a b : Pos) : Bool := isAhead b a

/-- A position a number of steps beyond another, modulo 65,536 (0.8). -/
def posAdd (p : Pos) (n : Nat) : Pos := p + BitVec.ofNat 16 n

/-- A position a number of steps short of another, modulo 65,536 (0.8). -/
def posSub (p : Pos) (n : Nat) : Pos := p - BitVec.ofNat 16 n

/-- The signed distance of p from q: 0 to 32,767 as it stands, a greater one less 65,536 (R80). -/
def signedDistance (p q : Pos) : Int := (p - q).toInt

/-! ## Indexed stores -/

/-- A store with one item replaced. -/
def put {α : Type} {n : Nat} (v : Vector α n) (i : Fin n) (x : α) : Vector α n := v.set i.val x i.isLt

def stackerIdx : Stacker → Fin 5
  | .stk1 => 0
  | .stk2 => 1
  | .stk3 => 2
  | .stk4 => 3
  | .stk5 => 4

/-- Cells in the order ENTRY, SCAN, POCKET, MERGE, CANCEL, STK1 to STK5, END (0.3, R148). -/
def cellIdx : Cell → Fin 11
  | .entry => 0
  | .scan => 1
  | .pocket => 2
  | .merge => 3
  | .cancel => 4
  | .stk .stk1 => 5
  | .stk .stk2 => 6
  | .stk .stk3 => 7
  | .stk .stk4 => 8
  | .stk .stk5 => 9
  | .endCell => 10

def gateIdx : Gate → Fin 7
  | .twist => 0
  | .pocket => 1
  | .stk .stk1 => 2
  | .stk .stk2 => 3
  | .stk .stk3 => 4
  | .stk .stk4 => 5
  | .stk .stk5 => 6

def forScanner {α : Type} (v : PerScanner α) : Scanner → α
  | .aTop => v.aTop
  | .bBottom => v.bBottom
  | .bTop => v.bTop
  | .aBottom => v.aBottom

/-- The destination cell of a destination (R8). -/
def destCell : Dest → Cell
  | .stk k => .stk k
  | .endCatch => .endCell

/-! ## Codes (R177) -/

def runStateCode : RunState → Word
  | .idle => 0
  | .starting => 1
  | .running => 2
  | .draining => 3
  | .stopping => 4
  | .jammed => 5

def pocketStateCode : PocketState → Word
  | .empty => 0
  | .reserved => 1
  | .entering => 2
  | .dwell => 3
  | .waiting => 4
  | .releasing => 5

def phaseCode : Phase → Word
  | .entering => 0
  | .scanning => 1
  | .travelling => 2
  | .pocketed => 3
  | .released => 4
  | .downstream => 5

/-- ENTRY 1 to END 11 (R177). -/
def cellCode (c : Cell) : Word := BitVec.ofNat 32 ((cellIdx c).val + 1)

/-- A cell or none, none being 0 (R177). -/
def optCellCode : Option Cell → Word
  | none => 0
  | some c => cellCode c

/-- STK1 to STK5 1 to 5, END 6, none 0 (R177). -/
def optDestCode : Option Dest → Word
  | none => 0
  | some (.stk k) => BitVec.ofNat 32 ((stackerIdx k).val + 1)
  | some .endCatch => 6

/-- NONE 0, A-TOP 1, B-BOTTOM 2, B-TOP 3, A-BOTTOM 4 (R177). -/
def attitudeCode : Option Scanner → Word
  | none => 0
  | some .aTop => 1
  | some .bBottom => 2
  | some .bTop => 3
  | some .aBottom => 4

def classCode : Option IndiciumClass → Word
  | none => 0
  | some .tag => 1
  | some .meter => 2

def turningCode : Turning → Word
  | .straight => 0
  | .twist => 1
  | .reverse => 2
  | .both => 3

def outcomeCode : PieceOutcome → Word
  | .sorted => 0
  | .culled => 1
  | .stranded => 2
  | .purged => 3

def cancelResultCode : CancelResult → Word
  | .unprinted => 0
  | .full => 1
  | .dieOnly => 2
  | .incomplete => 3

def policyCode : Policy → Word
  | .nothing => 0
  | .dieOnly => 1
  | .full => 2

/-- OVERLENGTH 1 to NO_ROOM 8, none 0 (R177). -/
def cullReasonCode : Option CullReason → Word
  | none => 0
  | some .overlength => 1
  | some .underlength => 2
  | some .shortGap => 3
  | some .noIndicium => 4
  | some .ambiguous => 5
  | some .lateDecision => 6
  | some .pocketBusy => 7
  | some .noRoom => 8

def tripCauseCode : Option TripCause → Word
  | none => 0
  | some .missing => 1
  | some .stray => 2
  | some .overstay => 3
  | some .guardOpened => 4

def closeCauseCode : CloseCause → Word
  | .full => 1
  | .age => 2
  | .request => 3
  | .idle => 4
  | .purge => 5

def resultCode : ResultCode → Word
  | .ok => 0
  | .unknownKind => 1
  | .badArgument => 2
  | .wrongState => 3
  | .planInvalid => 4
  | .notReady => 5
  | .slotActive => 6
  | .guardOpen => 7
  | .cellsCovered => 8
  | .notStill => 9
  | .superseded => 10
  | .tripped => 11
  | .nothingToClose => 12

/-- Request cell states EMPTY 0, POSTED 1, TAKEN 2, DONE 3 (R177). -/
def cellPosted : Word := 1
def cellTaken : Word := 2
def cellDone : Word := 3

/-- Rack entry states EMPTY 0, READY 1, FILLING 2, FULL 3 (R177). -/
def rackReady : Word := 1
def rackFilling : Word := 2
def rackFull : Word := 3

/-- Jam record states CLEARED 0, COMPLETE 1 (R177). -/
def recordCleared : Word := 0
def recordComplete : Word := 1

/-! ## Bits and words -/

/-- One bit of a word. -/
def bitOf (b : Bool) (at' : Nat) : Word := if b then 1#32 <<< at' else 0

/-- The low `width` bits of a value placed at bit `lo` of a word. -/
def fieldAt (lo width : Nat) (x : Word) : Word := ((x.setWidth width).setWidth 32) <<< lo

/-- A count as a word. -/
def countWord (n : Nat) : Word := BitVec.ofNat 32 n

/-- A position as a word. -/
def posWord (p : Pos) : Word := p.setWidth 32

/-- Bit n of the word is item n of the list. -/
def bitsWord (l : List Bool) : Word :=
  BitVec.ofNat 32 (l.foldr (fun b acc => 2 * acc + b.toNat) 0)

/-- The number of set bits of a column (R102). -/
def dotsOf (w : Word) : Nat := (List.range 32).countP (fun i => w.getLsbD i)

/-! ## Line memory (0.2, 0.10) -/

/-- The byte at an address; an unlisted address reads as 0 (DESIGN CHOICE, log entry 3). -/
def Memory.read : Memory → Nat → Byte
  | [], _ => 0
  | (k, v) :: t, a => if k = a then v else Memory.read t a

/-- One byte stored, the canonical form kept: storing 0 unlists the address. -/
def Memory.write : Memory → Nat → Byte → Memory
  | [], a, v => if v = 0 then [] else [(a, v)]
  | (k, w) :: t, a, v =>
    if a < k then (if v = 0 then (k, w) :: t else (a, v) :: (k, w) :: t)
    else if a = k then (if v = 0 then t else (a, v) :: t)
    else (k, w) :: Memory.write t a v

/-- Addresses rise from `lo` on and lie below 2^32, and no listed byte is 0. -/
def Memory.wfFrom : Nat → Memory → Bool
  | _, [] => true
  | lo, (k, v) :: t => decide (lo ≤ k) && decide (k < 4294967296) && (v != 0) && Memory.wfFrom (k + 1) t

/-- The canonical form holds. -/
def Memory.wf (m : Memory) : Bool := Memory.wfFrom 0 m

/-- A little-endian word of line memory (0.10). -/
def Memory.readWord (m : Memory) (a : Word) : Word :=
  m.read (a + 3).toNat ++ m.read (a + 2).toNat ++ m.read (a + 1).toNat ++ m.read a.toNat

/-- A little-endian word stored into line memory (0.10). -/
def Memory.writeWord (m : Memory) (a w : Word) : Memory :=
  (((m.write a.toNat (w.extractLsb' 0 8)).write (a + 1).toNat (w.extractLsb' 8 8)).write (a + 2).toNat
    (w.extractLsb' 16 8)).write (a + 3).toNat (w.extractLsb' 24 8)

/-- The four byte addresses of the word at an address, in rising order of significance (0.10). -/
def wordBytes (a : Word) : List Nat := [a.toNat, (a + 1).toNat, (a + 2).toNat, (a + 3).toNat]

/-- The bytes of a list of words stored from an address on. -/
def wordsBytes (a : Word) : List Word → List Nat
  | [] => []
  | _ :: t => wordBytes a ++ wordsBytes (a + 4) t

/-- Two words that share no byte. -/
def wordsApart (a b : Word) : Prop := ∀ x ∈ wordBytes a, x ∉ wordBytes b

/-- Words stored one after another from an address on, past 4,294,967,295 from address 0 on (log entry 31). -/
def Memory.writeWords (m : Memory) (a : Word) : List Word → Memory
  | [] => m
  | w :: ws => Memory.writeWords (m.writeWord a w) (a + 4) ws

/-! ## The run page (section 11.7) -/

/-- The address of a byte offset of the run page. -/
def State.pageAt (s : State) (off : Nat) : Word := s.port.pageAddress + BitVec.ofNat 32 off

/-- A word of the run page. -/
def State.pageWord (s : State) (off : Nat) : Word := s.mem.readWord (s.pageAt off)

def State.storeWord (s : State) (a w : Word) : State := { s with mem := s.mem.writeWord a w }

def State.storeWords (s : State) (a : Word) (ws : List Word) : State := { s with mem := s.mem.writeWords a ws }

/-- Word w of request cell i: 0x100 + 32 × i + 4 × w. -/
def requestOffset (i : Fin 8) (w : Nat) : Nat := 0x100 + 32 * i.val + 4 * w

/-- Word w of rack entry i: 0x240 + 8 × i + 4 × w. -/
def rackOffset (i : Fin 16) (w : Nat) : Nat := 0x240 + 8 * i.val + 4 * w

def statusOffset : Nat := 0x200
def tallyOffset : Nat := 0x2C0
def jamOffset : Nat := 0x400
def jamEntryOffset (i : Nat) : Nat := 0x430 + 16 * i
def stagingOffset (c : Nat) : Nat := 0x800 + 4 * c

/-- The first n columns of the staging area, column c at word c (R90, 11.7). -/
def State.stagedColumns (s : State) (n : Nat) : List Word :=
  (List.range n).map fun c => s.pageWord (stagingOffset c)

/-- The line processor's stores reach line memory, in order. -/
def State.applyStores (s : State) (stores : List LineStore) : State :=
  stores.foldl (fun t x => t.storeWord x.addr x.value) s

end Sys2Proof.Machine
end

