-- ==== Sys2Proof/Machine/Flags.lean ====
section
/-! DEFINITION. The sets of bits the controller keeps: cull reasons and piece flags (R21), feed hold reasons and feed
enable (R135, R136), attention (R175), and the counters with their carry flags (R151 to R154). -/

namespace Sys2Proof.Machine

/-! ## Cull reasons and flags of a piece (R21) -/

def CullSet.add (c : CullSet) : CullReason → CullSet
  | .overlength => { c with overlength := true }
  | .underlength => { c with underlength := true }
  | .shortGap => { c with shortGap := true }
  | .noIndicium => { c with noIndicium := true }
  | .ambiguous => { c with ambiguous := true }
  | .lateDecision => { c with lateDecision := true }
  | .pocketBusy => { c with pocketBusy := true }
  | .noRoom => { c with noRoom := true }

def CullSet.has (c : CullSet) : CullReason → Bool
  | .overlength => c.overlength
  | .underlength => c.underlength
  | .shortGap => c.shortGap
  | .noIndicium => c.noIndicium
  | .ambiguous => c.ambiguous
  | .lateDecision => c.lateDecision
  | .pocketBusy => c.pocketBusy
  | .noRoom => c.noRoom

/-- The cull reasons in the cull precedence (R21). -/
def cullPrecedence : List CullReason :=
  [.overlength, .underlength, .shortGap, .noIndicium, .ambiguous, .lateDecision, .pocketBusy, .noRoom]

/-- The first reason present in the precedence order (R21). -/
def CullSet.primary (c : CullSet) : Option CullReason := cullPrecedence.find? c.has

/-- A piece is culled when its set of cull reasons is not empty (R21). -/
def Record.isCulled (r : Record) : Bool := r.culls.primary.isSome

def Record.cull (r : Record) (c : CullReason) : Record := { r with culls := r.culls.add c }

/-- In a set, reason k is bit k − 1 (R177). -/
def CullSet.word (c : CullSet) : Word := bitsWord (cullPrecedence.map c.has)

/-- COUPLED 0, TRUNCATED 1, PARTIAL 2, DIVERTED 3, RUNS_DROPPED 4, FORCED_CLOSE 5, MISSING 6 (R177). -/
def PieceFlags.word (f : PieceFlags) : Word :=
  bitsWord [f.coupled, f.truncated, f.incomplete, f.diverted, f.runsDropped, f.forcedClose, f.missing]

/-- The record's length where present; otherwise the free value of this piece (DESIGN CHOICE, log entry 5). -/
def Record.lengthOrOpen (r : Record) : Nat := r.length.getD (Config.unstatedLength r.openKey)

/-- The record's length where present; otherwise 1,023 steps, the most a tracked piece can measure (R11, R81; in a phase
other than ENTERING, log entry 13). -/
def Record.lengthOrMost (r : Record) : Nat := r.length.getD 1023

/-! ## Feed hold and feed enable (R135, R136) -/

/-- The states in which pieces are followed: STARTING, RUNNING, DRAINING and STOPPING (R3). -/
def RunState.isRunning : RunState → Bool
  | .starting | .running | .draining | .stopping => true
  | .idle | .jammed => false

/-- The states in which the merge arbiter tests: STARTING, RUNNING and DRAINING (R82). -/
def RunState.testsMerge : RunState → Bool
  | .starting | .running | .draining => true
  | .idle | .stopping | .jammed => false

def FeedHold.anyStands (h : FeedHold) : Bool :=
  h.notRunning || h.tableMargin || h.reportSpace || h.mergeGap || h.endFull

/-- NOT_RUNNING 0, TABLE_MARGIN 1, REPORT_SPACE 2, MERGE_GAP 3, END_FULL 4 (R177). -/
def FeedHold.word (h : FeedHold) : Word :=
  bitsWord [h.notRunning, h.tableMargin, h.reportSpace, h.mergeGap, h.endFull]

/-- The reasons that follow the run state and the counts, with MERGE_GAP and END_FULL as their owners left them (R135). -/
def State.feedHoldNow (s : State) : FeedHold :=
  { notRunning := s.run.state != .running
    tableMargin := decide (30 ≤ s.records.length)
    reportSpace := decide (46 ≤ s.reports.held.length + s.records.length)
    mergeGap := s.run.hold.mergeGap
    endFull := s.run.hold.endFull }

/-- Run control recomputes the feed hold reasons, and with them feed enable, which is asserted while none stands (R135,
R136; NOT_RUNNING stands outside RUNNING). -/
def State.recomputeFeed (s : State) : State :=
  { s with run := { s.run with hold := s.feedHoldNow, feedEnable := !s.feedHoldNow.anyStands } }

/-- The merge arbiter raises or withdraws MERGE_GAP (R83, R85). -/
def State.setMergeGap (s : State) (b : Bool) : State :=
  ({ s with
    pocket := { s.pocket with mergeHold := b }
    run := { s.run with hold := { s.run.hold with mergeGap := b } } }).recomputeFeed

/-- The router raises or withdraws END_FULL as the END full level changes (R110). -/
def State.setEndFull (s : State) (level : FullLevel) : State :=
  ({ s with
    router := { s.router with endFull := level }
    run := { s.run with hold := { s.run.hold with endFull := level == FullLevel.active } } }).recomputeFeed

/-- A change of run state, with the feed recomputed (R135). -/
def State.setRunState (s : State) (r : RunState) : State :=
  ({ s with run := { s.run with state := r } }).recomputeFeed

/-! ## Attention (R175, R176) -/

def PerCause.get {α : Type} (v : PerCause α) : AttentionCause → α
  | .jam => v.jam
  | .trayStarved => v.trayStarved
  | .carry => v.carry
  | .trayClosed => v.trayClosed
  | .requestDone => v.requestDone

def PerCause.set {α : Type} (v : PerCause α) (c : AttentionCause) (x : α) : PerCause α :=
  match c with
  | .jam => { v with jam := x }
  | .trayStarved => { v with trayStarved := x }
  | .carry => { v with carry := x }
  | .trayClosed => { v with trayClosed := x }
  | .requestDone => { v with requestDone := x }

/-- The five causes in the order of their bits, which is the order of the top-cause code (R175). -/
def allCauses : List AttentionCause := [.jam, .trayStarved, .carry, .trayClosed, .requestDone]

def causeBit : AttentionCause → Nat
  | .jam => 0
  | .trayStarved => 1
  | .carry => 2
  | .trayClosed => 3
  | .requestDone => 4

/-- Raising a cause sets it and makes its seen mark no (R175). -/
def State.raise (s : State) (c : AttentionCause) : State :=
  { s with port := { s.port with causes := s.port.causes.set c true, seen := s.port.seen.set c false } }

/-- A cause that is set and unmasked (R175). -/
def PageInterface.showing (p : PageInterface) (c : AttentionCause) : Bool := p.causes.get c && !p.masked.get c

/-- The attention line: asserted while at least one unmasked cause is set (R175). -/
def State.attentionLine (s : State) : Bool := allCauses.any s.port.showing

/-- The top-cause code: the code of the highest set, unmasked cause, or 0 (R175). -/
def State.topCause (s : State) : Nat :=
  match allCauses.find? s.port.showing with
  | none => 0
  | some c => causeBit c + 1

/-- What a read of ATTENTION shows: the set causes in bits 0 to 4 and the top-cause code in bits 8 to 10 (R175, R179);
the bits no table assigns read 0 (log entry 33). -/
def State.attentionWord (s : State) : Word :=
  bitsWord (allCauses.map s.port.causes.get) ||| fieldAt 8 3 (countWord s.topCause)

/-! ## Counters (R151 to R154) -/

def pieceCounterIdx : PieceCounter → Fin 29
  | .completed => 0
  | .outcome .sorted => 1
  | .outcome .culled => 2
  | .outcome .stranded => 3
  | .outcome .purged => 4
  | .dest (some (.stk .stk1)) => 5
  | .dest (some (.stk .stk2)) => 6
  | .dest (some (.stk .stk3)) => 7
  | .dest (some (.stk .stk4)) => 8
  | .dest (some (.stk .stk5)) => 9
  | .dest (some .endCatch) => 10
  | .dest none => 11
  | .attitude (some .aTop) => 12
  | .attitude (some .aBottom) => 13
  | .attitude (some .bTop) => 14
  | .attitude (some .bBottom) => 15
  | .attitude none => 16
  | .cls (some .tag) => 17
  | .cls (some .meter) => 18
  | .cls none => 19
  | .lengthBin 0 => 20
  | .lengthBin 1 => 21
  | .lengthBin 2 => 22
  | .lengthBin 3 => 23
  | .lengthBin 4 => 24
  | .cancel .full => 25
  | .cancel .dieOnly => 26
  | .cancel .incomplete => 27
  | .cancel .unprinted => 28

def eventCounterIdx : EventCounter → Fin 14
  | .cull .overlength => 0
  | .cull .underlength => 1
  | .cull .shortGap => 2
  | .cull .noIndicium => 3
  | .cull .ambiguous => 4
  | .cull .lateDecision => 5
  | .cull .pocketBusy => 6
  | .cull .noRoom => 7
  | .untracked => 8
  | .runsDropped => 9
  | .truncated => 10
  | .diverted => 11
  | .mergeGaps => 12
  | .trips => 13

/-- At a wrap of a counter whose group is unmasked, CARRY is raised (R154). -/
def State.raiseCarry (s : State) (wrapped masked : Bool) : State :=
  if wrapped && !masked then s.raise .carry else s

/-- One more in a counter of the piece group; passing 16,777,215 wraps, sets the carry flag and raises CARRY when the
group is unmasked (R152, R154). -/
def State.countPiece (s : State) (c : PieceCounter) : State :=
  let i := pieceCounterIdx c
  let v := s.tally.pieces.get i
  let wraps := v == BitVec.allOnes 24
  ({ s with
    tally := { s.tally with
      pieces := put s.tally.pieces i (v + 1)
      pieceCarry := put s.tally.pieceCarry i (s.tally.pieceCarry.get i || wraps) } }).raiseCarry wraps s.plan.maskPiece

/-- One more in a counter of the event group (R153, R154). -/
def State.countEvent (s : State) (c : EventCounter) : State :=
  let i := eventCounterIdx c
  let v := s.tally.events.get i
  let wraps := v == BitVec.allOnes 16
  ({ s with
    tally := { s.tally with
      events := put s.tally.events i (v + 1)
      eventCarry := put s.tally.eventCarry i (s.tally.eventCarry.get i || wraps) } }).raiseCarry wraps s.plan.maskEvent

/-- The dots of one column added to DOTS (R102, R154). -/
def State.countDots (s : State) (n : Nat) : State :=
  let wraps := decide (4294967296 ≤ s.tally.dots.toNat + n)
  ({ s with
    tally := { s.tally with
      dots := s.tally.dots + BitVec.ofNat 32 n
      dotsCarry := s.tally.dotsCarry || wraps } }).raiseCarry wraps s.plan.maskDots

end Sys2Proof.Machine
end

