-- ==== Sys2Proof/Machine/Ops.lean ====
section
/-! DEFINITION. The operations several commands share: piece records, request completion, the drive reference, the
printhead, the trip, the action schedule, expectations, and the freeing of a record. -/

namespace Sys2Proof.Machine

/-! ## Piece records (R20, R21) -/

def State.record? (s : State) (p : PieceNo) : Option Record := s.records.find? (fun r => r.number == p)

def State.isTracked (s : State) (p : PieceNo) : Bool := s.records.any (fun r => r.number == p)

/-- The fields of the record of one piece rewritten; nothing for a piece that is not tracked. -/
def State.updateRecord (s : State) (p : PieceNo) (f : Record → Record) : State :=
  { s with records := s.records.map (fun r => if r.number = p then f r else r) }

/-! ## Cells and queues (R3, R6) -/

def State.cell (s : State) (c : Cell) : CellState := s.cellUnit.cells.get (cellIdx c)

def State.setCell (s : State) (c : Cell) (x : CellState) : State :=
  { s with cellUnit := { s.cellUnit with cells := put s.cellUnit.cells (cellIdx c) x } }

def State.setOccupant (s : State) (c : Cell) (o : Option Occupant) : State :=
  s.setCell c { s.cell c with occupant := o }

def State.queue (s : State) (c : Cell) : List Expectation := s.cellUnit.queues.get (cellIdx c)

def State.setQueue (s : State) (c : Cell) (q : List Expectation) : State :=
  { s with cellUnit := { s.cellUnit with queues := put s.cellUnit.queues (cellIdx c) q } }

/-- Every queue keeps only the expectations that pass a test. -/
def State.filterQueues (s : State) (keep : Expectation → Bool) : State :=
  { s with cellUnit := { s.cellUnit with queues := s.cellUnit.queues.map (fun q => q.filter keep) } }

/-- The number of untracked expectations in all queues together (R6, R18). -/
def State.untrackedCount (s : State) : Nat :=
  (s.cellUnit.queues.toList.map (fun q => q.countP (fun e => e.who == .untracked))).sum

/-! ## Gates (R65 to R68) -/

def State.gate (s : State) (g : Gate) : GateLevel := s.gates.get (gateIdx g)

def State.setGate (s : State) (g : Gate) (l : GateLevel) : State := { s with gates := put s.gates (gateIdx g) l }

def State.closeAllGates (s : State) : State := { s with gates := Vector.replicate 7 .closed }

/-! ## Request completion (R173) -/

/-- The result code, the result value, the tag and the state DONE are written into the cell, in this order, and
REQUEST_DONE is raised (R173). -/
def State.completeRequest (s : State) (cell : Fin 8) (tag : Word) (r : ResultCode) (value : Word) : State :=
  ((((s.storeWord (s.pageAt (requestOffset cell 6)) (resultCode r)).storeWord (s.pageAt (requestOffset cell 7)) value
    ).storeWord (s.pageAt (requestOffset cell 2)) tag).storeWord (s.pageAt (requestOffset cell 0)) cellDone).raise
      .requestDone

/-- The pending run request, if any, completes, and no run request is pending (R125, R172). -/
def State.completeRun (s : State) (r : ResultCode) (value : Word) : State :=
  match s.run.request with
  | none => s
  | some q =>
    let t := s.completeRequest q.cell q.tag r value
    { t with run := { t.run with request := none } }

/-! ## Drive reference (R121, R123) -/

/-- A new target: equal to the code it stops the ramp timer; otherwise a stopped timer starts with a full period and a
running one runs on (R121, R123). -/
def State.setTarget (s : State) (v : Nat) : State :=
  { s with drive := { s.drive with
      target := v
      rampTimer := if s.drive.code = v then none else some (s.drive.rampTimer.getD (s.now + s.plan.rampTick)) } }

/-- A cut: code and target 0 at once, ramp timer stopped (R123). A cut is asked for in IDLE and JAMMED, where the telling
that the target 0 is reached has no effect, and a report of a ramp tick still outstanding has none either (R127, R131, log
entry 35). -/
def State.cut (s : State) : State :=
  { s with drive := { s.drive with code := 0, target := 0, rampTimer := none, report := none } }

/-! ## Pocket (R73, R79, R88) -/

/-- The pocket motor command that a pocket state calls for with the latch clear or set (R73). -/
def motorFor (st : PocketState) (latch : Bool) : Motor :=
  if latch then .hold
  else match st with
    | .empty | .reserved | .entering => .inward
    | .dwell | .waiting => .hold
    | .releasing => .outward

/-- A change of pocket state, with the motor command that follows it (R73). -/
def State.setPocket (s : State) (st : PocketState) : State :=
  { s with pocket := { s.pocket with state := st, motor := motorFor st s.protect.latch } }

/-- The pocket is emptied as its occupant's record is freed: timers stopped, counts 0, cell clear no and a standing merge
hold withdrawn (R79). -/
def State.emptyPocket (s : State) : State :=
  ({ s with pocket := { s.pocket with
      state := .empty, occupant := none, intake := 0, dwellTimer := none, holdTimer := none, passes := 0,
      cellClear := false, motor := motorFor .empty s.protect.latch } }).setMergeGap false

/-- The trip freezes the pocket: both timers stop and the motor command becomes HOLD (R88). -/
def State.freezePocket (s : State) : State :=
  { s with pocket := { s.pocket with dwellTimer := none, holdTimer := none, motor := .hold } }

/-! ## Printhead (R99 to R105) -/

/-- The cancel result of an impression that ends normally: PARTIAL when a column was skipped, otherwise the result of its
policy (R103); DIE_ONLY for a record without a plan, which no run reaches here (log entry 27). -/
def endResult (skipped : Bool) (r : Record) : CancelResult :=
  if skipped then .incomplete
  else match r.plan with
    | some pl => if pl.policy = .full then .full else .dieOnly
    | none => .dieOnly

/-- The impression in progress ends normally (R103). -/
def State.endImpression (s : State) (j : Impression) : State :=
  { s.updateRecord j.piece (fun r => { r with
      result := endResult j.skipped r
      flags := { r.flags with incomplete := r.flags.incomplete || j.skipped } }) with
    printer := { s.printer with job := none } }

/-- An impression in progress, if any, ends at once with result and flag PARTIAL (R104, R105, R106). -/
def State.endImpressionPartial (s : State) : State :=
  match s.printer.job with
  | none => s
  | some j =>
    { s.updateRecord j.piece (fun r => { r with
        result := .incomplete
        flags := { r.flags with incomplete := true } }) with
      printer := { s.printer with job := none } }

/-- The word of column c: from the bank while c is less than the killer columns printed, otherwise from the slot (R99); a column
beyond those held, which no run reaches, has no dot (log entry 27). -/
def State.columnWord (s : State) (j : Impression) (c : Nat) : Word :=
  if c < j.killer then
    match j.bank with
    | some b => (s.printer.banks.get b).getD c 0
    | none => 0
  else (s.printer.slots.get j.slot).columns.getD (c - j.killer) 0

/-- Column `j.next` is fired: its word is presented at the output, its dots are counted in the record and in DOTS, and
next column advances (R101, R102); after the last column the impression ends (R103). -/
def State.fireColumn (s : State) (j : Impression) : State :=
  let w := s.columnWord j j.next
  let t := (({ s with printer := { s.printer with head := w } }).updateRecord j.piece
    (fun r => { r with dots := r.dots + dotsOf w })).countDots (dotsOf w)
  let j' := { j with next := j.next + 1 }
  if j'.next < j.killer + j.die then { t with printer := { t.printer with job := some j' } }
  else t.endImpression j'

/-- A PRINT_START taken: an impression in progress ends PARTIAL (R104); the new one fires the column that belongs to the
present position, and the columns the belt has already passed are skipped (R100). -/
def State.startImpression (s : State) (p : PieceNo) (base : Pos) : State :=
  let t := s.endImpressionPartial
  match t.record? p with
  | none => t
  | some r =>
    match r.plan with
    | none => t
    | some pl =>
      let d := distanceAhead t.position base
      let j : Impression :=
        { piece := p, base := base, killer := pl.killer, die := pl.die, bank := pl.bank, slot := r.slot, next := d,
          skipped := decide (0 < d) }
      if d < pl.killer + pl.die then t.fireColumn j else t.endImpression j

/-! ## The trip (R140) -/

/-- Step 5 of the trip: the action of the protect mode on the drive (R142, R143). -/
def State.protectAction (s : State) : State :=
  match s.plan.protectMode with
  | .cut => s.cut
  | .ramp => s.setTarget 0
  | .crawlThenCut =>
    if s.plan.crawlSteps = 0 then s.cut
    else
      let t := s.setTarget (min s.plan.crawlCode s.drive.code)
      { t with protect := { t.protect with crawling := true } }

/-- Step 1 of the trip: the latch sets with what tripped it (R139, R140). -/
def State.setLatch (s : State) (cause : TripCause) (cell : Option Cell) (at' : Pos) (piece : Option PieceNo) : State :=
  { s with protect := { s.protect with
      latch := true, cause := some cause, cell := cell, position := at', piece := piece, furtherTrips := 0,
      crawlCount := 0, crawling := false, recordWritten := false, rewriteDue := false } }

/-- Step 2 of the trip: gates closed, impression ended, printhead dark (R68, R105). -/
def State.safeOutputs (s : State) : State :=
  let t := s.closeAllGates.endImpressionPartial
  { t with printer := { t.printer with head := 0 } }

/-- Step 3 of the trip: JAMMED, and a pending run request completes TRIPPED (R134). -/
def State.jamRun (s : State) : State := (s.setRunState .jammed).completeRun .tripped 0

/-- An OPEN scan context is abandoned; a FREE one is left FREE (R29). -/
def State.abandonScan (s : State) : State := if s.scan.window.isSome then { s with scan := ScanContext.free } else s

/-- Step 4 of the trip: an open scan context is abandoned (R29) and the pocket frozen (R88). -/
def State.abandonWork (s : State) : State := s.abandonScan.freezePocket

/-- A trip, made only with the latch clear in STARTING, RUNNING, DRAINING or STOPPING, in the order of R140. -/
def State.trip (s : State) (cause : TripCause) (cell : Option Cell) (at' : Pos) (piece : Option PieceNo) : State :=
  if s.run.state.isRunning && !s.protect.latch then
    ((s.setLatch cause cell at' piece).safeOutputs.jamRun.abandonWork.protectAction.countEvent .trips).raise .jam
  else s

/-! ## Action schedule (R56 to R63) -/

def EntryKind.isCloseOf (k : EntryKind) (g : Gate) : Bool := k == .gateClose g

/-- What the block an entry is handed to does with it (R57, R59): a gate driver sets its gate (R66, R67), the printer
begins an impression (R100), the cell unit tests for MISSING (R10) or reports OVERSTAY (R11). -/
def State.takeEntry (s : State) (e : Entry) : State :=
  match e.kind with
  | .gateOpen g => s.setGate g .opened
  | .gateClose g => s.setGate g .closed
  | .printStart => s.startImpression e.piece e.due
  | .cellDeadline c =>
    if (s.queue c).any (fun x => x.who == .piece e.piece) then s.trip .missing (some c) e.due (some e.piece) else s
  | .overstay c => s.trip .overstay (some c) e.due (some e.piece)

/-- An entry's place: after every entry whose due position precedes or equals its own (R58). -/
def placeEntry (e : Entry) : List Entry → List Entry
  | [] => [e]
  | x :: t => if precedes e.due x.due then e :: x :: t else x :: placeEntry e t

/-- The same-gate merge: inserting a GATE_OPEN removes the pending closes of that gate that belong to other pieces and
whose due the new due precedes or equals (R70). -/
def mergeCloses (e : Entry) (l : List Entry) : List Entry :=
  match e.kind with
  | .gateOpen g =>
    l.filter (fun x => !(x.kind.isCloseOf g && x.piece != e.piece && (precedes e.due x.due || e.due == x.due)))
  | _ => l

/-- An insertion: the same-gate merge, then a pending entry is placed and an overdue one is taken at once (R58). With the
latch set the schedule is frozen and no insertion is asked for (R63). -/
def State.insertEntry (s : State) (e : Entry) : State :=
  if s.protect.latch then s
  else
    let t := { s with schedule := mergeCloses e s.schedule }
    if isAhead e.due s.position then { t with schedule := placeEntry e t.schedule } else t.takeEntry e

/-- Entries of one piece and kind removed without being taken (R61). -/
def State.removeEntries (s : State) (p : PieceNo) (k : EntryKind) : State :=
  { s with schedule := s.schedule.filter (fun x => !(x.piece == p && x.kind == k)) }

/-- The head of the schedule when it is due at the present position and the latch is clear (R59). -/
def State.dueEntry (s : State) : Option Entry :=
  if s.protect.latch then none
  else match s.schedule with
    | [] => none
    | e :: _ => if e.due = s.position then some e else none

/-- The due head of the schedule is removed and taken (R59). -/
def State.takeDue (s : State) : State :=
  match s.dueEntry with
  | none => s
  | some e => { s with schedule := s.schedule.tail }.takeEntry e

/-- The entries due at the present position, taken one after another until none is due or the machine has tripped (R59,
R60). -/
def State.takeAllDue : Nat → State → State
  | 0, s => s
  | n + 1, s => if s.dueEntry.isSome then State.takeAllDue n s.takeDue else s

/-! ## Expectations (R5, R6) -/

/-- An expectation's place in a queue: after every one whose early bound precedes or equals its own (R6). -/
def placeExpectation (x : Expectation) : List Expectation → List Expectation
  | [] => [x]
  | y :: t => if precedes x.early y.early then x :: y :: t else y :: placeExpectation x t

/-- The bounds CELL_TOL steps either side of a predicted lead (R5). -/
def State.expectationFor (s : State) (who : Occupant) (lead : Pos) : Expectation :=
  { who := who, early := posSub lead s.plan.cellTol, late := posAdd lead s.plan.cellTol }

/-- A cover captured at c lies inside the window when (c − early) modulo 65,536 is at most 2 × CELL_TOL (R5). -/
def State.insideWindow (s : State) (x : Expectation) (c : Pos) : Bool :=
  distanceAhead c x.early ≤ 2 * s.plan.cellTol

/-- A piece's expectation, its CELL_DEADLINE entry and its next-cell fields removed (R5, R6). -/
def State.dropExpectation (s : State) (p : PieceNo) : State :=
  let t := s.filterQueues (fun x => x.who != .piece p)
  ({ t with schedule := t.schedule.filter (fun x => !(x.piece == p && (match x.kind with
      | .cellDeadline _ => true
      | _ => false))) }).updateRecord p (fun r => { r with next := none })

/-- A tracked piece's expectation inserted: an older one is removed first, the next-cell fields are written, and the
CELL_DEADLINE entry is due at the late bound plus one step (R5, R6). -/
def State.expect (s : State) (p : PieceNo) (c : Cell) (lead : Pos) : State :=
  let t := s.dropExpectation p
  let x := t.expectationFor (.piece p) lead
  ((t.setQueue c (placeExpectation x (t.queue c))).updateRecord p
    (fun r => { r with next := some ⟨c, x.early, x.late⟩ })).insertEntry ⟨.cellDeadline c, p, posAdd x.late 1⟩

/-- An untracked expectation inserted; it has no CELL_DEADLINE entry (R19). -/
def State.expectUntracked (s : State) (c : Cell) (lead : Pos) : State :=
  s.setQueue c (placeExpectation (s.expectationFor .untracked lead) (s.queue c))

/-! ## Freeing a record (R20, R62, R79, R89) -/

/-- Each pending GATE_CLOSE of the piece is taken at once, in the order of the schedule (R62, step 1). -/
def State.takeCloses (s : State) (p : PieceNo) : State :=
  s.schedule.foldl
    (fun t e => match e.kind with
      | .gateClose g => if e.piece = p then t.setGate g .closed else t
      | _ => t) s

/-- Every cell whose occupant is the piece loses it (R4). -/
def State.clearOccupancies (s : State) (p : PieceNo) : State :=
  { s with cellUnit := { s.cellUnit with
      cells := s.cellUnit.cells.map (fun x => if x.occupant = some (.piece p) then { x with occupant := none } else x) } }

/-- The in-use count of a slot falls by one (R89). -/
def State.releaseSlot (s : State) (i : Fin 2) : State :=
  { s with printer := { s.printer with
      slots := put s.printer.slots i { s.printer.slots.get i with inUse := (s.printer.slots.get i).inUse - 1 } } }

/-- A record freed: its gate closes are taken and its other entries removed (R62), its expectation (R6), its
occupancies (R4), its slot use (R89), its pocket hold (R79) and its scan context (R29) end, and the feed is recomputed
(R135). -/
def State.freeRecord (s : State) (r : Record) : State :=
  let t := s.takeCloses r.number
  let t := { t with schedule := t.schedule.filter (fun e => e.piece != r.number) }
  let t := t.filterQueues (fun x => x.who != .piece r.number)
  let t := (t.clearOccupancies r.number).releaseSlot r.slot
  let t := if t.pocket.state != .empty && t.pocket.occupant == some r.number then t.emptyPocket else t
  let t := if t.scan.window.map (·.piece) = some r.number then t.abandonScan else t
  ({ t with records := t.records.filter (fun x => x.number != r.number) }).recomputeFeed

end Sys2Proof.Machine
end

