-- ==== Sys2Proof/Machine/Reports.lean ====
section
/-! DEFINITION. The report unit and the tally unit's count of a report: piece reports, the holding queue, the rack, trays
and their closes (spec/10, R151 to R167, R178), with the meanings of MOVE_REPORTS and TRAY_AGE_EXPIRY. -/

namespace Sys2Proof.Machine

/-! ## Making and counting a report (R152, R157, R158) -/

/-- The bin that holds a length; an absent length is in bin 1, which is number 0 here (R151). -/
def lengthBin (pl : Plan) : Option Nat → Fin 5
  | none => 0
  | some n => if n < pl.b1 then 0 else if n < pl.b2 then 1 else if n < pl.b3 then 2 else if n < pl.b4 then 3 else 4

/-- The attitude of a report, NONE without a decision (R157). -/
def Record.attitude (r : Record) : Option Scanner := r.decision.bind (·.attitude)

/-- The class of a report, NONE without a decision (R157). -/
def Record.cls (r : Record) : Option IndiciumClass := r.decision.bind (·.cls)

/-- The turning of a report, NONE without a decision (R157). -/
def Record.turning (r : Record) : Turning := (r.decision.map (·.turning)).getD .straight

/-- The final span of a record, absent without a decision (R157). -/
def Record.span (r : Record) : Option Span := r.decision.bind (·.span)

/-- SORTED and CULLED count under the report's destination, STRANDED and PURGED under NO_DEST (R152). -/
def Report.countedDest (x : Report) : Option Dest :=
  match x.outcome with
  | .sorted | .culled => x.piece.destination
  | .stranded | .purged => none

/-- The tally unit counts a report: COMPLETED, one counter of each piece subgroup, and the counter of the primary reason
when there is one (R152). -/
def State.countReport (s : State) (x : Report) : State :=
  let t := ((((((s.countPiece .completed).countPiece (.outcome x.outcome)).countPiece (.dest x.countedDest)).countPiece
    (.attitude x.piece.attitude)).countPiece (.cls x.piece.cls)).countPiece
    (.lengthBin (lengthBin s.plan x.piece.length))).countPiece (.cancel x.piece.result)
  match x.piece.culls.primary with
  | some c => t.countEvent (.cull c)
  | none => t

/-- A report is appended to the tail of the holding queue; a MOVE_REPORTS is then due (R158, R160). -/
def State.appendReport (s : State) (x : Report) : State :=
  { s with reports := { s.reports with held := s.reports.held ++ [x], filingDue := true } }

/-- A tracked piece ends: an impression of it is ended PARTIAL (R106), its report is made, appended and counted, and its
record is freed (R119, R132, R150, R158). -/
def State.endPiece (s : State) (p : PieceNo) (outcome : Record → PieceOutcome) : State :=
  let t := match s.printer.job with
    | some j => if j.piece = p then s.endImpressionPartial else s
    | none => s
  match t.record? p with
  | none => t
  | some r => ((t.appendReport ⟨r, outcome r⟩).countReport ⟨r, outcome r⟩).freeRecord r

/-! ## The report in the tray (R178, R179) -/

/-- The sixteen words of a piece report. The bits of an item that is absent are 0 (DEDUCED from R177, log entry 6). -/
def reportWords (x : Report) : List Word :=
  let r := x.piece
  let best := (r.decision.map (·.best)).getD 0
  let second := (r.decision.map (·.second)).getD 0
  let sp := r.span.getD ⟨0, 0⟩
  let qualifying := (r.decision.map (·.qualifying)).getD 0
  [ r.number,
    fieldAt 0 16 (posWord r.admittedAt) ||| fieldAt 16 10 (countWord (r.length.getD 0)) ||| bitOf r.length.isSome 30
      ||| bitOf r.gap.isSome 31,
    countWord (r.gap.getD 0),
    fieldAt 0 4 (phaseCode r.phase) ||| fieldAt 4 4 (cellCode r.lastCell) ||| fieldAt 8 2 (outcomeCode x.outcome)
      ||| fieldAt 12 3 (attitudeCode r.attitude) ||| fieldAt 16 2 (classCode r.cls)
      ||| fieldAt 20 2 (turningCode r.turning) ||| fieldAt 24 3 (optDestCode r.destination)
      ||| fieldAt 28 2 (cancelResultCode r.result),
    fieldAt 0 16 (countWord best) ||| fieldAt 16 16 (countWord second),
    fieldAt 0 16 (countWord sp.start) ||| fieldAt 16 16 (countWord sp.stop),
    fieldAt 0 5 (countWord qualifying) ||| fieldAt 8 4 (cullReasonCode r.culls.primary) ||| fieldAt 16 8 r.culls.word
      ||| bitOf r.span.isSome 31,
    r.flags.word,
    (match r.plan with
      | none => 0
      | some pl => fieldAt 0 2 (policyCode pl.policy) ||| fieldAt 8 10 (countWord pl.start)
          ||| fieldAt 20 2 (countWord (pl.bank.map (·.val) |>.getD 0)) ||| bitOf pl.bank.isSome 22 ||| bitOf true 31),
    (match r.plan with
      | none => 0
      | some pl => fieldAt 0 8 (countWord pl.killer) ||| fieldAt 8 8 (countWord pl.die))
      ||| fieldAt 16 1 (countWord r.slot.val),
    countWord r.dots,
    0, 0, 0, 0, 0 ]

/-- The eight words of a tray header: serial, report count, close cause, first and last piece numbers (R165, R179). -/
def headerWords (serial : Word) (cause : CloseCause) (t : OpenTray) : List Word :=
  [serial, countWord t.count, closeCauseCode cause, t.firstPiece.getD 0, t.lastPiece.getD 0, 0, 0, 0]

/-- The byte offset of place p, 1 to 32, in a tray (R178). -/
def placeOffset (p : Nat) : Nat := 32 + 64 * (p - 1)

/-! ## The rack (R161 to R163) -/

/-- The entries in search order: from the one after the cursor, from 15 round to 0; from 0 when the cursor is none
(R162). -/
def searchOrder (cursor : Option (Fin 16)) : List (Fin 16) :=
  let first := match cursor with
    | none => 0
    | some c => c.val + 1
  (List.range 16).map (fun k => Fin.ofNat 16 (first + k))

/-- The first entry found READY (R162); any state word but READY is passed over (R161). -/
def State.findReady (s : State) : Option (Fin 16) :=
  (searchOrder s.reports.cursor).find? (fun i => s.pageWord (rackOffset i 0) == rackReady)

/-- A tray address is a line-memory address whose low two bits are taken as 0 (R177). -/
def trayAddress (w : Word) : Word := w &&& ~~~(3#32)

/-- A READY entry is taken as the open tray (R162, steps 1 to 3). -/
def State.takeTray (s : State) (i : Fin 16) : State :=
  let addr := trayAddress (s.pageWord (rackOffset i 1))
  let t := s.storeWord (s.pageAt (rackOffset i 0)) rackFilling
  { t with reports := { t.reports with
      tray := some ⟨i, addr, 0, none, none⟩, cursor := some i, starved := false } }

/-- A search of the rack: a take, or the start of a starvation episode, which raises TRAY_STARVED once (R162, R163). -/
def State.searchRack (s : State) : State :=
  match s.findReady with
  | some i => s.takeTray i
  | none =>
    if s.reports.starved then s
    else ({ s with reports := { s.reports with starved := true } }).raise .trayStarved

/-! ## Filling and closing trays (R160, R164 to R166) -/

/-- A serial increases by one, from 4,294,967,295 to 1 (R165). -/
def nextSerial (w : Word) : Word := if w = BitVec.allOnes 32 then 1 else w + 1

/-- A close of the open tray: header, FULL, TRAY_CLOSED, next serial, no open tray (R165). A header that runs past the end of line
memory goes on at its start (log entry 31). -/
def State.closeTray (s : State) (cause : CloseCause) : State :=
  match s.reports.tray with
  | none => s
  | some tr =>
    let t := ((s.storeWords tr.addr (headerWords s.reports.serial cause tr)).storeWord
      (s.pageAt (rackOffset tr.index 0)) rackFull).raise .trayClosed
    { t with reports := { t.reports with
        serial := nextSerial t.reports.serial, tray := none, ageTimer := none, closeDue := false } }

/-- One move: the report at the head of the holding queue goes into the next place of the open tray; the first of a tray
starts the age timer; the 32nd closes it FULL (R160, R164). A place past the end of line memory falls at its start (log entry 31). -/
def State.moveOne (s : State) : State :=
  match s.reports.held, s.reports.tray with
  | x :: rest, some tr =>
    let t := s.storeWords (tr.addr + countWord (placeOffset (tr.count + 1))) (reportWords x)
    let tr' : OpenTray :=
      { tr with
        count := tr.count + 1
        firstPiece := some (tr.firstPiece.getD x.piece.number)
        lastPiece := some x.piece.number }
    let t := { t with reports := { t.reports with
      held := rest
      tray := some tr'
      ageTimer := if tr.count = 0 then some (t.now + t.plan.trayAge) else t.reports.ageTimer } }
    let t := t.recomputeFeed
    if tr'.count = 32 then t.closeTray .full else t
  | _, _ => s

/-- A search made as the need arises: reports are held, no tray is open, and the need is not one that already stands with
starved yes (R162). -/
def State.needTray (s : State) : State :=
  if s.reports.tray.isNone && !s.reports.starved then s.searchRack else s

/-- Moves go on, a new tray being taken where one is needed, until the queue is empty, no tray is open or ENABLE is 0
(R160, R162). The number bounds the moves. -/
def State.fileLoop : Nat → State → State
  | 0, s => s
  | n + 1, s =>
    if s.reports.held.isEmpty || !s.port.enable then s
    else
      let t := s.needTray
      if t.reports.tray.isSome then State.fileLoop n t.moveOne else t

/-- The occasion of R160 taken: every report that can be moved is moved. -/
def State.fileReports (s : State) : State :=
  let t := { s with reports := { s.reports with filingDue := false } }
  t.fileLoop t.reports.held.length

/-- A search made whether or not starved is yes, as a page scan and the entry to IDLE make it, and the moves that follow a
take (R162, R166, R170). -/
def State.searchAndFile (s : State) : State :=
  if s.port.enable && !s.reports.held.isEmpty && s.reports.tray.isNone then s.searchRack.fileReports else s

/-- The report unit told of an entry to IDLE: every held report that can be moved is moved, then an open tray is closed
(R166). -/
def State.fileAtIdle (s : State) (cause : CloseCause) : State :=
  let t := s.searchAndFile.fileReports
  if t.port.enable then t.closeTray cause else t

/-- Time stands at least at a timer's expiry once that expiry is taken (log entry 7). -/
def State.reachTime (s : State) (deadline : Nat) : State := { s with now := max s.now deadline }

/-! ## Meanings -/

/-- MOVE_REPORTS (R160): reports move from the head of the holding queue into the open tray. -/
def execMoveReports (s : State) : Host.Outcome State Fault Refusal := .next s.fileReports

/-- TRAY_AGE_EXPIRY (R164, R167): the open tray closes AGE, or close due becomes AGE while ENABLE is 0. A stopped timer
does not expire. -/
def execTrayAgeExpiry (s : State) : Host.Outcome State Fault Refusal :=
  match s.reports.ageTimer with
  | none => .next s
  | some d =>
    let t := s.reachTime d
    let t := { t with reports := { t.reports with ageTimer := none } }
    if t.port.enable then .next (t.closeTray .age).fileReports
    else .next { t with reports := { t.reports with closeDue := true } }

end Sys2Proof.Machine
end

