-- ==== Sys2Proof/Machine/Protect.lean ====
section
/-! DEFINITION. The protect unit: the jam record, guard openings and further trips, and the end of a crawl (spec/09, R137
to R147, R178), with the meanings of GUARD_OPENING, GUARD_CLOSING and CRAWL_END. -/

namespace Sys2Proof.Machine

/-! ## The jam record (R144 to R146) -/

/-- Words 1 to 11 of the jam record; a trip piece that is absent is written 0 (DEDUCED from R177, log entry 6). -/
def State.jamHeader (s : State) : List Word :=
  [ tripCauseCode s.protect.cause, optCellCode s.protect.cell, posWord s.protect.position,
    s.protect.piece.getD 0, bitOf s.protect.piece.isSome 0, countWord s.protect.furtherTrips, posWord s.position,
    countWord s.records.length, 0, 0, 0 ]

/-- A piece entry: number; phase, last cell and destination; lead position; each as the trip left it in the record (R140, R144, R179). -/
def jamEntryWords (r : Record) : List Word :=
  [ r.number,
    fieldAt 0 4 (phaseCode r.phase) ||| fieldAt 4 4 (cellCode r.lastCell) ||| fieldAt 8 3 (optDestCode r.destination),
    posWord r.lead, 0 ]

/-- Every item of the record except its state, then the state COMPLETE; the piece entries stand in order of admission
(R145, R178). -/
def State.writeJamRecord (s : State) : State :=
  let t := s.storeWords (s.pageAt (jamOffset + 4)) s.jamHeader
  let t := t.storeWords (t.pageAt (jamEntryOffset 0)) (s.records.flatMap jamEntryWords)
  let t := t.storeWord (t.pageAt jamOffset) recordComplete
  { t with protect := { t.protect with recordWritten := true } }

/-- The record is written at the first occasion that finds the latch set, the belt still, ENABLE 1 and record written no
(R145). -/
def State.writeRecordIfDue (s : State) : State :=
  if s.protect.latch && s.drive.still && s.port.enable && !s.protect.recordWritten then s.writeJamRecord else s

/-- A rewrite that is due writes the further-trip count and the belt position, the state left COMPLETE (R147). -/
def State.rewriteRecordIfDue (s : State) : State :=
  if s.protect.rewriteDue && s.port.enable then
    let t := (s.storeWord (s.pageAt (jamOffset + 24)) (countWord s.protect.furtherTrips)).storeWord
      (s.pageAt (jamOffset + 28)) (posWord s.position)
    { t with protect := { t.protect with rewriteDue := false } }
  else s

/-! ## Guard openings (R138, R147) -/

/-- A further trip: counted up to 255, a cut, the crawl ended, a written record marked for rewriting, JAM raised again, and
the rewrite made at once when ENABLE is 1 (R147). -/
def State.furtherTrip (s : State) : State :=
  let t := { s with protect := { s.protect with furtherTrips := min 255 (s.protect.furtherTrips + 1) } }
  let t := t.cut
  let t := { t with protect := { t.protect with
    crawling := false, rewriteDue := t.protect.rewriteDue || t.protect.recordWritten } }
  (t.raise .jam).rewriteRecordIfDue

/-- A guard opening sets the level; with the latch set it is a further trip, in a running state a trip with cause GUARD, in
IDLE nothing more (R138). -/
def State.openGuard (s : State) : State :=
  let t := { s with protect := { s.protect with guardIsOpen := true } }
  if t.protect.latch then t.furtherTrip else t.trip .guardOpened none t.position none

/-! ## Crawl (R143) -/

/-- The crawl count has reached CRAWL_STEPS (R143). -/
def State.crawlEnds (s : State) : Bool := s.protect.crawling && decide (s.plan.crawlSteps ≤ s.protect.crawlCount)

/-- The crawl ends with a cut once its count has reached CRAWL_STEPS (R143). -/
def State.endCrawl (s : State) : State :=
  if s.crawlEnds then
    let t := s.cut
    { t with protect := { t.protect with crawling := false } }
  else s

/-! ## Meanings -/

/-- GUARD_OPENING (R138): a change of the guard input from CLOSED to OPEN. -/
def execGuardOpening (s : State) : Host.Outcome State Fault Refusal :=
  .next (if s.protect.guardIsOpen then s else s.openGuard)

/-- GUARD_CLOSING (R138): a change from OPEN to CLOSED sets the level and has no other effect. -/
def execGuardClosing (s : State) : Host.Outcome State Fault Refusal :=
  .next { s with protect := { s.protect with guardIsOpen := false } }

/-- CRAWL_END (R143). -/
def execCrawlEnd (s : State) : Host.Outcome State Fault Refusal := .next s.endCrawl

end Sys2Proof.Machine
end

