-- ==== Sys2Proof/Machine/RunControl.lean ====
section
/-! DEFINITION. Run control, the ramp and still detection (spec/08), with the meanings of RAMP_TICK, STILL_TIMER_EXPIRY,
START, DRAIN and STOP. -/

namespace Sys2Proof.Machine

/-! ## Taking a request (R172) -/

/-- A request can be taken while ENABLE is 1, from a cell that is not the pending cell (R170, R172). -/
def State.canTake (s : State) (cell : Fin 8) : Bool :=
  s.port.enable && (s.run.request.map (·.cell) != some cell)

/-- TAKEN is written into the state word of a request's cell (R172). -/
def State.takeCell (s : State) (cell : Fin 8) : State := s.storeWord (s.pageAt (requestOffset cell 0)) cellTaken

/-- A request is taken and decided at once by its owner; where none can be taken there is no effect (R172, log entry 8). -/
def State.onRequest (s : State) (cell : Fin 8) (decision : State → State) : State :=
  if s.canTake cell then decision (s.takeCell cell) else s

/-! ## The end of a run (R131, R132) -/

/-- Every tracked piece is stranded, in order of admission (R132, step 2). -/
def State.strandAll (s : State) : State := s.records.foldl (fun t r => t.endPiece r.number (fun _ => .stranded)) s

/-- Steps 3 to 7 of an entry to IDLE: untracked expectations removed, the code cut, the pending request completed with the
number of pieces stranded, the report unit told, the feed recomputed (R132, R134). -/
def State.settleIdle (s : State) (stranded : Nat) (cause : CloseCause) : State :=
  ((((s.filterQueues (fun x => x.who != .untracked)).cut).completeRun .ok (countWord stranded)).fileAtIdle
    cause).recomputeFeed

/-- The run enters IDLE, as one act (R132). -/
def State.enterIdle (s : State) : State :=
  ((s.setRunState .idle).strandAll).settleIdle s.records.length .idle

/-- The stopping test: STOPPING, code 0 and belt still (R131). -/
def State.stoppingTest (s : State) : State :=
  if s.run.state = .stopping ∧ s.drive.code = 0 ∧ s.drive.still = true then s.enterIdle else s

/-- An entry to STOPPING: target 0, and the stopping test (R128 to R131). -/
def State.enterStopping (s : State) : State := ((s.setRunState .stopping).setTarget 0).stoppingTest

/-- The end of the drain: in DRAINING, with no piece tracked and the pocket EMPTY, the run passes to STOPPING (R129). -/
def State.drainTest (s : State) : State :=
  if s.run.state = .draining ∧ s.records = [] ∧ s.pocket.state = .empty then s.enterStopping else s

/-- Run control told that a target has been reached: RUN_CODE in STARTING ends the start (R127), 0 makes the stopping test
(R131). -/
def State.targetReached (s : State) (v : Nat) : State :=
  if s.run.state = .starting ∧ v = s.plan.runCode then
    (s.setRunState .running).completeRun .ok (countWord v)
  else if v = 0 then s.stoppingTest
  else s

/-! ## Ramp (R122) -/

/-- The code after one expiry of the ramp timer: CODE_STEP nearer to the target without passing it (R122). -/
def rampCode (code target codeStep : Nat) : Nat :=
  if code < target then min (code + codeStep) target else max (code - codeStep) target

/-- An expiry of the ramp timer: the code moves, and at the target the timer stops and a report with the value reached is made for run
control; short of it the timer starts again (R122, R127). -/
def State.tickRamp (s : State) : State :=
  let c := rampCode s.drive.code s.drive.target s.plan.codeStep
  if c = s.drive.target then { s with drive := { s.drive with code := c, rampTimer := none, report := some c } }
  else { s with drive := { s.drive with code := c, rampTimer := some (s.now + s.plan.rampTick) } }

/-- Run control takes the report of a target reached, with the value that stood at its tick, where one is still to be taken (R127). -/
def State.takeReport (s : State) : State :=
  match s.drive.report with
  | none => s
  | some v => ({ s with drive := { s.drive with report := none } }).targetReached v

/-! ## Still detection (R124) -/

/-- STILL_TIME of a valid working plan, 1,000 ms without one (R124). -/
def State.stillPeriod (s : State) : Nat := if s.planValid then s.plan.stillTime else 1000

/-- The still flag becomes yes, and run control and the protect unit are told (R124, R131, R145). -/
def State.beStill (s : State) : State :=
  ({ s with drive := { s.drive with still := true, stillTimer := none } }).stoppingTest.writeRecordIfDue

/-- Still detection measured from the same time of the last step against a new STILL_TIME (R124). -/
def State.remeasureStill (s : State) : State :=
  if s.lastStep + s.stillPeriod ≤ s.now then s.beStill
  else { s with drive := { s.drive with stillTimer := some (s.lastStep + s.stillPeriod) } }

/-! ## START, DRAIN and STOP (R93, R126 to R130) -/

/-- A policy that prints the die (R94). -/
def Policy.printsDie : Policy → Bool
  | .nothing => false
  | .dieOnly | .full => true

/-- The images the working plan needs are present (R93). -/
def State.imagesReady (s : State) : Bool :=
  let slot := s.printer.waiting.getD s.printer.active
  let needsDie := s.plan.policyTag.printsDie || s.plan.policyMeter.printsDie
  (!needsDie || !(s.printer.slots.get slot).columns.isEmpty)
    && (s.plan.policyTag != .full || !(s.printer.banks.get s.plan.bankTag).isEmpty)
    && (s.plan.policyMeter != .full || !(s.printer.banks.get s.plan.bankMeter).isEmpty)

/-- An accepted request becomes the pending run request (R125). -/
def State.makePending (s : State) (kind : RunKind) (cell : Fin 8) (tag : Word) : State :=
  { s with run := { s.run with request := some ⟨kind, cell, tag⟩ } }

/-- A START accepted: pending, STARTING, no previous piece, target RUN_CODE (R126). A target equal to the code is reached at
once (R123). -/
def State.acceptStart (s : State) (cell : Fin 8) (tag : Word) : State :=
  let t := (s.makePending .start cell tag).setRunState .starting
  let t := { t with admission := { t.admission with prevTrail := none, prevPiece := none } }
  let t := t.setTarget t.plan.runCode
  if t.drive.code = t.plan.runCode then t.targetReached t.plan.runCode else t

/-- START: the checks in the order of R126. -/
def State.decideStart (s : State) (cell : Fin 8) (tag : Word) : State :=
  if s.run.state ≠ .idle then s.completeRequest cell tag .wrongState 0
  else if !s.planValid then s.completeRequest cell tag .planInvalid 0
  else if !s.imagesReady then s.completeRequest cell tag .notReady 0
  else if s.protect.guardIsOpen then s.completeRequest cell tag .guardOpen 0
  else s.acceptStart cell tag

/-- DRAIN (R128). -/
def State.decideDrain (s : State) (cell : Fin 8) (tag : Word) : State :=
  match s.run.state with
  | .running => (((s.makePending .drain cell tag).setRunState .draining)).drainTest
  | .starting => ((s.completeRun .superseded 0).makePending .drain cell tag).enterStopping
  | .idle | .draining | .stopping | .jammed => s.completeRequest cell tag .wrongState 0

/-- STOP (R130). -/
def State.decideStop (s : State) (cell : Fin 8) (tag : Word) : State :=
  match s.run.state with
  | .starting | .running | .draining => ((s.completeRun .superseded 0).makePending .stop cell tag).enterStopping
  | .idle | .stopping | .jammed => s.completeRequest cell tag .wrongState 0

/-! ## Meanings -/

/-- RAMP_TICK (R122): a stopped timer does not expire. A report still outstanding from a tick is taken, and no new tick is made before it
(R127, log entry 35). -/
def execRampTick (s : State) (report : ReportTime := .withTick) : Host.Outcome State Fault Refusal :=
  if s.drive.report.isSome then .next s.takeReport
  else match s.drive.rampTimer with
    | none => .next s
    | some d =>
      match report with
      | .withTick => .next (s.reachTime d).tickRamp.takeReport
      | .afterwards => .next (s.reachTime d).tickRamp

/-- STILL_TIMER_EXPIRY (R124): a stopped timer does not expire. -/
def execStillTimerExpiry (s : State) : Host.Outcome State Fault Refusal :=
  match s.drive.stillTimer with
  | none => .next s
  | some d => .next (s.reachTime d).beStill

/-- START (R126). -/
def execStart (cell : Fin 8) (tag : Word) (s : State) : Host.Outcome State Fault Refusal :=
  .next (s.onRequest cell (fun t => t.decideStart cell tag))

/-- DRAIN (R128). -/
def execDrain (cell : Fin 8) (tag : Word) (s : State) : Host.Outcome State Fault Refusal :=
  .next (s.onRequest cell (fun t => t.decideDrain cell tag))

/-- STOP (R130). -/
def execStop (cell : Fin 8) (tag : Word) (s : State) : Host.Outcome State Fault Refusal :=
  .next (s.onRequest cell (fun t => t.decideStop cell tag))

end Sys2Proof.Machine
end

