-- ==== Sys2Proof/Machine/Decision.lean ====
section
/-! DEFINITION. The decision unit: winner, ambiguity, class, span, turning, lateness, the pocket request and the phase-1
actions (spec/03, R41 to R55, with the gate dues of R69). -/

namespace Sys2Proof.Machine

/-! ## Winner and second (R42, R43) -/

/-- The scanners in the tie order of R43. -/
def scannerOrder : List Scanner := [.aTop, .bBottom, .bTop, .aBottom]

/-- The better of two runs: the higher score, and of equal scores the earlier start (R42). -/
def betterRun (a b : KeptRun) : KeptRun :=
  if a.score < b.score ∨ (a.score = b.score ∧ b.start < a.start) then b else a

/-- A scanner's best run (R42). -/
def bestRun : List KeptRun → Option KeptRun
  | [] => none
  | x :: t => some (t.foldl betterRun x)

/-- A scanner's best, 0 where it has none (R42, R43). -/
def bestScore (l : List KeptRun) : Nat := ((bestRun l).map (·.score)).getD 0

/-- The winner and its best run: the highest best, and of equal bests the first in the tie order (R43). -/
def winner (lists : PerScanner (List KeptRun)) : Option (Scanner × KeptRun) :=
  scannerOrder.foldl
    (fun acc sc =>
      match bestRun (forScanner lists sc), acc with
      | none, _ => acc
      | some r, none => some (sc, r)
      | some r, some (_, b) => if b.score < r.score then some (sc, r) else acc) none

/-- The highest best among the scanners other than the winner, or 0 (R43). -/
def secondScore (lists : PerScanner (List KeptRun)) (w : Scanner) : Nat :=
  ((scannerOrder.filter (fun sc => sc != w)).map (fun sc => bestScore (forScanner lists sc))).foldl max 0

/-- The qualifying run count (R39). -/
def qualifyingCount (lists : PerScanner (List KeptRun)) : Nat :=
  (scannerOrder.map (fun sc => (forScanner lists sc).length)).sum

/-- The second times 16 is at least the winner best times AMBIG (R45). -/
def isAmbiguous (pl : Plan) (best second : Nat) : Bool := decide (best * pl.ambig ≤ second * 16)

/-! ## Span and turning (R46 to R48) -/

/-- The scan span: least start and greatest end of the winner's kept runs of the piece's class (R46). -/
def scanSpan (l : List KeptRun) (c : IndiciumClass) : Option Span :=
  match l.filter (fun x => x.cls == c) with
  | [] => none
  | x :: t => some ⟨t.foldl (fun m y => min m y.start) x.start, t.foldl (fun m y => max m y.stop) x.stop⟩

/-- The turning an attitude calls for (R47). -/
def turningFor : Scanner → Turning
  | .aTop => .straight
  | .bBottom => .twist
  | .bTop => .reverse
  | .aBottom => .both

def Turning.reverses : Turning → Bool
  | .straight | .twist => false
  | .reverse | .both => true

def Turning.twists : Turning → Bool
  | .straight | .reverse => false
  | .twist | .both => true

/-- The span in final offsets: reflected in the length for REVERSE and BOTH, an offset below 0 being taken as 0 (R48). -/
def finalSpan (t : Turning) (len : Nat) (sp : Span) : Span :=
  if t.reverses then ⟨len - sp.stop, len - sp.start⟩ else sp

/-! ## Gate dues (R69) -/

/-- The open due: GATE_LEAD steps before the lead at a gate `dist` steps beyond the reference lead (R69). -/
def openDue (pl : Plan) (lead : Pos) (dist : Nat) : Pos := posSub (posAdd lead dist) pl.gateLead

/-- The close due: GATE_LAG steps after the trail at the gate (R69). -/
def closeDue (pl : Plan) (lead : Pos) (dist len : Nat) : Pos := posAdd lead (dist + len + pl.gateLag)

/-- The distance of the first turning gate (R47, R50). -/
def firstGateDistance (pl : Plan) (t : Turning) : Nat := if t.twists then pl.dTwist else pl.dRev

/-- On time: the open due of the first turning gate is ahead of the present position (R50). -/
def isOnTime (pl : Plan) (q lead : Pos) (t : Turning) : Bool := isAhead (openDue pl lead (firstGateDistance pl t)) q

/-! ## The decision (R41, R44, R45, R49 to R52) -/

/-- The cull reasons found for the piece: NO_INDICIUM without a winner (R44), AMBIGUOUS by R45. -/
def evidenceCulls (pl : Plan) (c : CullSet) (lists : PerScanner (List KeptRun)) : CullSet :=
  match winner lists with
  | none => c.add .noIndicium
  | some (w, b) => if isAmbiguous pl b.score (secondScore lists w) then c.add .ambiguous else c

/-- The turning the winner calls for, NONE without one (R47). -/
def calledTurning (lists : PerScanner (List KeptRun)) : Turning :=
  match winner lists with
  | none => .straight
  | some (w, _) => turningFor w

/-- The cull reasons and the turning a decision ends with: NONE for a culled piece (R49), then the late-decision test (R50),
then the pocket request (R51). -/
def judge (pl : Plan) (q : Pos) (pocketFree : Bool) (r : Record) (lists : PerScanner (List KeptRun)) :
    CullSet × Turning :=
  let c := evidenceCulls pl r.culls lists
  let t := calledTurning lists
  if c.primary.isSome then (c, .straight)
  else if t = .straight then (c, .straight)
  else if !isOnTime pl q r.lead t then (c.add .lateDecision, .straight)
  else if t.reverses && !pocketFree then (c.add .pocketBusy, .straight)
  else (c, t)

/-- The decision field written whole (R52). -/
def decisionOf (len : Nat) (t : Turning) (lists : PerScanner (List KeptRun)) : Decision :=
  match winner lists with
  | none =>
    { attitude := none, cls := none, best := 0, second := 0, span := none, turning := t,
      qualifying := qualifyingCount lists }
  | some (w, b) =>
    { attitude := some w, cls := some b.cls, best := b.score, second := secondScore lists w,
      span := (scanSpan (forScanner lists w) b.cls).map (finalSpan t len), turning := t, qualifying := qualifyingCount lists }

/-- A granted pocket request: RESERVED, with the piece as occupant (R51). -/
def State.reservePocket (s : State) (p : PieceNo) : State :=
  ({ s with pocket := { s.pocket with occupant := some p } }).setPocket .reserved

/-- GATE_OPEN and then GATE_CLOSE of one gate for one piece (R53, R69, R114). -/
def State.insertGate (s : State) (g : Gate) (p : PieceNo) (lead : Pos) (dist len : Nat) : State :=
  (s.insertEntry ⟨.gateOpen g, p, openDue s.plan lead dist⟩).insertEntry
    ⟨.gateClose g, p, closeDue s.plan lead dist len⟩

/-- The phase-1 gate entries (R53) and the next expectation (R54). -/
def State.phaseOne (s : State) (r : Record) (t : Turning) : State :=
  let len := r.lengthOrOpen
  let s1 := if t.twists then s.insertGate .twist r.number r.lead s.plan.dTwist len else s
  let s2 := if t.reverses then s1.insertGate .pocket r.number r.lead s1.plan.dRev len else s1
  if t.reverses then s2.expect r.number .pocket (posAdd r.lead s2.plan.dPocket)
  else s2.expect r.number .merge (posAdd r.lead s2.plan.dMerge)

/-- The decision act for a piece at the hand-over of its window (R41). -/
def State.makeDecision (s : State) (p : PieceNo) (lists : PerScanner (List KeptRun)) : State :=
  match s.record? p with
  | none => s
  | some r =>
    let v := judge s.plan s.position (s.pocket.state == .empty) r lists
    let s1 := if v.2.reverses then s.reservePocket p else s
    let s2 := s1.updateRecord p (fun x => { x with
      culls := v.1, decision := some (decisionOf r.lengthOrOpen v.2 lists), phase := .travelling })
    s2.phaseOne r v.2

end Sys2Proof.Machine
end

