-- ==== Sys2Proof/Machine/Scan.lean ====
section
/-! DEFINITION. The scan unit: the scan window, runs, classes, scores and run lists (spec/02, R23 to R39), with the meaning of
FORCED_CLOSE. -/

namespace Sys2Proof.Machine

/-! ## Classifying a run (R32 to R36) -/

/-- The afterglow index: 256 × sumG / sumP rounded down, 255 at most (R32). -/
def afterglowIndex (sumP sumG : Nat) : Nat := min 255 (256 * sumG / sumP)

/-- The class of a run, `none` for NOISE (R33). -/
def runClass (pl : Plan) (len index : Nat) : Option IndiciumClass :=
  if pl.tagRMin ≤ index ∧ pl.tagLenMin ≤ len ∧ len ≤ pl.tagLenMax then some .tag
  else if pl.mtrRMin ≤ index ∧ index ≤ pl.mtrRMax ∧ pl.mtrLenMin ≤ len ∧ len ≤ pl.mtrLenMax then some .meter
  else none

/-- A-BOTTOM and B-TOP are trailing-end scanners (R23). -/
def Scanner.isTrailing : Scanner → Bool
  | .aTop | .bBottom => false
  | .bTop | .aBottom => true

/-- The run closed at offset e is offered to the run list: TAG or METER, and for a leading-end scanner started before
END_WIN (R34, R35, R36). -/
def qualify (pl : Plan) (sc : Scanner) (run : OpenRun) (e : Nat) : Option KeptRun :=
  match runClass pl (e - run.start) (afterglowIndex run.sumP run.sumG) with
  | none => none
  | some c =>
    if sc.isTrailing || decide (run.start < pl.endWin) then
      some { start := run.start, stop := e, cls := c, score := min 65535 run.excess }
    else none

/-! ## The run list (R37, R38) -/

/-- The last run of a list that has a given score removed. -/
def removeNewest (score : Nat) (l : List KeptRun) : List KeptRun :=
  (l.reverse.eraseP (fun x => x.score == score)).reverse

/-- A qualifying run joins at the tail; with four kept already, the smallest score of the five is dropped, the newest of
those that share it. The flag says whether a run was dropped (R37, R38). -/
def keepRun (l : List KeptRun) (k : KeptRun) : List KeptRun × Bool :=
  if l.length < 4 then (l ++ [k], false)
  else (removeNewest (l.foldl (fun m x => min m x.score) k.score) (l ++ [k]), true)

/-- An open run closed at offset e (R30, R32 to R38). -/
def closeRun (pl : Plan) (sc : Scanner) (st : ScannerState) (run : OpenRun) (e : Nat) : ScannerState × Bool :=
  match qualify pl sc run e with
  | none => ({ st with run := none }, false)
  | some k => ({ run := none, kept := (keepRun st.kept k).1 }, (keepRun st.kept k).2)

/-! ## Sample sets (R26, R30, R31) -/

/-- A set added to a run's sums (R31). -/
def addSet (pl : Plan) (run : OpenRun) (x : Sample) : OpenRun :=
  { run with
    sumP := run.sumP + x.prompt.toNat
    sumG := run.sumG + x.afterglow.toNat
    excess := run.excess + (x.prompt.toNat - pl.offLevel) }

/-- One scanner's set at offset o: the removal of runs that have failed the trailing-end corner test (R26 step 1, R35), then
the comparator (R30). -/
def sampleScanner (pl : Plan) (sc : Scanner) (o : Nat) (x : Sample) (st : ScannerState) : ScannerState × Bool :=
  let kept := if sc.isTrailing then st.kept.filter (fun k => decide (o + 1 < k.stop + pl.endWin)) else st.kept
  let st := { st with kept := kept }
  match st.run with
  | none =>
    if pl.onLevel ≤ x.prompt.toNat then ({ st with run := some (addSet pl ⟨o, 0, 0, 0⟩ x) }, false) else (st, false)
  | some run =>
    if pl.offLevel ≤ x.prompt.toNat then ({ st with run := some (addSet pl run x) }, false)
    else closeRun pl sc st run o

/-- The states of the four scanners out of their results. -/
def scannerStates (v : PerScanner (ScannerState × Bool)) : PerScanner ScannerState :=
  ⟨v.aTop.1, v.bBottom.1, v.bTop.1, v.aBottom.1⟩

/-- How many runs the four scanners dropped. -/
def droppedCount (v : PerScanner (ScannerState × Bool)) : Nat :=
  v.aTop.2.toNat + v.bBottom.2.toNat + v.bTop.2.toNat + v.aBottom.2.toNat

/-- One sample set of the window (R26, steps 1 and 2). -/
def sampleAll (pl : Plan) (o : Nat) (x : SampleSet) (v : PerScanner ScannerState) : PerScanner (ScannerState × Bool) :=
  ⟨sampleScanner pl .aTop o x.aTop v.aTop, sampleScanner pl .bBottom o x.bBottom v.bBottom,
    sampleScanner pl .bTop o x.bTop v.bTop, sampleScanner pl .aBottom o x.aBottom v.aBottom⟩

/-- A scanner that is IN at the close has its run closed at offset w (R27, step 1). -/
def edgeClose (pl : Plan) (sc : Scanner) (w : Nat) (st : ScannerState) : ScannerState × Bool :=
  match st.run with
  | none => (st, false)
  | some run => closeRun pl sc st run w

def edgeCloseAll (pl : Plan) (w : Nat) (v : PerScanner ScannerState) : PerScanner (ScannerState × Bool) :=
  ⟨edgeClose pl .aTop w v.aTop, edgeClose pl .bBottom w v.bBottom, edgeClose pl .bTop w v.bTop,
    edgeClose pl .aBottom w v.aBottom⟩

/-- Each dropped run flags the piece RUNS_DROPPED and counts one in RUNS_DROPPED (R38). -/
def State.noteDrops (s : State) (p : PieceNo) : Nat → State
  | 0 => s
  | n + 1 =>
    State.noteDrops ((s.updateRecord p (fun r => { r with flags := { r.flags with runsDropped := true } })).countEvent
      .runsDropped) p n

/-- One sample set taken for the open window, from the sample inputs as they stand (R26). -/
def State.takeSet (s : State) : State :=
  match s.scan.window with
  | none => s
  | some x =>
    if x.count < 1023 then
      let v := sampleAll s.plan x.count s.samples s.scan.scanners
      ({ s with scan := ⟨some { x with count := x.count + 1 }, scannerStates v⟩ }).noteDrops x.piece (droppedCount v)
    else s

/-! ## The window (R25, R27, R28) -/

/-- A window opens at a matched SCAN cover of a tracked piece (R25). -/
def State.openWindow (s : State) (p : PieceNo) (at' : Pos) : State :=
  { s with scan := ⟨some ⟨p, at', 0⟩, PerScanner.all ⟨none, []⟩⟩ }

/-- The four run lists of a scan context. -/
def runLists (v : PerScanner ScannerState) : PerScanner (List KeptRun) :=
  ⟨v.aTop.kept, v.bBottom.kept, v.bTop.kept, v.aBottom.kept⟩

/-- The close of a window of length w: edge-closed runs, hand-over to the decision unit, FREE, with the lists left as handed
over unless the decision's actions trip the machine while the context is still OPEN (R27, R29, R37, R39). -/
def State.completeClose (s : State) (x : Window) (w : Nat) : State :=
  let v := edgeCloseAll s.plan w s.scan.scanners
  let st := scannerStates v
  let t := (({ s with scan := ⟨some x, st⟩ }).noteDrops x.piece (droppedCount v)).makeDecision x.piece (runLists st)
  { t with scan := { t.scan with window := none } }

/-- The normal close at the SCAN uncover by the piece in the open context; a last set still missing is taken from the sample
inputs as they stand (R27). -/
def State.closeWindow (s : State) (p : PieceNo) (at' : Pos) : State :=
  match s.scan.window with
  | none => s
  | some x =>
    if x.piece = p then
      let w := distanceAhead at' x.openAt
      let t := if x.count + 1 = w then s.takeSet else s
      t.completeClose x w
    else s

/-- The sample count has reached 1,023 (R28). -/
def State.forcedCloseDue (s : State) : Bool :=
  match s.scan.window with
  | none => false
  | some x => decide (1023 ≤ x.count)

/-- The forced close: FORCED_CLOSE in the piece's flags, then the close with w equal to 1,023 (R28). -/
def State.forceClose (s : State) : State :=
  match s.scan.window with
  | none => s
  | some x =>
    if 1023 ≤ x.count then
      (s.updateRecord x.piece (fun r => { r with flags := { r.flags with forcedClose := true } })).completeClose x 1023
    else s

/-- An UNCOVER of a cell comes after the forced close: it is the SCAN uncover of the piece in the open window, the sample count has
reached 1,023, and the uncover lies beyond the 1,023 steps of the window, which had its last set at a step already taken (R26 step 4,
R28, log entry 32). -/
def State.forcedCloseFirst (s : State) (c : Cell) : Bool :=
  match s.scan.window with
  | none => false
  | some x =>
    c == .scan && (s.cell .scan).occupant == some (.piece x.piece) && decide (1023 ≤ x.count) &&
      decide (1023 < distanceAhead s.position x.openAt)

/-- FORCED_CLOSE (R28). -/
def execForcedClose (s : State) : Host.Outcome State Fault Refusal := .next s.forceClose

end Sys2Proof.Machine
end

