-- ==== Sys2Proof/Machine/Merge.lean ====
section
/-! DEFINITION. The pocket controller and the merge arbiter (spec/05, R72 to R88), with the meanings of INTAKE_COMPLETE,
DWELL_TIMER_EXPIRY and HOLD_TIMER_EXPIRY. -/

namespace Sys2Proof.Machine

/-! ## The merge window (R80, R81) -/

/-- Two stretches given by positions overlap, in signed distances from q: each starts before the other ends (R80). -/
def overlaps (q aStart aEnd bStart bEnd : Pos) : Bool :=
  decide (signedDistance aStart q < signedDistance bEnd q) && decide (signedDistance bStart q < signedDistance aEnd q)

/-- The merge window of a test at q for an occupant of length len overlaps the stretch of a given MERGE lead and length
(R80). -/
def windowMeets (pl : Plan) (q : Pos) (len : Nat) (lead : Pos) (len' : Nat) : Bool :=
  overlaps q (posSub (posAdd q pl.dRelease) pl.minGap) (posAdd q (pl.dRelease + len + pl.minGap)) lead (posAdd lead len')

/-- A piece that has yet to come to MERGE on the main lane: ENTERING, SCANNING or TRAVELLING (R81). -/
def Phase.beforeMerge : Phase → Bool
  | .entering | .scanning | .travelling => true
  | .pocketed | .released | .downstream => false

/-- A main-lane piece blocks the window of a test at q: by its predicted MERGE lead, by its captured merge lead while it is
the MERGE cell's occupant and not the piece left out, or, released, by the lead of its MERGE expectation (R81). -/
def blocksWindow (pl : Plan) (q : Pos) (len : Nat) (pocketPiece : Option PieceNo) (atMerge : Option Occupant)
    (leftOut : Option PieceNo) (r : Record) : Bool :=
  (r.phase.beforeMerge && windowMeets pl q len (posAdd r.lead pl.dMerge) r.lengthOrMost)
    || (atMerge == some (.piece r.number) && leftOut != some r.number && windowMeets pl q len r.lead r.lengthOrMost)
    || (r.phase == .released && pocketPiece != some r.number
      && (match r.next with
          | some x => windowMeets pl q len (posAdd x.early pl.cellTol) r.lengthOrMost
          | none => false))

/-- The length of the pocket's occupant (R75, R80). -/
def State.pocketLength (s : State) : Nat :=
  match s.pocket.occupant.bind s.record? with
  | some r => r.lengthOrOpen
  | none => 0

/-- The merge window is free: no main-lane piece blocks it (R81). -/
def State.windowFree (s : State) (leftOut : Option PieceNo) : Bool :=
  !s.records.any (blocksWindow s.plan s.position s.pocketLength s.pocket.occupant (s.cell .merge).occupant leftOut)

/-! ## The grant and the merge hold (R82 to R85) -/

/-- The grant of the release, in the order of R83. -/
def State.grantRelease (s : State) (p : PieceNo) : State :=
  let t := ({ s with pocket := { s.pocket with holdTimer := none, passes := 0 } }).setPocket .releasing
  let t := if t.pocket.mergeHold then t.setMergeGap false else t
  let t := t.updateRecord p (fun r => { r with phase := .released })
  t.expect p .merge (posAdd t.position t.plan.dRelease)

/-- A test of the merge window, made only with the pocket WAITING in STARTING, RUNNING or DRAINING; a free window grants the
release at once (R82, R83). -/
def State.mergeTest (s : State) (leftOut : Option PieceNo) : State :=
  if s.pocket.state == .waiting && s.run.state.testsMerge && s.windowFree leftOut then
    match s.pocket.occupant with
    | some p => s.grantRelease p
    | none => s
  else s

/-- A raising of MERGE_GAP: the merge hold stands, the feed is recomputed, MERGE_GAPS is counted (R85). -/
def State.raiseMergeGap (s : State) : State := (s.setMergeGap true).countEvent .mergeGaps

/-- The piece, if any, that an occupant names. -/
def Occupant.piece? : Occupant → Option PieceNo
  | .piece p => some p
  | .untracked => none

/-- A MERGE uncover taken by the arbiter: with the pocket WAITING the pass is counted, the window tested without the
uncovering piece, and MERGE_GAP raised when the count has reached MERGE_RATIO and the release was not granted (R84). -/
def State.mergePass (s : State) (o : Occupant) : State :=
  if s.pocket.state = .waiting then
    let t := { s with pocket := { s.pocket with passes := min 255 (s.pocket.passes + 1) } }
    let t := t.mergeTest o.piece?
    if t.pocket.state = .waiting ∧ t.plan.mergeRatio ≤ t.pocket.passes ∧ t.pocket.mergeHold = false then t.raiseMergeGap
    else t
  else s

/-! ## The pocket cell and the pocket's own steps (R74 to R78) -/

/-- A matched POCKET cover of the piece the pocket is RESERVED for: ENTERING with intake count 0 and cell clear no. A piece
enters the pocket in no other case (R74). -/
def State.enterPocket (s : State) (p : PieceNo) : State :=
  if s.pocket.state = .reserved ∧ s.pocket.occupant = some p then
    ({ s with pocket := { s.pocket with intake := 0, cellClear := false } }).setPocket .entering
  else s

/-- DWELL, motor HOLD, and the dwell timer started toward REV_DWELL (R75). -/
def State.startDwell (s : State) : State :=
  ({ s with pocket := { s.pocket with dwellTimer := some (s.now + s.plan.revDwell) } }).setPocket .dwell

/-- The intake count has reached the occupant's length while ENTERING, with the pocket not frozen (R75, R88). -/
def State.intakeDone (s : State) : Bool :=
  s.pocket.state == .entering && !s.protect.latch && decide (s.pocketLength ≤ s.pocket.intake)

/-- The intake completes (R75). -/
def State.completeIntake (s : State) : State := if s.intakeDone then s.startDwell else s

/-- A POCKET uncover by the occupant: before the release it is taken as R76 gives; in RELEASING it empties the pocket and run
control is told (R78). -/
def State.pocketUncovered (s : State) : State :=
  match s.pocket.state with
  | .entering => ({ s with pocket := { s.pocket with cellClear := true } }).startDwell
  | .dwell | .waiting => { s with pocket := { s.pocket with cellClear := true } }
  | .releasing => (({ s with pocket := { s.pocket with occupant := none } }).setPocket .empty).drainTest
  | .empty | .reserved => s

/-- The dwell is over: WAITING with pass count 0, the hold timer started and no merge hold standing, and the window is
tested (R77, R82). -/
def State.endDwell (s : State) : State :=
  let t := ({ s with pocket := { s.pocket with
    dwellTimer := none, passes := 0, holdTimer := some (s.now + s.plan.revMaxHold) } }).setPocket .waiting
  (t.setMergeGap false).mergeTest none

/-- The hold timer expires: MERGE_GAP is raised if it does not stand, and the window tested (R85). -/
def State.endHold (s : State) : State :=
  let t := { s with pocket := { s.pocket with holdTimer := none } }
  if t.pocket.mergeHold then t else t.raiseMergeGap.mergeTest none

/-! ## Meanings -/

/-- INTAKE_COMPLETE (R75). -/
def execIntakeComplete (s : State) : Host.Outcome State Fault Refusal := .next s.completeIntake

/-- DWELL_TIMER_EXPIRY (R77): a timer that is stopped, or a pocket not in DWELL, makes no expiry. -/
def execDwellTimerExpiry (s : State) : Host.Outcome State Fault Refusal :=
  match s.pocket.dwellTimer with
  | none => .next s
  | some d => .next (if s.pocket.state = .dwell then (s.reachTime d).endDwell else s)

/-- HOLD_TIMER_EXPIRY (R85): a timer that is stopped, or a pocket not in WAITING, makes no expiry. -/
def execHoldTimerExpiry (s : State) : Host.Outcome State Fault Refusal :=
  match s.pocket.holdTimer with
  | none => .next s
  | some d => .next (if s.pocket.state = .waiting then (s.reachTime d).endHold else s)

end Sys2Proof.Machine
end

