-- ==== Sys2Proof/Machine/Routing.lean ====
section
/-! DEFINITION. The phase-2 choices at MERGE and the completion of a piece: the cancel plan (spec/06, R95 to R98), the
stacker router (spec/07, R108 to R119), with the meaning of FULL_INPUT_CHANGE. -/

namespace Sys2Proof.Machine

/-! ## The cancel plan (R94 to R98) -/

def Plan.policy (pl : Plan) : IndiciumClass → Policy
  | .tag => pl.policyTag
  | .meter => pl.policyMeter

def Plan.bank (pl : Plan) : IndiciumClass → Fin 4
  | .tag => pl.bankTag
  | .meter => pl.bankMeter

/-- The policy under which a piece gets a plan: cull reasons empty, class TAG or METER, policy FULL or DIE_ONLY; with the
class and the final span (R95). -/
def plannedPolicy (pl : Plan) (r : Record) : Option (IndiciumClass × Span) :=
  if r.isCulled then none
  else match r.cls, r.span with
    | some c, some sp => if (pl.policy c).printsDie then some (c, sp) else none
    | _, _ => none

/-- The start offset: the span start minus KILL_LEAD, or 0 (R96). -/
def startOffset (pl : Plan) (sp : Span) : Nat := sp.start - pl.killLead

/-- The available length, in signed whole steps (R96). -/
def availableLength (pl : Plan) (len : Nat) (sp : Span) : Int :=
  (len : Int) - (startOffset pl sp : Int) - (pl.tailMargin : Int)

/-- The killer and die columns printed of K and D in the room A (R97). -/
def printedColumns (a k d : Nat) : Nat × Nat := (min a k, min (a - k) d)

/-- The cancel printer's act at the MERGE arrival: no plan, NO_ROOM, or a plan with its PRINT_START (R95 to R98). The
record holds the merge lead as its lead. -/
def State.planImpression (s : State) (p : PieceNo) : State :=
  match s.record? p with
  | none => s
  | some r =>
    match plannedPolicy s.plan r with
    | none => s
    | some (c, sp) =>
      let a := availableLength s.plan r.lengthOrOpen sp
      if a ≤ 0 then s.updateRecord p (fun x => x.cull .noRoom)
      else
        let policy := s.plan.policy c
        let bank := s.plan.bank c
        let k := if policy = .full then (s.printer.banks.get bank).length else 0
        let d := (s.printer.slots.get r.slot).columns.length
        let n := printedColumns a.toNat k d
        let cut := decide (n.1 + n.2 < k + d)
        let plan : CancelPlan :=
          { policy := policy, start := startOffset s.plan sp, bank := if policy = .full then some bank else none,
            killer := n.1, die := n.2 }
        let t := if cut then
            (s.updateRecord p (fun x => { x with flags := { x.flags with truncated := true } })).countEvent .truncated
          else s
        (t.updateRecord p (fun x => { x with plan := some plan })).insertEntry
          ⟨.printStart, p, posAdd r.lead (s.plan.dCancel - s.plan.dMerge + startOffset s.plan sp)⟩

/-! ## The destination (R108, R111 to R113) -/

/-- A gated stacker is available while its service is IN and its full level INACTIVE; END always (R108). -/
def State.destAvailable (s : State) : Dest → Bool
  | .stk k => s.router.inService.get (stackerIdx k) && (s.router.full.get (stackerIdx k) == .inactive)
  | .endCatch => true

/-- The route of a piece at its MERGE arrival (R111). -/
def routeOf (pl : Plan) (r : Record) : Route :=
  if r.isCulled then pl.routeCull
  else match r.cls with
    | some .tag => pl.routeTag
    | some .meter => pl.routeMeter
    | none => pl.routeCull

/-- The choice by route and availability (R112). -/
def State.chooseDest (s : State) (rt : Route) : Dest :=
  if s.destAvailable rt.primary then rt.primary
  else if s.destAvailable rt.alternate then rt.alternate
  else .endCatch

/-- A coupled piece inherits the destination of the piece last routed when that is the piece it is coupled to (R113). -/
def State.destFor (s : State) (r : Record) : Dest :=
  match r.coupledTo, s.router.lastRouted with
  | some q, some (q', d) => if q = q' then d else s.chooseDest (routeOf s.plan r)
  | _, _ => s.chooseDest (routeOf s.plan r)

def Plan.stackerDistance (pl : Plan) : Stacker → Nat
  | .stk1 => pl.dStk1
  | .stk2 => pl.dStk2
  | .stk3 => pl.dStk3
  | .stk4 => pl.dStk4
  | .stk5 => pl.dStk5

def Plan.destDistance (pl : Plan) : Dest → Nat
  | .stk k => pl.stackerDistance k
  | .endCatch => pl.dEnd

/-- The router's act at the MERGE arrival: destination, DIVERTED, last routed, and the stacker gate entries (R112 to
R114). -/
def State.routePiece (s : State) (p : PieceNo) : State :=
  match s.record? p with
  | none => s
  | some r =>
    let d := s.destFor r
    let t := if d = (routeOf s.plan r).primary then s
      else (s.updateRecord p (fun x => { x with flags := { x.flags with diverted := true } })).countEvent .diverted
    let t := { t with router := { t.router with lastRouted := some (p, d) } }
    let t := t.updateRecord p (fun x => { x with destination := some d })
    match d with
    | .stk k => t.insertGate (.stk k) p r.lead (t.plan.stackerDistance k - t.plan.dMerge) r.lengthOrOpen
    | .endCatch => t

/-! ## Completion (R118, R119) -/

/-- The outcome written at a completion (R119, step 2). -/
def completionOutcome (r : Record) : PieceOutcome := if r.isCulled then .culled else .sorted

/-- The completion of a piece at its destination cell's uncover, with run control told at the end (R119, R129). -/
def State.completePiece (s : State) (p : PieceNo) : State :=
  ((s.endPiece p completionOutcome).recomputeFeed).drainTest

/-! ## Meanings -/

/-- FULL_INPUT_CHANGE (R110): the level follows the input; a change of the END input raises or withdraws END_FULL. -/
def execFullInputChange (d : Dest) (level : FullLevel) (s : State) : Host.Outcome State Fault Refusal :=
  match d with
  | .stk k => .next { s with router := { s.router with full := put s.router.full (stackerIdx k) level } }
  | .endCatch => .next (s.setEndFull level)

end Sys2Proof.Machine
end

