-- ==== Sys2Proof/Machine/Cells.lean ====
section
/-! DEFINITION. The cell unit and the admission unit: covers, uncovers, matching and admission (spec/01, R3 to R19), with the
meanings of COVER and UNCOVER. -/

namespace Sys2Proof.Machine

/-! ## Occupants (R4) -/

/-- A tracked piece becomes a cell's occupant: last cell reached, and an OVERSTAY entry at every cell but POCKET, due at the
cover plus the length plus CELL_TOL, or plus 1,023 while the length is absent (R4, R11). -/
def State.occupy (s : State) (c : Cell) (p : PieceNo) (at' : Pos) : State :=
  let t := (s.setOccupant c (some (.piece p))).updateRecord p (fun r => { r with lastCell := c })
  if c = .pocket then t
  else
    let due := match (t.record? p).bind (·.length) with
      | some n => posAdd at' (n + t.plan.cellTol)
      | none => posAdd at' 1023
    t.insertEntry ⟨.overstay c, p, due⟩

/-! ## Admission (R14 to R18) -/

/-- The admission test (R14). -/
def State.canAdmit (s : State) : Bool :=
  decide (s.records.length < 32) && decide (s.reports.held.length + s.records.length < 48)

/-- The gap of a piece at ENTRY: the travel count when a previous trail is present (R14, step 4). -/
def State.entryGap (s : State) : Option Nat := s.admission.prevTrail.map (fun _ => s.admission.travel)

/-- The gap is present and smaller than MIN_GAP (R16, R18). -/
def State.gapIsShort (s : State) : Bool :=
  match s.entryGap with
  | some g => decide (g < s.plan.minGap)
  | none => false

/-- The previous piece when it is tracked and undecided (R16, R18). -/
def State.undecidedPrevious (s : State) : Option PieceNo :=
  match s.admission.prevPiece with
  | some (.piece q) =>
    match s.record? q with
    | some r => if r.decision.isNone then some q else none
    | none => none
  | some .untracked | none => none

/-- Any pending impression slot becomes the active slot (R14 step 1, R92). -/
def State.switchSlot (s : State) : State :=
  match s.printer.waiting with
  | some i => { s with printer := { s.printer with active := i, waiting := none } }
  | none => s

/-- The record opened at an ENTRY cover captured at `at'` (R14, R21). -/
def State.newRecord (s : State) (at' : Pos) : Record where
  number := s.admission.nextPiece
  phase := .entering
  lead := at'
  admittedAt := at'
  length := none
  gap := s.entryGap
  slot := s.printer.active
  coupledTo := none
  decision := none
  culls := CullSet.none
  flags := PieceFlags.none
  destination := none
  plan := none
  result := .unprinted
  dots := 0
  next := none
  lastCell := .entry
  openKey := s.openSeq

/-- The record opened, the next piece number advanced and the slot's in-use count raised (R14 steps 2 to 4, R92). -/
def State.openRecord (s : State) (at' : Pos) : State :=
  let i := s.printer.active
  { s with
    records := s.records ++ [s.newRecord at']
    admission := { s.admission with nextPiece := s.admission.nextPiece + 1 }
    printer := { s.printer with
      slots := put s.printer.slots i { s.printer.slots.get i with inUse := (s.printer.slots.get i).inUse + 1 } }
    openSeq := s.openSeq + 1 }

/-- The short-gap test of an admitted piece, with the previous piece found before it (R16). -/
def State.shortGapTest (s : State) (p : PieceNo) (previous : Option PieceNo) : State :=
  if s.gapIsShort then
    let t := s.updateRecord p (fun r => r.cull .shortGap)
    match previous with
    | some q =>
      (t.updateRecord q (fun r => { r.cull .shortGap with flags := { r.flags with coupled := true } })).updateRecord p
        (fun r => { r with flags := { r.flags with coupled := true }, coupledTo := some q })
    | none => t
  else s

/-- An admission, in the order of R14; the merge window is tested at its end (R82). -/
def State.admitPiece (s : State) (at' : Pos) : State :=
  let p := s.admission.nextPiece
  let previous := s.undecidedPrevious
  let t := ((s.switchSlot).openRecord at').shortGapTest p previous
  let t := (t.occupy .entry p at').expect p .scan (posAdd at' t.plan.dScan)
  (t.recomputeFeed).mergeTest none

/-- An ENTRY cover that fails the admission test: counted UNTRACKED, an undecided previous piece at a short gap culled, the
occupant UNTRACKED, and a SCAN expectation when fewer than 8 untracked ones stand (R18). -/
def State.letThrough (s : State) (at' : Pos) : State :=
  let t := s.countEvent .untracked
  let t := match t.gapIsShort, t.undecidedPrevious with
    | true, some q => t.updateRecord q (fun r => r.cull .shortGap)
    | _, _ => t
  let t := t.setOccupant .entry (some .untracked)
  if t.untrackedCount < 8 then t.expectUntracked .scan (posAdd at' t.plan.dScan) else t

/-- The ENTRY cover taken by the admission unit (R14). -/
def State.entryCover (s : State) (at' : Pos) : State := if s.canAdmit then s.admitPiece at' else s.letThrough at'

/-- The length of a tracked piece, with the length culls (R15). -/
def measure (pl : Plan) (at' : Pos) (r : Record) : Record :=
  let n := distanceAhead at' r.lead
  let r := { r with length := some n }
  let r := if pl.maxLen < n then r.cull .overlength else r
  if n < pl.minLen then r.cull .underlength else r

/-- The ENTRY uncover taken by the admission unit (R15). -/
def State.entryUncover (s : State) (at' : Pos) (o : Option Occupant) : State :=
  let t := match o with
    | some (.piece p) => s.updateRecord p (measure s.plan at')
    | some .untracked | none => s
  { t with admission := { t.admission with prevTrail := some at', travel := 0, prevPiece := o } }

/-! ## Matching (R7 to R9, R19) -/

/-- Stale untracked expectations at the head of a queue are dropped: those whose late bound is behind the cover (R19). -/
def dropStale (at' : Pos) : List Expectation → List Expectation
  | [] => []
  | x :: t => if x.who = .untracked ∧ isBehind x.late at' = true then dropStale at' t else x :: t

/-- The next cell of an untracked piece and its distance from the cell matched (R19). -/
def nextUntracked (pl : Plan) : Cell → Option (Cell × Nat)
  | .scan => some (.merge, pl.dMerge - pl.dScan)
  | .merge => some (.cancel, pl.dCancel - pl.dMerge)
  | .cancel => some (.endCell, pl.dEnd - pl.dCancel)
  | .entry | .pocket | .stk _ | .endCell => none

/-- A cover that matches an untracked expectation (R19). -/
def State.matchUntracked (s : State) (c : Cell) (at' : Pos) : State :=
  let t := s.setOccupant c (some .untracked)
  match nextUntracked t.plan c with
  | some (c', d) => t.expectUntracked c' (posAdd at' d)
  | none => t

/-- The MERGE arrival of a tracked piece, after the printer and the router: the CANCEL expectation (R8, R95, R114). -/
def State.mergeArrival (s : State) (p : PieceNo) (at' : Pos) : State :=
  let t := (s.planImpression p).routePiece p
  t.expect p .cancel (posAdd at' (t.plan.dCancel - t.plan.dMerge))

/-- The destination expectation at the CANCEL match, from the merge lead (R8, R117). -/
def State.cancelArrival (s : State) (p : PieceNo) : State :=
  match s.record? p with
  | none => s
  | some r =>
    match r.destination with
    | some d => s.expect p (destCell d) (posAdd r.lead (s.plan.destDistance d - s.plan.dMerge))
    | none => s

/-- The phase a matched cover sets (R22); a MERGE match also replaces the lead with the merge lead (R8). -/
def arrivalRecord (c : Cell) (at' : Pos) (r : Record) : Record :=
  match c with
  | .scan => { r with phase := .scanning }
  | .pocket => { r with phase := .pocketed }
  | .merge => { r with phase := .downstream, lead := at' }
  | .entry | .cancel | .stk _ | .endCell => r

/-- The block that owns a matched cover takes it (R4, R25, R74, R114, R117). -/
def State.handCover (s : State) (c : Cell) (p : PieceNo) (at' : Pos) : State :=
  match c with
  | .scan => s.openWindow p at'
  | .pocket => s.enterPocket p
  | .merge => s.mergeArrival p at'
  | .cancel => s.cancelArrival p
  | .entry | .stk _ | .endCell => s

/-- A cover that matches a tracked piece's expectation: expectation, deadline and next-cell fields go, the piece becomes the
occupant, its record follows, and the owner of the cover takes it (R7 step 3, R4, R8, R22, R86). Where the match itself trips the
machine, by an OVERSTAY overdue at its insertion (R58), JAMMED hands the cover to no block (R3): at CANCEL the piece then has no
destination expectation, and its last cell reached stays CANCEL (R117, log entry 30). -/
def State.matchTracked (s : State) (c : Cell) (p : PieceNo) (at' : Pos) : State :=
  let t := ((s.dropExpectation p).updateRecord p (arrivalRecord c at')).occupy c p at'
  if t.run.state.isRunning then t.handCover c p at' else t

/-- The matching of a cover of a cell other than ENTRY (R7): stale heads dropped, then STRAY or the head matched (R9).
A STRAY leaves the occupant as it stands, which may be an UNTRACKED whose uncover came in IDLE or JAMMED (log entry 29). -/
def State.matchCover (s : State) (c : Cell) (at' : Pos) : State :=
  let t := s.setQueue c (dropStale at' (s.queue c))
  match t.queue c with
  | [] => t.trip .stray (some c) at' none
  | x :: rest =>
    if t.insideWindow x at' then
      match x.who with
      | .piece p => t.matchTracked c p at'
      | .untracked => (t.setQueue c rest).matchUntracked c at'
    else t.trip .stray (some c) at' none

/-- A released letter's re-cover of POCKET taken back: the occupant becomes the cell's occupant and cell clear becomes no
(R76, R4). -/
def State.takeBack (s : State) (at' : Pos) : State :=
  match s.pocket.occupant with
  | some p =>
    let t := s.occupy .pocket p at'
    { t with pocket := { t.pocket with cellClear := false } }
  | none => s

/-- The handling of a cover in a running state (R3, R7). -/
def State.handleCover (s : State) (c : Cell) (at' : Pos) : State :=
  if c = .entry then s.entryCover at'
  else if c = .pocket ∧ s.pocket.state = .releasing ∧ s.pocket.cellClear = true then s.takeBack at'
  else s.matchCover c at'

/-- The position a cover has captured (R3, R58, log entry 32). -/
def State.capturedAt (s : State) : Capture → Pos
  | .present => s.position
  | .stepBefore => posSub s.position 1

/-- A cover: level and capture in every run state, and the handling in the running states. In IDLE and JAMMED it has no further
effect (R3, R147). -/
def State.coverCell (s : State) (c : Cell) (at' : Pos) : State :=
  let t := s.setCell c { s.cell c with covered := true, coverAt := at' }
  if t.run.state.isRunning then t.handleCover c at' else t

/-! ## Uncovers (R4) -/

/-- The block that owns an uncover takes it (R4). -/
def State.handUncover (s : State) (c : Cell) (o : Option Occupant) (at' : Pos) : State :=
  match c, o with
  | .entry, o => s.entryUncover at' o
  | .scan, some (.piece p) => s.closeWindow p at'
  | .pocket, some (.piece _) => s.pocketUncovered
  | .merge, some o => s.mergePass o
  | .stk _, some (.piece p) => s.completePiece p
  | .endCell, some (.piece p) => s.completePiece p
  | .scan, _ | .pocket, _ | .merge, none | .cancel, _ | .stk _, _ | .endCell, _ => s

/-- The handling of an uncover in a running state: the occupant's OVERSTAY removed, the uncover handed on, the occupant
absent (R4). -/
def State.handleUncover (s : State) (c : Cell) (at' : Pos) : State :=
  let o := (s.cell c).occupant
  let t := match o with
    | some (.piece p) => s.removeEntries p (.overstay c)
    | some .untracked | none => s
  (t.handUncover c o at').setOccupant c none

/-- A forced close that the SCAN uncover finds outstanding from an earlier step is made ahead of it (R28, log entry 32). -/
def State.closeAhead (s : State) (c : Cell) : State :=
  if s.run.state.isRunning && s.forcedCloseFirst c then s.forceClose else s

/-- An uncover: a forced close that precedes it, then level and capture in every run state, and the handling in the running states
(R3, R4, R28). In IDLE and JAMMED the occupant stands, an UNTRACKED one too (log entry 29). -/
def State.uncoverCell (s : State) (c : Cell) : State :=
  let s := s.closeAhead c
  let t := s.setCell c { s.cell c with covered := false, uncoverAt := s.position }
  if t.run.state.isRunning then t.handleUncover c t.position else t

/-! ## Meanings -/

/-- COVER (R3): a cell that is covered already changes nothing. -/
def execCover (x : CoverEvent) (s : State) : Host.Outcome State Fault Refusal :=
  .next (if (s.cell x.cell).covered then s else s.coverCell x.cell (s.capturedAt x.capture))

/-- UNCOVER (R4): a cell that is clear already changes nothing. -/
def execUncover (c : Cell) (s : State) : Host.Outcome State Fault Refusal :=
  .next (if (s.cell c).covered then s.uncoverCell c else s)

end Sys2Proof.Machine
end

