-- ==== Sys2Proof/Machine/Belt.lean ====
section
/-! DEFINITION. What acts on belt travel: the position counter and the blocks its steps are handed to (R1), and the steps in
which the action schedule takes its due entries (R57 to R60), with the meanings of FORWARD_STEP, REVERSE_STEP, GATE_OPEN,
GATE_CLOSE, PRINT_START, CELL_DEADLINE and OVERSTAY. -/

namespace Sys2Proof.Machine

/-! ## A forward step -/

/-- What is still outstanding at the present position is taken before the belt moves on: the due entries (R59), a forced close
(R28), a completed intake (R75) and the end of a crawl (R143) (log entry 9). -/
def State.settle (s : State) : State := (((s.takeAllDue s.schedule.length).forceClose).completeIntake).endCrawl

/-- The position, the time of the last step and the sample inputs of a new step; a column presented for the step before is presented
no more (R1, R23, R101). -/
def State.countStep (s : State) (x : SampleSet) : State :=
  { s with position := s.position + 1, lastStep := s.now, samples := x, printer := { s.printer with head := 0 } }

/-- The schedule entries due at a new position, taken before the other blocks see the step where the order has them first (R59,
R104). -/
def State.entriesAhead (s : State) : StepOrder → State
  | .stepFirst => s
  | .entriesFirst => s.takeAllDue s.schedule.length

/-- The travel count advances until it reaches 65,535 (R13). -/
def State.countTravel (s : State) : State :=
  { s with admission := { s.admission with travel := min 65535 (s.admission.travel + 1) } }

/-- The intake count advances while ENTERING, with the pocket not frozen (R75, R88). -/
def State.countIntake (s : State) : State :=
  if s.pocket.state = .entering ∧ s.protect.latch = false then
    { s with pocket := { s.pocket with intake := s.pocket.intake + 1 } }
  else s

/-- The step reaches the printer: the next column is fired at its own position, and otherwise none (R99, R101). -/
def State.printStep (s : State) : State :=
  match s.printer.job with
  | some j => if s.position = posAdd j.base j.next then s.fireColumn j else s
  | none => s

/-- Still detection starts again from the step (R124). -/
def State.restartStill (s : State) : State :=
  { s with drive := { s.drive with still := false, stillTimer := some (s.now + s.stillPeriod) } }

/-- The crawl count advances while the crawl is running (R143). -/
def State.countCrawl (s : State) : State :=
  if s.protect.crawling then { s with protect := { s.protect with crawlCount := s.protect.crawlCount + 1 } } else s

/-- The blocks a step is handed to, in the order of R1; the entries now due and the other steps it makes due are steps of
their own (spec/95). -/
def State.handStep (s : State) : State :=
  ((((s.takeSet.countTravel).countIntake).printStep).restartStill).countCrawl

/-! ## Due entries -/

/-- The due head of the schedule is taken when its kind passes a test (R59). -/
def State.takeDueIf (s : State) (test : EntryKind → Bool) : State :=
  match s.dueEntry with
  | some e => if test e.kind then s.takeDue else s
  | none => s

def EntryKind.isGateOpen : EntryKind → Bool
  | .gateOpen _ => true
  | .gateClose _ | .printStart | .cellDeadline _ | .overstay _ => false

def EntryKind.isGateClose : EntryKind → Bool
  | .gateClose _ => true
  | .gateOpen _ | .printStart | .cellDeadline _ | .overstay _ => false

def EntryKind.isPrintStart : EntryKind → Bool
  | .printStart => true
  | .gateOpen _ | .gateClose _ | .cellDeadline _ | .overstay _ => false

def EntryKind.isCellDeadline : EntryKind → Bool
  | .cellDeadline _ => true
  | .gateOpen _ | .gateClose _ | .printStart | .overstay _ => false

def EntryKind.isOverstay : EntryKind → Bool
  | .overstay _ => true
  | .gateOpen _ | .gateClose _ | .printStart | .cellDeadline _ => false

/-! ## Meanings -/

/-- FORWARD_STEP (R1). With the entries first, those due at the new position are taken before the step reaches the other blocks;
otherwise they are left to their own commands (R59, R104, log entry 9). -/
def execForwardStep (x : BeltStep) (s : State) : Host.Outcome State Fault Refusal :=
  .next (((s.settle.countStep x.samples).entriesAhead x.order).handStep)

/-- REVERSE_STEP (R1): ignored. -/
def execReverseStep (s : State) : Host.Outcome State Fault Refusal := .next s

/-- GATE_OPEN (R66): the due head of the schedule, when it is a GATE_OPEN, is taken. -/
def execGateOpen (s : State) : Host.Outcome State Fault Refusal := .next (s.takeDueIf EntryKind.isGateOpen)

/-- GATE_CLOSE (R67): the due head of the schedule, when it is a GATE_CLOSE, is taken. -/
def execGateClose (s : State) : Host.Outcome State Fault Refusal := .next (s.takeDueIf EntryKind.isGateClose)

/-- PRINT_START (R100): the due head of the schedule, when it is a PRINT_START, is taken. -/
def execPrintStart (s : State) : Host.Outcome State Fault Refusal := .next (s.takeDueIf EntryKind.isPrintStart)

/-- CELL_DEADLINE (R10): the due head of the schedule, when it is a CELL_DEADLINE, is taken. -/
def execCellDeadline (s : State) : Host.Outcome State Fault Refusal := .next (s.takeDueIf EntryKind.isCellDeadline)

/-- OVERSTAY (R11): the due head of the schedule, when it is an OVERSTAY, is taken. -/
def execOverstay (s : State) : Host.Outcome State Fault Refusal := .next (s.takeDueIf EntryKind.isOverstay)

end Sys2Proof.Machine
end

