-- ==== Sys2Proof/Machine/Requests.lean ====
section
/-! DEFINITION. The requests that complete at once (section 11.4): LOAD PLAN with its checks (R174, 11.7), SET IMPRESSION,
LOAD KILLER, SET STACKER, SNAPSHOT TALLIES, CLOSE TRAY, CLEAR JAM and an unknown kind, with their meanings. -/

namespace Sys2Proof.Machine

/-! ## The plan area (R174, section 11.7) -/

/-- The 58 words of the plan area as they stand (R174). -/
def State.planWords (s : State) : List Nat := (List.range 58).map (fun i => (s.pageWord (4 * i)).toNat)

/-- Word i of a copied plan area. -/
def planWord (l : List Nat) (i : Nat) : Nat := l.getD i 0

def inRange (lo hi x : Nat) : Bool := decide (lo ≤ x) && decide (x ≤ hi)

/-- A list rises strictly. -/
def rising : List Nat → Bool
  | x :: y :: t => decide (x < y) && rising (y :: t)
  | _ => true

/-- The eleven station distances of checks 1 and 2, in order. -/
def stationWords (l : List Nat) : List Nat :=
  [planWord l 0, planWord l 1, planWord l 2, planWord l 5, planWord l 6, planWord l 7, planWord l 8, planWord l 9,
    planWord l 10, planWord l 11, planWord l 12]

/-- Checks 1 to 38 in order (R174, section 11.7). Word i of the area is byte offset 4 × i. -/
def planChecks (l : List Nat) : List Bool :=
  let w := planWord l
  [ (stationWords l).all (inRange 1 16000),
    rising (stationWords l),
    decide (w 2 < w 3) && decide (w 3 ≤ 16000),
    inRange 40 2000 (w 4),
    inRange 100 400 (w 13),
    inRange (w 13 + 1) 800 (w 14),
    inRange 20 400 (w 15),
    inRange 0 200 (w 16) && inRange 0 200 (w 17),
    inRange 2 200 (w 18),
    inRange 1 255 (w 19),
    inRange 1 (w 19) (w 20),
    inRange 16 1023 (w 21),
    inRange 1 255 (w 22),
    decide (w 23 ≤ w 24) && decide (w 24 < w 22),
    inRange 1 1023 (w 25) && inRange 1 1023 (w 26) && decide (w 25 ≤ w 26),
    inRange 1 1023 (w 27) && inRange 1 1023 (w 28) && decide (w 27 ≤ w 28),
    inRange 1 16 (w 29),
    inRange 0 2 (w 30) && inRange 0 2 (w 31),
    inRange 0 3 (w 32) && inRange 0 3 (w 33),
    inRange 0 64 (w 34),
    inRange 0 200 (w 35),
    [w 36, w 37, w 38, w 39, w 40, w 41].all (inRange 1 6),
    inRange 20 500 (w 42),
    inRange 100 5000 (w 43),
    inRange 1 4 (w 44),
    inRange 64 1023 (w 45),
    inRange 1 (w 45) (w 46),
    inRange 1 64 (w 47),
    inRange 1 16 (w 48),
    inRange 50 1000 (w 49),
    inRange 0 2 (w 50),
    inRange 0 4000 (w 51),
    [w 52, w 53, w 54, w 55].all (inRange 1 1023) && rising [w 52, w 53, w 54, w 55],
    inRange 10 10000 (w 57),
    decide (w 15 < w 0),
    decide (w 16 + w 17 ≤ w 15),
    decide (2 * w 18 < w 15),
    decide ((w 13 : Int) ≤ (w 1 : Int) - (w 0 : Int) - (w 16 : Int)) ]

/-- The number of the first check that fails, counted from 1 (R174). -/
def firstFailing (l : List Bool) : Option Nat := (l.findIdx? (fun b => !b)).map (· + 1)

def policyOfCode (n : Nat) : Policy := if n = 2 then .full else if n = 1 then .dieOnly else .nothing

def destOfCode (n : Nat) : Dest :=
  if n = 1 then .stk .stk1
  else if n = 2 then .stk .stk2
  else if n = 3 then .stk .stk3
  else if n = 4 then .stk .stk4
  else if n = 5 then .stk .stk5
  else .endCatch

def protectModeOfCode (n : Nat) : ProtectMode := if n = 2 then .crawlThenCut else if n = 1 then .ramp else .cut

/-- The plan a copied plan area gives, each field from its own word (section 11.7). The row 0x90 to 0xA4 is read as the primary and the
alternate of TAG, then those of METER, then those of CULL (DEDUCED, log entry 28). -/
def planOfWords (l : List Nat) : Plan :=
  let w := planWord l
  { dScan := w 0, dTwist := w 1, dRev := w 2, dPocket := w 3, dRelease := w 4, dMerge := w 5, dCancel := w 6
    dStk1 := w 7, dStk2 := w 8, dStk3 := w 9, dStk4 := w 10, dStk5 := w 11, dEnd := w 12
    minLen := w 13, maxLen := w 14, minGap := w 15, gateLead := w 16, gateLag := w 17, cellTol := w 18
    onLevel := w 19, offLevel := w 20, endWin := w 21, tagRMin := w 22, mtrRMin := w 23, mtrRMax := w 24
    tagLenMin := w 25, tagLenMax := w 26, mtrLenMin := w 27, mtrLenMax := w 28, ambig := w 29
    policyTag := policyOfCode (w 30), policyMeter := policyOfCode (w 31)
    bankTag := Fin.ofNat 4 (w 32), bankMeter := Fin.ofNat 4 (w 33)
    killLead := w 34, tailMargin := w 35
    routeTag := ⟨destOfCode (w 36), destOfCode (w 37)⟩
    routeMeter := ⟨destOfCode (w 38), destOfCode (w 39)⟩
    routeCull := ⟨destOfCode (w 40), destOfCode (w 41)⟩
    revDwell := w 42, revMaxHold := w 43, mergeRatio := w 44, runCode := w 45, crawlCode := w 46, codeStep := w 47
    rampTick := w 48, stillTime := w 49, protectMode := protectModeOfCode (w 50), crawlSteps := w 51
    b1 := w 52, b2 := w 53, b3 := w 54, b4 := w 55
    maskPiece := (w 56).testBit 0, maskEvent := (w 56).testBit 1, maskDots := (w 56).testBit 2
    trayAge := w 57 }

/-- LOAD PLAN: refused outside IDLE; the first failing check refuses it; otherwise the copy becomes the working plan (R174), and
still detection is measured against the new STILL_TIME (R124). -/
def State.decideLoadPlan (s : State) (cell : Fin 8) (tag : Word) : State :=
  if s.run.state ≠ .idle then s.completeRequest cell tag .wrongState 0
  else match firstFailing (planChecks s.planWords) with
    | some n => s.completeRequest cell tag .planInvalid (countWord n)
    | none =>
      (({ s with plan := planOfWords s.planWords, planValid := true }).completeRequest cell tag .ok 0).remeasureStill

/-! ## Images (R90, R91) -/

/-- A die loaded into a slot: in place when the slot is active, otherwise the slot becomes the pending one (R90). -/
def State.loadSlot (s : State) (i : Fin 2) (columns : List Word) : State :=
  let t := { s with printer := { s.printer with
    slots := put s.printer.slots i { s.printer.slots.get i with columns := columns } } }
  if i = t.printer.active then t else { t with printer := { t.printer with waiting := some i } }

/-- SET IMPRESSION: the checks in the order of R90, then the load. -/
def State.decideSetImpression (s : State) (cell : Fin 8) (tag slot columns : Word) : State :=
  if 2 ≤ slot.toNat ∨ inRange 1 64 columns.toNat = false then s.completeRequest cell tag .badArgument 0
  else
    let i : Fin 2 := Fin.ofNat 2 slot.toNat
    if i = s.printer.active ∧ s.run.state ≠ .idle then s.completeRequest cell tag .slotActive 0
    else if i ≠ s.printer.active ∧ 0 < (s.printer.slots.get i).inUse then s.completeRequest cell tag .notReady 0
    else (s.loadSlot i (s.stagedColumns columns.toNat)).completeRequest cell tag .ok columns

/-- LOAD KILLER: the checks in the order of R91, then the load. -/
def State.decideLoadKiller (s : State) (cell : Fin 8) (tag bank columns : Word) : State :=
  if s.run.state ≠ .idle then s.completeRequest cell tag .wrongState 0
  else if 4 ≤ bank.toNat ∨ inRange 1 96 columns.toNat = false then s.completeRequest cell tag .badArgument 0
  else
    ({ s with printer := { s.printer with
      banks := put s.printer.banks (Fin.ofNat 4 bank.toNat) (s.stagedColumns columns.toNat) } }).completeRequest cell tag
        .ok columns

/-! ## Stackers (R109) -/

/-- SET STACKER: refused outside stackers 1 to 5 and services 0 and 1; answered 1 when the stacker is then available
(R109). -/
def State.decideSetStacker (s : State) (cell : Fin 8) (tag stacker service : Word) : State :=
  if inRange 1 5 stacker.toNat = false ∨ 2 ≤ service.toNat then s.completeRequest cell tag .badArgument 0
  else
    let i : Fin 5 := Fin.ofNat 5 (stacker.toNat - 1)
    let on := service.toNat == 1
    let t := { s with router := { s.router with inService := put s.router.inService i on } }
    t.completeRequest cell tag .ok (countWord (on && (t.router.full.get i == .inactive)).toNat)

/-! ## Tallies (R155, R156, section 11.7) -/

/-- The tally area: words 0 to 5, then the 44 counters from word 8 on. Words 6 and 7 are not written. -/
def State.writeTallyArea (s : State) (clear : Word) : State :=
  let t := s.storeWords (s.pageAt tallyOffset)
    [ s.tally.snapshot.setWidth 32, runStateCode s.run.state, clear, bitsWord s.tally.pieceCarry.toList,
      bitsWord s.tally.eventCarry.toList, bitOf s.tally.dotsCarry 0 ]
  t.storeWords (t.pageAt (tallyOffset + 32))
    (s.tally.pieces.toList.map (·.setWidth 32) ++ s.tally.events.toList.map (·.setWidth 32) ++ [s.tally.dots])

/-- SNAPSHOT TALLIES: the snapshot number rises, the area is written, and with CLEAR 1 the counters and carry flags are zeroed
(R155, R156). -/
def State.decideSnapshot (s : State) (cell : Fin 8) (tag clear : Word) : State :=
  if 2 ≤ clear.toNat then s.completeRequest cell tag .badArgument 0
  else
    let n := s.tally.snapshot + 1
    let t := ({ s with tally := { s.tally with snapshot := n } }).writeTallyArea clear
    let t := if clear = 1 then { t with tally := { Tally.zero with snapshot := n } } else t
    t.completeRequest cell tag .ok (n.setWidth 32)

/-! ## Trays (R166) -/

/-- CLOSE TRAY: an open tray closes with cause REQUEST and its serial is the result; without one, NOTHING_TO_CLOSE. Reports
still held prompt a search after the close (R165, R166). -/
def State.decideCloseTray (s : State) (cell : Fin 8) (tag : Word) : State :=
  match s.reports.tray with
  | none => s.completeRequest cell tag .nothingToClose 0
  | some _ => ((s.closeTray .request).completeRequest cell tag .ok s.reports.serial).fileReports

/-! ## CLEAR JAM (R148 to R150) -/

/-- The eleven cells in the order of R148. -/
def allCells : List Cell :=
  [.entry, .scan, .pocket, .merge, .cancel, .stk .stk1, .stk .stk2, .stk .stk3, .stk .stk4, .stk .stk5, .endCell]

/-- The first covered cell (R148). -/
def State.firstCovered (s : State) : Option Cell := allCells.find? (fun c => (s.cell c).covered)

/-- One tracked piece purged: MISSING for the trip piece of a MISSING trip, then its end with outcome PURGED (R150, step 1). -/
def State.purgePiece (s : State) (p : PieceNo) : State :=
  let t := if s.protect.cause = some .missing ∧ s.protect.piece = some p then
      s.updateRecord p (fun r => { r with flags := { r.flags with missing := true } })
    else s
  t.endPiece p (fun _ => .purged)

/-- Every tracked piece purged, in order of admission (R150, step 1). -/
def State.purgeAll (s : State) : State := s.records.foldl (fun t r => t.purgePiece r.number) s

/-- Steps 2 to 4 of the purge: remaining entries and expectations removed, the protect unit's trip state reset, the latch
clear and the motor command following the pocket (R150). -/
def State.clearLatch (s : State) : State :=
  let t := (s.filterQueues (fun _ => false))
  let t := { t with
    schedule := []
    protect := { t.protect with
      latch := false, cause := none, cell := none, position := 0, piece := none, furtherTrips := 0, crawlCount := 0,
      crawling := false, recordWritten := false, rewriteDue := false } }
  { t with pocket := { t.pocket with motor := motorFor t.pocket.state false } }

/-- The purge, as one act (R150). -/
def State.purge (s : State) : State :=
  let t := ((s.purgeAll.clearLatch).setRunState .idle).settleIdle 0 .purge
  t.storeWord (t.pageAt jamOffset) recordCleared

/-- CLEAR JAM: the checks in the order of R148, then the purge, answered with the number of pieces purged (R149). Every trip it ends
has had its jam record written, at the latest here: one still due comes from a trip after step 2 of the scan (R145, log entry 34). -/
def State.decideClearJam (s : State) (cell : Fin 8) (tag : Word) : State :=
  if s.run.state ≠ .jammed then s.completeRequest cell tag .wrongState 0
  else if s.drive.still = false then s.completeRequest cell tag .notStill 0
  else match s.firstCovered with
    | some c => s.completeRequest cell tag .cellsCovered (cellCode c)
    | none => s.writeRecordIfDue.purge.completeRequest cell tag .ok (countWord s.records.length)

/-! ## Meanings -/

/-- LOAD PLAN (R174). -/
def execLoadPlan (cell : Fin 8) (tag : Word) (s : State) : Host.Outcome State Fault Refusal :=
  .next (s.onRequest cell (fun t => t.decideLoadPlan cell tag))

/-- SET IMPRESSION (R90). -/
def execSetImpression (cell : Fin 8) (tag slot columns : Word) (s : State) : Host.Outcome State Fault Refusal :=
  .next (s.onRequest cell (fun t => t.decideSetImpression cell tag slot columns))

/-- LOAD KILLER (R91). -/
def execLoadKiller (cell : Fin 8) (tag bank columns : Word) (s : State) : Host.Outcome State Fault Refusal :=
  .next (s.onRequest cell (fun t => t.decideLoadKiller cell tag bank columns))

/-- SET STACKER (R109). -/
def execSetStacker (cell : Fin 8) (tag stacker service : Word) (s : State) : Host.Outcome State Fault Refusal :=
  .next (s.onRequest cell (fun t => t.decideSetStacker cell tag stacker service))

/-- SNAPSHOT TALLIES (R155). -/
def execSnapshotTallies (cell : Fin 8) (tag clear : Word) (s : State) : Host.Outcome State Fault Refusal :=
  .next (s.onRequest cell (fun t => t.decideSnapshot cell tag clear))

/-- CLOSE TRAY (R166). -/
def execCloseTray (cell : Fin 8) (tag : Word) (s : State) : Host.Outcome State Fault Refusal :=
  .next (s.onRequest cell (fun t => t.decideCloseTray cell tag))

/-- CLEAR JAM (R148). -/
def execClearJam (cell : Fin 8) (tag : Word) (s : State) : Host.Outcome State Fault Refusal :=
  .next (s.onRequest cell (fun t => t.decideClearJam cell tag))

/-- A kind outside the ten defined kinds completes at once with UNKNOWN_KIND (R172). -/
def execUnknownKind (cell : Fin 8) (tag _kind : Word) (s : State) : Host.Outcome State Fault Refusal :=
  .next (s.onRequest cell (fun t => t.completeRequest cell tag .unknownKind 0))

end Sys2Proof.Machine
end

