-- ==== Sys2Proof/Machine/PageScan.lean ====
section
/-! DEFINITION. The page scan: the status block, the jam record, the due age close and rack search, and the taking of the POSTED
request cells (spec/11, R170 to R172, R179), worked part by part, with the meaning of PAGE_SCAN; and the commands the block itself makes due,
which step takes up when no command waits. -/

namespace Sys2Proof.Machine

/-! ## Requests read from their cells (R172) -/

/-- The row of the opcode table that a request is, by its kind code (section 11.4). -/
def Request.command (q : Request) : Instr :=
  match q.kind.toNat with
  | 1 => .loadPlan q.cell q.tag
  | 2 => .start q.cell q.tag
  | 3 => .drain q.cell q.tag
  | 4 => .stop q.cell q.tag
  | 5 => .setImpression q.cell q.tag q.arg0 q.arg1
  | 6 => .loadKiller q.cell q.tag q.arg0 q.arg1
  | 7 => .setStacker q.cell q.tag q.arg0 q.arg1
  | 8 => .snapshotTallies q.cell q.tag q.arg0
  | 9 => .closeTray q.cell q.tag
  | 10 => .clearJam q.cell q.tag
  | _ => .unknownKind q.cell q.tag q.kind

/-- The owner of a request takes and decides it (R172). -/
def State.decideRequest (s : State) (q : Request) : State :=
  s.onRequest q.cell (fun t =>
    match q.kind.toNat with
    | 1 => t.decideLoadPlan q.cell q.tag
    | 2 => t.decideStart q.cell q.tag
    | 3 => t.decideDrain q.cell q.tag
    | 4 => t.decideStop q.cell q.tag
    | 5 => t.decideSetImpression q.cell q.tag q.arg0 q.arg1
    | 6 => t.decideLoadKiller q.cell q.tag q.arg0 q.arg1
    | 7 => t.decideSetStacker q.cell q.tag q.arg0 q.arg1
    | 8 => t.decideSnapshot q.cell q.tag q.arg0
    | 9 => t.decideCloseTray q.cell q.tag
    | 10 => t.decideClearJam q.cell q.tag
    | _ => t.completeRequest q.cell q.tag .unknownKind 0)

/-! ## The four steps of a scan (R170) -/

/-- The twelve words of the status block (R171, R179). -/
def State.statusWords (s : State) : List Word :=
  [ runStateCode s.run.state, s.run.hold.word, posWord s.position, countWord s.drive.code,
    countWord s.records.length, countWord s.reports.held.length,
    (match s.reports.tray with
      | some t => countWord t.index.val
      | none => BitVec.allOnes 32),
    s.admission.nextPiece, countWord s.printer.active.val,
    (match s.printer.waiting with
      | some i => countWord i.val
      | none => BitVec.allOnes 32),
    pocketStateCode s.pocket.state, bitOf s.protect.latch 0 ]

/-- Step 1: the status block (R171). -/
def State.writeStatus (s : State) : State := s.storeWords (s.pageAt statusOffset) s.statusWords

/-- Step 3: a due age close, then a search when reports are held and no tray is open (R167, R162). -/
def State.scanTrays (s : State) : State :=
  (if s.reports.closeDue then s.closeTray .age else s).searchAndFile

/-- The request read from a cell (R172, section 11.7). -/
def State.readRequest (s : State) (i : Fin 8) : Request :=
  { cell := i, kind := s.pageWord (requestOffset i 1), tag := s.pageWord (requestOffset i 2),
    arg0 := s.pageWord (requestOffset i 3), arg1 := s.pageWord (requestOffset i 4),
    arg2 := s.pageWord (requestOffset i 5) }

/-- Step 4 for one cell: a POSTED cell that is not the pending cell is read, and its request is taken and decided before the next
cell is read (R170, R172). -/
def State.scanCell (s : State) (i : Fin 8) : State :=
  if s.canTake i && s.pageWord (requestOffset i 0) == cellPosted then s.decideRequest (s.readRequest i) else s

/-- The parts of a page scan in order: steps 1 to 3, then the eight request cells of step 4 in index order (R170). -/
def scanParts : List ScanPart :=
  [.status, .jamRecord, .trays, .cell 0, .cell 1, .cell 2, .cell 3, .cell 4, .cell 5, .cell 6, .cell 7]

/-- One part of a page scan, taken whole (R170). -/
def State.scanPart (s : State) : ScanPart → State
  | .status => s.writeStatus
  | .jamRecord => s.writeRecordIfDue.rewriteRecordIfDue
  | .trays => s.scanTrays
  | .cell i => s.scanCell i

/-- A page scan begins: the timer starts again with a full period and every part is still to come (R170). -/
def State.beginScan (s : State) : State :=
  { s with port := { s.port with scanTimer := some (s.now + 2 ^ s.port.scanTap.toNat), scanLeft := scanParts } }

/-- The next n parts of the scan in progress are worked in order, and the rest stays to come (R170). -/
def State.workScan : Nat → State → State
  | 0, s => s
  | n + 1, s =>
    match s.port.scanLeft with
    | [] => s
    | p :: rest => State.workScan n ({ s with port := { s.port with scanLeft := rest } }.scanPart p)

/-! ## Meaning -/

/-- PAGE_SCAN (R170): the line processor's stores reach line memory, then the scan is made at the timer's expiry, as far as the operand
says; a scan in progress is gone on with. A stopped timer does not expire, and no page scan is then made. -/
def execPageScan (x : ScanAct) (s : State) : Host.Outcome State Fault Refusal :=
  let t := s.applyStores x.stores
  if t.port.scanLeft.isEmpty then
    match t.port.scanTimer with
    | none => .next t
    | some d => .next ((t.reachTime d).beginScan.workScan x.parts)
  else .next (t.workScan x.parts)

/-! ## What the block makes due itself -/

/-- The command that takes an entry of a kind (R57). -/
def EntryKind.command : EntryKind → Instr
  | .gateOpen _ => .gateOpen
  | .gateClose _ => .gateClose
  | .printStart => .printStart
  | .cellDeadline _ => .cellDeadline
  | .overstay _ => .overstay

/-- A timer has reached its time. -/
def timerDue (now : Nat) : Timer → Bool
  | some d => decide (d ≤ now)
  | none => false

/-- The step the block makes due next by itself, if any: a due entry, a forced close, a completed intake, the end of a crawl, the report
of a target reached, reports to move, the rest of a page scan, or a timer's expiry (log entry 7). -/
def State.dueCommand (s : State) : Option Instr :=
  match s.dueEntry with
  | some e => some e.kind.command
  | none =>
    if s.forcedCloseDue then some .forcedClose
    else if s.intakeDone then some .intakeComplete
    else if s.crawlEnds then some .crawlEnd
    else if s.drive.report.isSome then some (.rampTick .withTick)
    else if s.reports.filingDue then some .moveReports
    else if !s.port.scanLeft.isEmpty || timerDue s.now s.port.scanTimer then some (.pageScan ⟨[], scanParts.length⟩)
    else if timerDue s.now s.drive.rampTimer then some (.rampTick .withTick)
    else if timerDue s.now s.drive.stillTimer then some .stillTimerExpiry
    else if timerDue s.now s.pocket.dwellTimer then some .dwellTimerExpiry
    else if timerDue s.now s.pocket.holdTimer then some .holdTimerExpiry
    else if timerDue s.now s.reports.ageTimer then some .trayAgeExpiry
    else none

/-- With no command waiting: the step the block itself has made due is put into the queue, and where there is none the timebase
ticks 1 ms (DESIGN CHOICE, log entry 7). -/
def State.idleStep (s : State) : State :=
  match s.dueCommand with
  | some c => { s with pending := [c] }
  | none => { s with now := s.now + 1 }

end Sys2Proof.Machine
end

