-- ==== Sys2Proof/Machine/Registers.lean ====
section
/-! DEFINITION. The register port and the two resets (spec/11, R168, R169, R175, R176), with the meanings of RESET_INPUT,
CONTROL_RESET, SET_ENABLE, CLEAR_ENABLE, SCAN_TAP, PAGE_ADDRESS_WRITE, ATTENTION_MASK_WRITE, ATTENTION_READ and
ATTENTION_WRITE. -/

namespace Sys2Proof.Machine

/-! ## Resets (R169) -/

/-- Every block takes its reset values. The levels of the cells, the full inputs and the guard are those the inputs show (R3,
R108, R137), END_FULL stands with an active END input (R135), still detection counts from the time of the reset (R1, R124),
and line memory, the time and the waiting commands are untouched. -/
def State.resetBlocks (s : State) : State :=
  { State.reset with
    pending := s.pending
    now := s.now
    lastStep := s.now
    samples := s.samples
    cellUnit := { State.reset.cellUnit with
      cells := s.cellUnit.cells.map (fun x => { clearCell with covered := x.covered }) }
    router := { State.reset.router with full := s.router.full, endFull := s.router.endFull }
    drive := { State.reset.drive with stillTimer := some (s.now + 1000) }
    run := { State.reset.run with
      hold := { State.reset.run.hold with endFull := s.router.endFull == FullLevel.active } }
    protect := { State.reset.protect with guardIsOpen := s.protect.guardIsOpen }
    port := { State.reset.port with readData := s.port.readData }
    mem := s.mem
    openSeq := s.openSeq }

/-- CONTROL.RESET keeps PAGE ADDRESS and ATTENTION MASK (R168, R169). -/
def State.controlReset (s : State) : State :=
  let t := s.resetBlocks
  { t with port := { t.port with pageAddress := s.port.pageAddress, masked := s.port.masked } }

/-! ## CONTROL (R169) -/

/-- A SCAN TAP code of 0 to 5 is taken for the next start of the scan timer; 6 and 7 leave it unchanged (R169). -/
def State.writeScanTap (s : State) (tap : BitVec 3) : State :=
  if tap.toNat ≤ 5 then { s with port := { s.port with scanTap := tap } } else s

/-- ENABLE 1 while ENABLE is 0: ENABLE set, the scan timer started with a full period, held reports moved into a tray left open
(R160, R169). -/
def State.enablePort (s : State) : State :=
  if s.port.enable then s
  else
    let t := { s with port := { s.port with
      enable := true, scanTimer := some (s.now + 2 ^ s.port.scanTap.toNat) } }
    if t.reports.tray.isSome then t.fileReports else t

/-- ENABLE 0 while ENABLE is 1, taken only in IDLE and JAMMED: ENABLE cleared and the scan timer stopped. A scan in progress, whose
expiry came first, is made before the write takes effect (R169, log entry 34). -/
def State.disablePort (s : State) : State :=
  if !s.port.enable then s
  else
    let t := s.workScan s.port.scanLeft.length
    if t.run.state.isRunning then t else { t with port := { t.port with enable := false, scanTimer := none } }

/-- A write of CONTROL, by the bits of the written word: 1 RESET, 4 to 6 the SCAN TAP code, 0 ENABLE (R169, R179). RESET 1 discards the
other fields; the SCAN TAP code is taken first (log entry 10). -/
def State.writeControl (s : State) (v : Word) : State :=
  if v.getLsbD 1 then s.controlReset
  else
    let t := s.writeScanTap (v.extractLsb' 4 3)
    if v.getLsbD 0 then t.enablePort else t.disablePort

/-! ## ATTENTION and its mask (R168, R176) -/

/-- One value per cause out of the bits of a written word (R179). -/
def causeBits (v : Word) : PerCause Bool :=
  ⟨v.getLsbD 0, v.getLsbD 1, v.getLsbD 2, v.getLsbD 3, v.getLsbD 4⟩

def PerCause.zip {α β γ : Type} (f : α → β → γ) (a : PerCause α) (b : PerCause β) : PerCause γ :=
  ⟨f a.jam b.jam, f a.trayStarved b.trayStarved, f a.carry b.carry, f a.trayClosed b.trayClosed,
    f a.requestDone b.requestDone⟩

/-- A read shows the set causes and the top-cause code, and marks every cause it shows set as seen (R176). -/
def State.readAttention (s : State) : State :=
  { s with port := { s.port with
      readData := s.attentionWord, seen := s.port.seen.zip (fun a b => a || b) s.port.causes } }

/-- A write clears each cause written 1 whose seen mark is yes; the seen mark of a cleared cause becomes no (R176). -/
def State.writeAttention (s : State) (v : Word) : State :=
  let cleared := ((causeBits v).zip (fun a b => a && b) s.port.seen).zip (fun a b => a && b) s.port.causes
  { s with port := { s.port with
      causes := s.port.causes.zip (fun a b => a && !b) cleared
      seen := s.port.seen.zip (fun a b => a && !b) cleared } }

/-- The address a PAGE ADDRESS write takes: its low 12 bits are taken as 0 (R168). -/
def pageAddressOf (v : Word) : Word := v &&& ~~~(0xFFF#32)

/-- What a read of PAGE ADDRESS returns: the address in effect (R168). -/
def State.pageAddressWord (s : State) : Word := s.port.pageAddress

/-- What a read of ATTENTION MASK shows: bit n is 1 while cause n is masked (R168, R179); the bits no
table assigns read 0 (log entry 33). -/
def State.maskWord (s : State) : Word := bitsWord (allCauses.map s.port.masked.get)

/-- What a read of CONTROL shows: ENABLE, RESET reading 0, and the SCAN TAP code in bits 4 to 6 (R168, R179);
the bits no table assigns read 0 (log entry 33). -/
def State.controlWord (s : State) : Word := bitOf s.port.enable 0 ||| fieldAt 4 3 (s.port.scanTap.setWidth 32)

/-! ## Meanings -/

/-- RESET_INPUT (R169): as CONTROL.RESET, with PAGE ADDRESS 0 and every cause unmasked. -/
def execResetInput (s : State) : Host.Outcome State Fault Refusal := .next s.resetBlocks

/-- CONTROL_RESET (R169): a write of CONTROL with RESET 1, which discards its other fields; so the row carries no word. -/
def execControlReset (s : State) : Host.Outcome State Fault Refusal := .next s.controlReset

/-- SET_ENABLE (R169): a write of CONTROL with RESET 0 and ENABLE 1. -/
def execSetEnable (v : Word) (s : State) : Host.Outcome State Fault Refusal := .next (s.writeControl v)

/-- CLEAR_ENABLE (R169): a write of CONTROL with RESET 0 and ENABLE 0. -/
def execClearEnable (v : Word) (s : State) : Host.Outcome State Fault Refusal := .next (s.writeControl v)

/-- SCAN_TAP (R169): a write of CONTROL with RESET 0 whose ENABLE bit is as ENABLE stands. -/
def execScanTap (v : Word) (s : State) : Host.Outcome State Fault Refusal := .next (s.writeControl v)

/-- PAGE_ADDRESS_WRITE (R168): ignored while ENABLE is 1. -/
def execPageAddressWrite (v : Word) (s : State) : Host.Outcome State Fault Refusal :=
  .next (if s.port.enable then s else { s with port := { s.port with pageAddress := pageAddressOf v } })

/-- ATTENTION_MASK_WRITE (R168, R175): the attention line and the top-cause code follow the new mask. -/
def execAttentionMaskWrite (v : Word) (s : State) : Host.Outcome State Fault Refusal :=
  .next { s with port := { s.port with masked := causeBits v } }

/-- ATTENTION_READ (R176). -/
def execAttentionRead (s : State) : Host.Outcome State Fault Refusal := .next s.readAttention

/-- ATTENTION_WRITE (R176). -/
def execAttentionWrite (v : Word) (s : State) : Host.Outcome State Fault Refusal := .next (s.writeAttention v)

end Sys2Proof.Machine
end

