-- ==== Sys2Proof/Machine/Dispatch.lean ====
section
/-! DEFINITION. The meaning of each command: one arm per constructor. -/

namespace Sys2Proof.Machine

def exec (i : Instr) (s : State) : Host.Outcome State Fault Refusal :=
  match i with
  | .resetInput => Sys2Proof.Machine.execResetInput s
  | .controlReset => Sys2Proof.Machine.execControlReset s
  | .setEnable value => Sys2Proof.Machine.execSetEnable value s
  | .clearEnable value => Sys2Proof.Machine.execClearEnable value s
  | .scanTap value => Sys2Proof.Machine.execScanTap value s
  | .pageAddressWrite value => Sys2Proof.Machine.execPageAddressWrite value s
  | .attentionMaskWrite value => Sys2Proof.Machine.execAttentionMaskWrite value s
  | .attentionRead => Sys2Proof.Machine.execAttentionRead s
  | .attentionWrite value => Sys2Proof.Machine.execAttentionWrite value s
  | .forwardStep x => Sys2Proof.Machine.execForwardStep x s
  | .reverseStep => Sys2Proof.Machine.execReverseStep s
  | .cover x => Sys2Proof.Machine.execCover x s
  | .uncover c => Sys2Proof.Machine.execUncover c s
  | .guardOpening => Sys2Proof.Machine.execGuardOpening s
  | .guardClosing => Sys2Proof.Machine.execGuardClosing s
  | .fullInputChange d level => Sys2Proof.Machine.execFullInputChange d level s
  | .pageScan x => Sys2Proof.Machine.execPageScan x s
  | .rampTick report => Sys2Proof.Machine.execRampTick s report
  | .stillTimerExpiry => Sys2Proof.Machine.execStillTimerExpiry s
  | .dwellTimerExpiry => Sys2Proof.Machine.execDwellTimerExpiry s
  | .holdTimerExpiry => Sys2Proof.Machine.execHoldTimerExpiry s
  | .trayAgeExpiry => Sys2Proof.Machine.execTrayAgeExpiry s
  | .intakeComplete => Sys2Proof.Machine.execIntakeComplete s
  | .forcedClose => Sys2Proof.Machine.execForcedClose s
  | .crawlEnd => Sys2Proof.Machine.execCrawlEnd s
  | .gateOpen => Sys2Proof.Machine.execGateOpen s
  | .gateClose => Sys2Proof.Machine.execGateClose s
  | .printStart => Sys2Proof.Machine.execPrintStart s
  | .cellDeadline => Sys2Proof.Machine.execCellDeadline s
  | .overstay => Sys2Proof.Machine.execOverstay s
  | .moveReports => Sys2Proof.Machine.execMoveReports s
  | .loadPlan cell tag => Sys2Proof.Machine.execLoadPlan cell tag s
  | .start cell tag => Sys2Proof.Machine.execStart cell tag s
  | .drain cell tag => Sys2Proof.Machine.execDrain cell tag s
  | .stop cell tag => Sys2Proof.Machine.execStop cell tag s
  | .setImpression cell tag slot columns => Sys2Proof.Machine.execSetImpression cell tag slot columns s
  | .loadKiller cell tag bank columns => Sys2Proof.Machine.execLoadKiller cell tag bank columns s
  | .setStacker cell tag stacker service => Sys2Proof.Machine.execSetStacker cell tag stacker service s
  | .snapshotTallies cell tag clear => Sys2Proof.Machine.execSnapshotTallies cell tag clear s
  | .closeTray cell tag => Sys2Proof.Machine.execCloseTray cell tag s
  | .clearJam cell tag => Sys2Proof.Machine.execClearJam cell tag s
  | .unknownKind cell tag kind => Sys2Proof.Machine.execUnknownKind cell tag kind s

end Sys2Proof.Machine
end

