-- ==== Sys2Proof/Safety.lean ====
section
/-! DEFINITION. What a safe state of the FC640 is: the laws the spec states for the whole machine, each as one property of a state,
for the claims that every step keeps them. -/

namespace Sys2Proof.Safety

open Sys2Proof.Machine

/-- R141 with R73 and R134: while the jam latch is set the run state is JAMMED, every gate is closed, feed enable is off, no
impression is in progress, the printhead fires nothing and the pocket motor holds; and JAMMED is left only with the latch. -/
abbrev jamSafe (s : State) : Prop :=
  (s.protect.latch = true ↔ s.run.state = .jammed) ∧
  (s.protect.latch = true →
    s.gates = Vector.replicate 7 .closed ∧ s.run.feedEnable = false ∧ s.printer.job = none ∧ s.printer.head = 0 ∧
      s.pocket.motor = .hold)

/-- R14: never more than 32 tracked pieces, nor more than 48 held reports and tracked pieces together. -/
abbrev roomKept (s : State) : Prop :=
  s.records.length ≤ 32 ∧ s.reports.held.length + s.records.length ≤ 48

/-- R135 and R136: each feed hold reason stands exactly while its cause does, and feed enable is asserted exactly while none
stands. -/
abbrev feedFollows (s : State) : Prop :=
  s.run.hold.notRunning = (s.run.state != .running) ∧
  s.run.hold.tableMargin = decide (30 ≤ s.records.length) ∧
  s.run.hold.reportSpace = decide (46 ≤ s.reports.held.length + s.records.length) ∧
  s.run.hold.mergeGap = s.pocket.mergeHold ∧
  s.run.hold.endFull = (s.router.endFull == FullLevel.active) ∧
  s.run.feedEnable = !s.run.hold.anyStands

/-- R73: the pocket motor command is the one the pocket state and the latch call for. -/
abbrev motorFollows (s : State) : Prop := s.pocket.motor = motorFor s.pocket.state s.protect.latch

/-- R72: the pocket has an occupant in every state but EMPTY. -/
abbrev pocketHeld (s : State) : Prop := s.pocket.state = .empty ↔ s.pocket.occupant = none

/-- R121: the ramp timer is stopped exactly while the speed code equals the target. -/
abbrev rampFollows (s : State) : Prop := s.drive.rampTimer = none ↔ s.drive.code = s.drive.target

/-- R168, R170: the scan timer runs exactly while ENABLE is 1, PAGE ADDRESS is a multiple of 4,096, SCAN TAP holds one of the six
defined codes, and a page scan is in progress only while ENABLE is 1, its parts still to come being the last ones of a scan. -/
abbrev portKept (s : State) : Prop :=
  (s.port.scanTimer.isSome = s.port.enable) ∧ s.port.pageAddress &&& 0xFFF#32 = 0 ∧ s.port.scanTap.toNat ≤ 5 ∧
    (s.port.scanLeft ≠ [] → s.port.enable = true) ∧ s.port.scanLeft <:+ scanParts

/-- R175 and R176: only a set cause carries a seen mark. -/
abbrev seenOnlySet (s : State) : Prop := ∀ c ∈ allCauses, s.port.seen.get c = true → s.port.causes.get c = true

/-- R125: a START is pending only in STARTING, a DRAIN only in DRAINING or STOPPING, a STOP only in STOPPING; and one of them is
pending in each of those states. -/
abbrev requestFits (s : State) : Prop :=
  match s.run.state with
  | .idle | .running | .jammed => s.run.request = none
  | .starting => s.run.request.map (·.kind) = some .start
  | .draining => s.run.request.map (·.kind) = some .drain
  | .stopping => s.run.request.map (·.kind) = some .drain ∨ s.run.request.map (·.kind) = some .stop

/-- The sum, modulo 2^24, of some counters of the piece group. -/
def pieceSum (s : State) (l : List PieceCounter) : BitVec 24 :=
  (l.map (fun c => s.tally.pieces.get (pieceCounterIdx c))).foldr (· + ·) 0

/-- The six subgroups of the piece group (R151). -/
def subgroups : List (List PieceCounter) :=
  [ [.outcome .sorted, .outcome .culled, .outcome .stranded, .outcome .purged],
    [.dest (some (.stk .stk1)), .dest (some (.stk .stk2)), .dest (some (.stk .stk3)), .dest (some (.stk .stk4)),
      .dest (some (.stk .stk5)), .dest (some .endCatch), .dest none],
    [.attitude (some .aTop), .attitude (some .aBottom), .attitude (some .bTop), .attitude (some .bBottom),
      .attitude none],
    [.cls (some .tag), .cls (some .meter), .cls none],
    [.lengthBin 0, .lengthBin 1, .lengthBin 2, .lengthBin 3, .lengthBin 4],
    [.cancel .full, .cancel .dieOnly, .cancel .incomplete, .cancel .unprinted] ]

/-- R152: every subgroup of the piece group sums to COMPLETED modulo 2^24. -/
abbrev tallyBalances (s : State) : Prop :=
  ∀ g ∈ subgroups, pieceSum s g = s.tally.pieces.get (pieceCounterIdx .completed)

/-- Line memory is in its canonical form. -/
abbrev memoryKept (s : State) : Prop := s.mem.wf = true

/-! ## Terms the claims use -/

/-- R174: the working plan, where one is valid, passes the checks of LOAD PLAN; and it is valid in every run state but IDLE. -/
abbrev planHeld (s : State) : Prop := s.run.state ≠ .idle → s.planValid = true

/-- Memory is unchanged outside the listed bytes. -/
abbrev keptOutside (s t : State) (bytes : List Nat) : Prop := ∀ a, a ∉ bytes → t.mem.read a = s.mem.read a

/-- The bytes of one word of the run page. -/
def pageBytes (s : State) (off : Nat) : List Nat := wordBytes (s.pageAt off)

/-- The bytes of a request cell's state word. -/
def cellStateBytes (s : State) (cell : Fin 8) : List Nat := pageBytes s (requestOffset cell 0)

/-- The bytes an answer writes into a request cell: state, tag, result code and result value (R173). -/
def answerBytes (s : State) (cell : Fin 8) : List Nat :=
  cellStateBytes s cell ++ pageBytes s (requestOffset cell 2) ++ pageBytes s (requestOffset cell 6)
    ++ pageBytes s (requestOffset cell 7)

/-- The request cell holds a whole answer (R173). -/
abbrev holdsAnswer (t : State) (cell : Fin 8) (tag : Word) (r : ResultCode) (value : Word) : Prop :=
  t.pageWord (requestOffset cell 0) = cellDone ∧ t.pageWord (requestOffset cell 2) = tag ∧
    t.pageWord (requestOffset cell 6) = resultCode r ∧ t.pageWord (requestOffset cell 7) = value

/-- The port after a cause has been raised (R175). -/
def portRaised (p : PageInterface) (c : AttentionCause) : PageInterface :=
  { p with causes := p.causes.set c true, seen := p.seen.set c false }

/-- Of `s` and `t`, memory and port: the request of a cell has been taken and answered, REQUEST_DONE has been raised, and no
other byte and no other port item has changed (R172, R173). -/
abbrev answered (s t : State) (cell : Fin 8) (tag : Word) (r : ResultCode) (value : Word) : Prop :=
  holdsAnswer t cell tag r value ∧ keptOutside s t (answerBytes s cell) ∧
    t.port = portRaised s.port .requestDone

/-- Of `s` and `t`, memory and port: the request of a cell has been taken and is not answered yet (R172). -/
abbrev taken (s t : State) (cell : Fin 8) : Prop :=
  t.pageWord (requestOffset cell 0) = cellTaken ∧ keptOutside s t (cellStateBytes s cell) ∧ t.port = s.port

/-! ## Counters (R151 to R154) -/

/-- A counter of the piece group as it stands. -/
def pieceCount (s : State) (c : PieceCounter) : Nat := (s.tally.pieces.get (pieceCounterIdx c)).toNat

/-- A counter of the event group as it stands. -/
def eventCount (s : State) (c : EventCounter) : Nat := (s.tally.events.get (eventCounterIdx c)).toNat

/-- Of a counter that counts modulo `modulus`, with its carry flag, before and after n have been added: where the true sum passes the
greatest value the counter holds the true sum less `modulus` and its carry flag is set; a carry flag already set stays set (R154). -/
abbrev added (modulus n before after : Nat) (flag flag' : Bool) : Prop :=
  after = (before + n) % modulus ∧ (flag' = true ↔ flag = true ∨ modulus ≤ before + n)

/-- Of `s` and `t`: each counter of the piece and of the event group has been added one for each time it stands in its list, and DOTS
the dots given (R152 to R154). -/
abbrev countsAdded (s t : State) (pieces : List PieceCounter) (events : List EventCounter) (dots : Nat) : Prop :=
  (∀ c, added (2 ^ 24) (pieces.count c) (pieceCount s c) (pieceCount t c)
    (s.tally.pieceCarry.get (pieceCounterIdx c)) (t.tally.pieceCarry.get (pieceCounterIdx c))) ∧
  (∀ c, added (2 ^ 16) (events.count c) (eventCount s c) (eventCount t c)
    (s.tally.eventCarry.get (eventCounterIdx c)) (t.tally.eventCarry.get (eventCounterIdx c))) ∧
  added (2 ^ 32) dots s.tally.dots.toNat t.tally.dots.toNat s.tally.dotsCarry t.tally.dotsCarry ∧
  t.tally.snapshot = s.tally.snapshot

/-- These additions make a counter of a group that the working plan leaves unmasked pass its greatest value (R154). -/
abbrev carryCalled (s : State) (pieces : List PieceCounter) (events : List EventCounter) (dots : Nat) : Prop :=
  (s.plan.maskPiece = false ∧ ∃ c, 2 ^ 24 ≤ pieceCount s c + pieces.count c) ∨
  (s.plan.maskEvent = false ∧ ∃ c, 2 ^ 16 ≤ eventCount s c + events.count c) ∨
  (s.plan.maskDots = false ∧ 2 ^ 32 ≤ s.tally.dots.toNat + dots)

/-- Of `s` and `t`: the additions have been made, and of the port only CARRY has been raised, exactly when a counter of an unmasked
group has passed its greatest value (R154, R175). -/
abbrev tallied (s t : State) (pieces : List PieceCounter) (events : List EventCounter) (dots : Nat) : Prop :=
  countsAdded s t pieces events dots ∧
  (carryCalled s pieces events dots → t.port = portRaised s.port .carry) ∧
  (¬ carryCalled s pieces events dots → t.port = s.port)

/-- Of `s` and `t`: the additions have been made, and cause CARRY raised for them exactly when a counter of an unmasked group has
passed its greatest value, whatever else has been raised (R154, R175). -/
abbrev talliedAmong (s t : State) (pieces : List PieceCounter) (events : List EventCounter) (dots : Nat) : Prop :=
  countsAdded s t pieces events dots ∧
  (carryCalled s pieces events dots → t.port.causes.carry = true ∧ t.port.seen.carry = false) ∧
  (¬ carryCalled s pieces events dots →
    t.port.causes.carry = s.port.causes.carry ∧ t.port.seen.carry = s.port.seen.carry)

/-- The counters of the piece group in which a report of the record counts one: COMPLETED; the outcome; the destination of a SORTED or
CULLED piece and NO_DEST of any other; attitude and class, NONE with no decision; the length bin; and the cancel result (R152). -/
def reportCounters (pl : Plan) (r : Record) (o : PieceOutcome) : List PieceCounter :=
  [.completed, .outcome o, .dest (if o = .sorted ∨ o = .culled then r.destination else none),
    .attitude (r.decision.bind (·.attitude)), .cls (r.decision.bind (·.cls)), .lengthBin (lengthBin pl r.length),
    .cancel r.result]

/-- The counter of the event group in which a report of the record counts one: that of the first of its cull reasons in the cull
precedence, none where it has no reason (R21, R152). -/
def reasonCounters (r : Record) : List EventCounter :=
  let order : List CullReason :=
    [.overlength, .underlength, .shortGap, .noIndicium, .ambiguous, .lateDecision, .pocketBusy, .noRoom]
  (order.filter r.culls.has).head?.toList.map .cull

/-- No record, schedule entry or expectation names the piece. -/
def unknownPiece (s : State) (p : PieceNo) : Prop :=
  s.record? p = none ∧ (∀ e ∈ s.schedule, e.piece ≠ p) ∧ ∀ c, ∀ x ∈ s.queue c, x.who ≠ .piece p

/-- The code and the target a trip leaves (R142, R143). -/
def tripDrive (s : State) : Nat × Nat :=
  match s.plan.protectMode with
  | .cut => (0, 0)
  | .ramp => (s.drive.code, 0)
  | .crawlThenCut => if s.plan.crawlSteps = 0 then (0, 0) else (s.drive.code, min s.plan.crawlCode s.drive.code)

/-- The records a trip leaves: the piece under the head, if any, ends PARTIAL, and every other record is as it was (R105,
R140). -/
def tripRecords (s : State) : List Record :=
  match s.printer.job with
  | none => s.records
  | some j =>
    s.records.map (fun r =>
      if r.number = j.piece then { r with result := .incomplete, flags := { r.flags with incomplete := true } } else r)

/-- Of `s` and `t`: the machine has tripped (R139 to R143, with R29, R68, R73, R88, R105, R134, and R154 for its count in TRIPS). -/
abbrev tripped (s t : State) (cause : TripCause) (cell : Option Cell) (at' : Pos) (piece : Option PieceNo) : Prop :=
  t.protect = { s.protect with
    latch := true, cause := some cause, cell := cell, position := at', piece := piece, furtherTrips := 0, crawlCount := 0,
    crawling := s.plan.protectMode == .crawlThenCut && s.plan.crawlSteps != 0, recordWritten := false,
    rewriteDue := false } ∧
  t.gates = Vector.replicate 7 .closed ∧
  t.printer = { s.printer with job := none, head := 0 } ∧
  t.records = tripRecords s ∧
  t.schedule = s.schedule ∧
  t.run.state = .jammed ∧ t.run.request = none ∧ t.run.feedEnable = false ∧
  t.scan = (if s.scan.window.isSome then ScanContext.free else s.scan) ∧
  t.pocket = { s.pocket with dwellTimer := none, holdTimer := none, motor := .hold } ∧
  (t.drive.code, t.drive.target) = tripDrive s ∧
  (let p := if s.run.request.isSome then portRaised s.port .requestDone else s.port;
    countsAdded s t [] [.trips] 0 ∧
      (carryCalled s [] [.trips] 0 → t.port = portRaised (portRaised p .carry) .jam) ∧
      (¬ carryCalled s [] [.trips] 0 → t.port = portRaised p .jam)) ∧
  (∀ q, s.run.request = some q → holdsAnswer t q.cell q.tag .tripped 0 ∧ keptOutside s t (answerBytes s q.cell)) ∧
  (s.run.request = none → t.mem = s.mem)

/-- The four run lists handed over at the close of a window of length w, the edge-closed runs among them (R27, R39). -/
def windowLists (pl : Plan) (w : Nat) (v : PerScanner ScannerState) : PerScanner (List KeptRun) :=
  runLists (scannerStates (edgeCloseAll pl w v))

/-- The SCAN TAP code after a write of CONTROL: codes 6 and 7 leave it unchanged (R169). -/
def newTap (s : State) (tap : BitVec 3) : BitVec 3 := if tap.toNat ≤ 5 then tap else s.port.scanTap

/-- Of `s` and `t`: a reset with a given PAGE ADDRESS and ATTENTION MASK after it (R169). -/
abbrev resetTo (s t : State) (page : Word) (masked : PerCause Bool) : Prop :=
  (∀ c, t.cell c = ⟨(s.cell c).covered, 0, 0, none⟩ ∧ t.queue c = []) ∧
  (t.run.state = .idle ∧ t.run.request = none ∧ t.run.feedEnable = false ∧
    t.run.hold = ⟨true, false, false, false, s.router.endFull == FullLevel.active⟩) ∧
  t = { State.reset with
    pending := s.pending
    now := s.now
    lastStep := s.now
    samples := s.samples
    cellUnit := t.cellUnit
    router := { State.reset.router with full := s.router.full, endFull := s.router.endFull }
    drive := { State.reset.drive with stillTimer := some (s.now + 1000) }
    run := t.run
    protect := { State.reset.protect with guardIsOpen := s.protect.guardIsOpen }
    port := { State.reset.port with pageAddress := page, masked := masked, readData := s.port.readData }
    mem := s.mem
    openSeq := s.openSeq }

/-! ## The merge window and the grant (R80 to R83) -/

/-- The signed distance of p from q (R80). -/
def signedSteps (p q : Pos) : Int :=
  if (p - q).toNat ≤ 32767 then ((p - q).toNat : Int) else ((p - q).toNat : Int) - 65536

/-- The merge window of a test at q, for an occupant of length `len`, overlaps the occupancy of MERGE by a piece of length n
whose MERGE lead is `lead` (R80). -/
abbrev windowOverlaps (pl : Plan) (q : Pos) (len : Nat) (lead : Pos) (n : Nat) : Prop :=
  signedSteps (posSub (posAdd q pl.dRelease) pl.minGap) q < signedSteps (posAdd lead n) q ∧
    signedSteps lead q < signedSteps (posAdd q (pl.dRelease + len + pl.minGap)) q

/-- The merge window of a test made now, for an occupant of length `len`, overlaps the occupancy of no main-lane piece, the piece
left out not being counted at the MERGE cell; an absent length is taken at 1,023 steps (R81; in a phase other than ENTERING, log
entry 13). -/
abbrev mainLaneClear (s : State) (len : Nat) (leftOut : Option PieceNo) : Prop :=
  ∀ r ∈ s.records,
    (r.phase = .entering ∨ r.phase = .scanning ∨ r.phase = .travelling →
      ¬ windowOverlaps s.plan s.position len (posAdd r.lead s.plan.dMerge) (r.length.getD 1023)) ∧
    ((s.cell .merge).occupant = some (.piece r.number) → leftOut ≠ some r.number →
      ¬ windowOverlaps s.plan s.position len r.lead (r.length.getD 1023)) ∧
    (r.phase = .released → s.pocket.occupant ≠ some r.number → ∀ x, r.next = some x →
      ¬ windowOverlaps s.plan s.position len (posAdd x.early s.plan.cellTol) (r.length.getD 1023))

/-- Of `u` and `t`: the release of piece p has been granted at the present position (R83): the pocket RELEASING and its motor OUT, the
hold timer and the merge hold gone, the piece RELEASED, and its MERGE expectation inserted with its deadline. -/
abbrev granted (u t : State) (p : PieceNo) : Prop :=
  let lead := posAdd u.position u.plan.dRelease
  let lo := posSub lead u.plan.cellTol
  let hi := posAdd lead u.plan.cellTol
  t.pocket = { u.pocket with
    state := .releasing, motor := .outward, holdTimer := none, passes := 0, mergeHold := false } ∧
  (feedFollows u → feedFollows t) ∧
  (∀ q, t.record? q =
    (u.record? q).map (fun r => if q = p then { r with phase := .released, next := some ⟨.merge, lo, hi⟩ } else r)) ∧
  (∀ c x, x ∈ t.queue c ↔ (x ∈ u.queue c ∧ x.who ≠ .piece p) ∨ (c = .merge ∧ x = ⟨.piece p, lo, hi⟩)) ∧
  (∀ e, e ∈ t.schedule ↔ (e ∈ u.schedule ∧ ¬ (e.piece = p ∧ ∃ c, e.kind = .cellDeadline c)) ∨
    e = ⟨.cellDeadline .merge, p, posAdd hi 1⟩) ∧
  t.cellUnit.cells = u.cellUnit.cells ∧
  t = { u with
    pocket := t.pocket, run := { u.run with hold := t.run.hold, feedEnable := t.run.feedEnable }, records := t.records,
    cellUnit := t.cellUnit, schedule := t.schedule }

/-! ## The entries and expectations of a decision and of a MERGE arrival -/

/-- Of `u` and `t`: the schedule of `t` is that of `u` with the entries `new` inserted for piece p, whose older CELL_DEADLINE goes,
and with the closes of other pieces that the new opens precede or meet removed by the same-gate merge (R5, R58, R70). -/
abbrev scheduled (u t : State) (p : PieceNo) (new : List Entry) : Prop :=
  ∀ e, e ∈ t.schedule ↔ e ∈ new ∨
    (e ∈ u.schedule ∧ ¬ (e.piece = p ∧ ∃ c, e.kind = .cellDeadline c) ∧
      ∀ o ∈ new, ∀ g, o.kind = .gateOpen g → e.kind = .gateClose g → e.piece ≠ p →
        precedes o.due e.due = false ∧ o.due ≠ e.due)

/-- Of `u` and `t`: piece p is expected at one cell only, with a given predicted lead (R5, R6). -/
abbrev expected (u t : State) (p : PieceNo) (c : Cell) (lead : Pos) : Prop :=
  let lo := posSub lead u.plan.cellTol
  let hi := posAdd lead u.plan.cellTol
  (∀ d x, x ∈ t.queue d ↔ (x ∈ u.queue d ∧ x.who ≠ .piece p) ∨ (d = c ∧ x = ⟨.piece p, lo, hi⟩)) ∧
    (t.record? p).bind (·.next) = some ⟨c, lo, hi⟩

/-- The GATE_OPEN and the GATE_CLOSE of a gate `dist` steps beyond a reference lead, for a piece of length n (R69). -/
def gateEntries (pl : Plan) (g : Gate) (p : PieceNo) (lead : Pos) (dist n : Nat) : List Entry :=
  [⟨.gateOpen g, p, posSub (posAdd lead dist) pl.gateLead⟩, ⟨.gateClose g, p, posAdd lead (dist + n + pl.gateLag)⟩]

/-- The entries of a decision with a turning, for a piece of length n: the gates of the turning and the deadline of the next
expectation (R53, R54, R69, R5). -/
def decisionEntries (pl : Plan) (p : PieceNo) (lead : Pos) (n : Nat) (t : Turning) : List Entry :=
  let pocket := t = .reverse ∨ t = .both
  (if t = .twist ∨ t = .both then gateEntries pl .twist p lead pl.dTwist n else []) ++
    (if pocket then gateEntries pl .pocket p lead pl.dRev n else []) ++
    [if pocket then ⟨.cellDeadline .pocket, p, posAdd (posAdd (posAdd lead pl.dPocket) pl.cellTol) 1⟩
      else ⟨.cellDeadline .merge, p, posAdd (posAdd (posAdd lead pl.dMerge) pl.cellTol) 1⟩]

/-- Of `u` and `t`: a decision with a turning has been acted on for piece p, of length n and ENTRY lead `lead`, its entries all lying
ahead: the gates are scheduled, the piece is expected at POCKET or at MERGE, and the pocket is reserved for a reversal (R51, R53,
R54). -/
abbrev phaseOneDone (u t : State) (p : PieceNo) (lead : Pos) (n : Nat) (turn : Turning) : Prop :=
  u.protect.latch = false → (∀ e ∈ decisionEntries u.plan p lead n turn, isAhead e.due u.position = true) →
    scheduled u t p (decisionEntries u.plan p lead n turn) ∧
    (turn = .reverse ∨ turn = .both → expected u t p .pocket (posAdd lead u.plan.dPocket) ∧
      t.pocket = { u.pocket with state := .reserved, occupant := some p, motor := .inward }) ∧
    (turn = .straight ∨ turn = .twist → expected u t p .merge (posAdd lead u.plan.dMerge) ∧ t.pocket = u.pocket) ∧
    t = { u with
      cellUnit := t.cellUnit, records := t.records, schedule := t.schedule, scan := t.scan, pocket := t.pocket,
      tally := t.tally, port := t.port }

/-- The entries of a MERGE arrival captured at q, for a piece of length n: its OVERSTAY, the deadline of its CANCEL expectation, the
PRINT_START of a cancel plan with its start offset, and the gate of a stacker it is bound for (R4, R5, R69, R98, R114). -/
def arrivalEntries (pl : Plan) (p : PieceNo) (q : Pos) (n : Nat) (start : Option Nat) (d : Dest) : List Entry :=
  [⟨.overstay .merge, p, posAdd q (n + pl.cellTol)⟩,
    ⟨.cellDeadline .cancel, p, posAdd (posAdd (posAdd q (pl.dCancel - pl.dMerge)) pl.cellTol) 1⟩] ++
    (match start with
      | some k => [⟨.printStart, p, posAdd q (pl.dCancel - pl.dMerge + k)⟩]
      | none => []) ++
    (match d with
      | .stk k => gateEntries pl (.stk k) p q (pl.stackerDistance k - pl.dMerge) n
      | .endCatch => [])

/-! ## Covers -/

/-- The position a cover has captured: the present one, or one step behind it (R3, R58). -/
def coverPos (s : State) : Capture → Pos
  | .present => s.position
  | .stepBefore => s.position - 1

/-- The OVERSTAY due of a piece of a given length, or of none, for a cover captured at `pos` (R4). -/
def stayDue (pl : Plan) (pos : Pos) (length : Option Nat) : Pos :=
  match length with
  | some n => posAdd pos (n + pl.cellTol)
  | none => posAdd pos 1023

/-- Of `s` and `u`: a cover of `c` captured at `pos` has matched piece p, with record r. The stale heads of the queue and the piece's
expectation, deadline and next-cell fields are gone, it is the cell's occupant, its phase and last cell follow, and at MERGE its lead
is the merge lead; no OVERSTAY entry has been made yet, and the cover has been handed to no block (R4, R7, R8, R19, R22). -/
abbrev coverMatched (s u : State) (c : Cell) (pos : Pos) (p : PieceNo) (r : Record) : Prop :=
  u.record? p = some { r with
    phase := match c with
      | .scan => .scanning
      | .pocket => .pocketed
      | .merge => .downstream
      | _ => r.phase
    lead := if c = .merge then pos else r.lead
    lastCell := c
    next := none } ∧
  (∀ q, q ≠ p → u.record? q = s.record? q) ∧
  u.cell c = { s.cell c with covered := true, coverAt := pos, occupant := some (.piece p) } ∧
  (∀ d, d ≠ c → u.cell d = s.cell d) ∧
  (∀ d, u.queue d = (if d = c then dropStale pos (s.queue c) else s.queue d).filter (fun x => x.who != .piece p)) ∧
  (∀ e, e ∈ u.schedule ↔ e ∈ s.schedule ∧ ¬ (e.piece = p ∧ ∃ d, e.kind = .cellDeadline d)) ∧
  u = { s with cellUnit := u.cellUnit, records := u.records, schedule := u.schedule }

/-! ## Forward steps -/

/-- No schedule entry is taken before the step reaches the other blocks: the step comes first, or no entry is due at its position
(R59, R104). -/
abbrev stepsAlone (s : State) (order : StepOrder) : Prop :=
  order = .stepFirst ∨ s.protect.latch = true ∨ ∀ e ∈ s.schedule.head?, e.due ≠ s.position + 1

/-- Of `u` and `t`: the counts of a step have gone on. The travel count, to 65,535 at most; the intake count while ENTERING with the
latch clear; still detection, which starts again; and the crawl count while the crawl runs (R13, R75, R88, R124, R143). -/
abbrev countsGoOn (u t : State) : Prop :=
  t.admission = { u.admission with travel := min 65535 (u.admission.travel + 1) } ∧
  t.pocket = { u.pocket with
    intake := u.pocket.intake + (u.pocket.state == .entering && !u.protect.latch).toNat } ∧
  t.drive = { u.drive with
    still := false, stillTimer := some (u.now + if u.planValid then u.plan.stillTime else 1000) } ∧
  t.protect = { u.protect with crawlCount := u.protect.crawlCount + u.protect.crawling.toNat }

/-- Of `s` and `t`: a forward step has been counted: the position, the time of the last step, and the counts (R1, R13, R75, R88, R124,
R143). -/
abbrev stepCounted (s t : State) : Prop :=
  t.position = s.position + 1 ∧ t.lastStep = s.now ∧ countsGoOn s t

/-- A trailing-end scanner drops from its list the runs that a set at this offset shows to have failed the corner test (R26, R35). -/
def keptAt (pl : Plan) (sc : Scanner) (offset : Nat) (l : List KeptRun) : List KeptRun :=
  if sc = .bTop ∨ sc = .aBottom then l.filter (fun k => decide (offset + 1 < k.stop + pl.endWin)) else l

/-- The run, if any, that a low sample at the set of this offset closes and that then qualifies (R30, R32 to R36). -/
def closingRun (s : State) (x : SampleSet) (offset : Nat) (sc : Scanner) : Option KeptRun :=
  if (forScanner x sc).prompt.toNat < s.plan.offLevel then
    (forScanner s.scan.scanners sc).run.bind (fun r => qualify s.plan sc r offset)
  else none

/-- How many scanners drop a run at the set of this offset, a qualifying run finding four kept (R38). -/
def dropsAt (s : State) (x : SampleSet) (offset : Nat) : Nat :=
  scannerOrder.countP (fun sc => (closingRun s x offset sc).isSome &&
    decide (4 ≤ (keptAt s.plan sc offset (forScanner s.scan.scanners sc).kept).length))

/-- How many scanners drop a run at the close of a window of length w, a run still open that qualifies finding four kept (R27, R38). -/
def closeDrops (pl : Plan) (w : Nat) (v : PerScanner ScannerState) : Nat :=
  scannerOrder.countP (fun sc => ((forScanner v sc).run.bind (fun r => qualify pl sc r w)).isSome &&
    decide (4 ≤ (forScanner v sc).kept.length))

/-- How many runs are dropped by the sample set of a step: none with no window open (R26, R38). -/
def stepDrops (s : State) (x : SampleSet) : Nat :=
  match s.scan.window with
  | some w => dropsAt s x w.count
  | none => 0

/-- The dots that a step to `pos` fires: those of the next column at its own position, and none elsewhere (R101, R102). -/
def stepDots (s : State) (pos : Pos) : Nat :=
  match s.printer.job with
  | some j => if pos = posAdd j.base j.next then dotsOf (s.columnWord j j.next) else 0
  | none => 0

/-- Of a scanner before and after the sample at an offset: runs that have failed the corner test are gone, and the comparator, the open
run and the run list follow the sample (R26, R30, R31, R35, R37, R38). -/
abbrev sampleFollowed (pl : Plan) (sc : Scanner) (offset : Nat) (x : Sample) (before after : ScannerState) : Prop :=
  let p := x.prompt.toNat
  let g := x.afterglow.toNat
  let kept := keptAt pl sc offset before.kept
  (before.run = none → p < pl.onLevel → after = ⟨none, kept⟩) ∧
    (before.run = none → pl.onLevel ≤ p → after = ⟨some ⟨offset, p, g, p - pl.offLevel⟩, kept⟩) ∧
    (∀ r, before.run = some r → pl.offLevel ≤ p →
      after = ⟨some ⟨r.start, r.sumP + p, r.sumG + g, r.excess + (p - pl.offLevel)⟩, kept⟩) ∧
    ∀ r, before.run = some r → p < pl.offLevel →
      after.run = none ∧ (qualify pl sc r offset = none → after.kept = kept) ∧
        ∀ k, qualify pl sc r offset = some k → after.kept = (keepRun kept k).1

/-- The state of a forward step at its new position, before the schedule or any other block has seen it (R1, R23, R101). -/
def stepMoved (s : State) (x : SampleSet) : State :=
  { s with position := s.position + 1, lastStep := s.now, samples := x, printer := { s.printer with head := 0 } }

/-- The entries due at the present position of the first state have been taken from the head, one after another, each by its own row,
until none is due any more or one of them has tripped the machine, which leaves the second state (R59, R60). -/
inductive EntriesTaken : State → State → Prop
  | over (s : State) (h : s.dueEntry = none) : EntriesTaken s s
  | next (s m u : State) (e : Entry) (h : s.dueEntry = some e) (row : exec e.kind.command s = .next m)
      (rest : EntriesTaken m u) : EntriesTaken s u

/-- Of `u`, at the new position of a step, and `t`: every block but the schedule has seen the step. An open window has taken the sample
set, with its drops flagged and counted; the counts have gone on; and the next column has been fired where the position is its own
(R13, R26, R38, R75, R99, R101 to R103, R124, R143, R154). -/
abbrev stepSeen (x : SampleSet) (u t : State) : Prop :=
  let fires := fun j : Impression => u.position = posAdd j.base j.next
  countsGoOn u t ∧
  t.scan.window = u.scan.window.map (fun w => { w with count := w.count + 1 }) ∧
  (u.scan.window = none → t.scan = u.scan) ∧
  (∀ w, u.scan.window = some w → ∀ sc, sampleFollowed u.plan sc w.count (forScanner x sc)
    (forScanner u.scan.scanners sc) (forScanner t.scan.scanners sc)) ∧
  ((∀ j, u.printer.job = some j → ¬ fires j) → t.printer = u.printer) ∧
  (∀ j, u.printer.job = some j → fires j → t.printer = { u.printer with
    head := u.columnWord j j.next
    job := if j.next + 1 < j.killer + j.die then some { j with next := j.next + 1 } else none }) ∧
  t.records.map (·.number) = u.records.map (·.number) ∧
  (∀ q r, u.record? q = some r → ∃ r', t.record? q = some r' ∧
    r' = { r with
      dots := r'.dots, result := r'.result
      flags := { r.flags with runsDropped := r'.flags.runsDropped, incomplete := r'.flags.incomplete } } ∧
    r'.flags.runsDropped =
      (r.flags.runsDropped || decide (u.scan.window.map (·.piece) = some q ∧ 0 < stepDrops u x)) ∧
    ((∀ j, u.printer.job = some j → j.piece = q → ¬ fires j) →
      r'.dots = r.dots ∧ r'.result = r.result ∧ r'.flags.incomplete = r.flags.incomplete) ∧
    ∀ j, u.printer.job = some j → j.piece = q → fires j →
      r'.dots = r.dots + dotsOf (u.columnWord j j.next) ∧
        (j.next + 1 < j.killer + j.die → r'.result = r.result ∧ r'.flags.incomplete = r.flags.incomplete) ∧
        (j.killer + j.die ≤ j.next + 1 →
          r'.result = endResult j.skipped r ∧ r'.flags.incomplete = (r.flags.incomplete || j.skipped))) ∧
  tallied u t [] (List.replicate (stepDrops u x) .runsDropped) (stepDots u u.position) ∧
  t = { u with
    scan := t.scan, admission := t.admission, pocket := t.pocket, printer := t.printer, drive := t.drive,
    protect := t.protect, records := t.records, tally := t.tally, port := t.port }

/-! ## The entry to IDLE -/

/-- Of `s` and `t`: from the moment of `s` the run has entered IDLE, with a pending request `q` (R132): every tracked piece reported
STRANDED in order of admission and counted in the counters of R152, an impression in progress ended PARTIAL, no untracked expectation
left, the drive cut and the request answered with the number of pieces stranded. The reports and the answer are as said where no tray
takes what is held: with ENABLE 0, or with none open and none READY, or with nothing to file. -/
abbrev idleEntered (s t : State) (q : Option RunRequest) : Prop :=
  t.run.state = .idle ∧ t.run.request = none ∧ t.run.feedEnable = false ∧ t.records = [] ∧
  t.drive = { s.drive with code := 0, target := 0, rampTimer := none, report := none } ∧
  (∀ c, ∀ x ∈ t.queue c, x.who ≠ .untracked) ∧
  (pocketHeld s → (∀ p, s.pocket.occupant = some p → s.record? p ≠ none) →
    t.pocket.state = .empty ∧ t.pocket.occupant = none) ∧
  t.position = s.position ∧ t.admission = s.admission ∧ t.router = s.router ∧ t.protect = s.protect ∧
  (∀ e, e ∈ t.schedule ↔ e ∈ s.schedule ∧ s.record? e.piece = none) ∧
  (∀ c, (t.cell c).covered = (s.cell c).covered ∧ (t.cell c).coverAt = (s.cell c).coverAt ∧
    (t.cell c).uncoverAt = (s.cell c).uncoverAt) ∧
  t.plan = s.plan ∧ t.now = s.now ∧ t.pending = s.pending ∧
  ((s.records.map (·.number)).Nodup →
    t.tally.pieces.get (pieceCounterIdx .completed) =
        s.tally.pieces.get (pieceCounterIdx .completed) + BitVec.ofNat 24 s.records.length ∧
      t.tally.pieces.get (pieceCounterIdx (.outcome .stranded)) =
        s.tally.pieces.get (pieceCounterIdx (.outcome .stranded)) + BitVec.ofNat 24 s.records.length ∧
      talliedAmong s t ((tripRecords s).flatMap (fun r => reportCounters s.plan r .stranded))
        ((tripRecords s).flatMap reasonCounters) 0) ∧
  ((s.records.map (·.number)).Nodup →
    s.port.enable = false ∨ (s.reports.tray = none ∧
      ((∀ i : Fin 16, s.pageWord (rackOffset i 0) ≠ rackReady) ∨ (s.records = [] ∧ s.reports.held = []))) →
    t.reports.held = s.reports.held ++ (tripRecords s).map (fun r => ⟨r, .stranded⟩) ∧
      ∀ x, q = some x → holdsAnswer t x.cell x.tag .ok (BitVec.ofNat 32 s.records.length) ∧
        keptOutside s t (answerBytes s x.cell))

/-! ## A target reached -/

/-- Of `s` and `t`: run control has taken the report that the value v was reached. RUN_CODE in STARTING makes the run RUNNING and
completes the pending START with RUN_CODE; 0 in STOPPING with the code at 0 and the belt still takes the run into IDLE; otherwise
nothing is changed (R127, R131). -/
abbrev reportTaken (s t : State) (v : Nat) : Prop :=
  (¬ (s.run.state = .starting ∧ v = s.plan.runCode) →
    ¬ (s.run.state = .stopping ∧ v = 0 ∧ s.drive.code = 0 ∧ s.drive.still = true) → t = s) ∧
  (s.run.state = .stopping → v = 0 → s.drive.code = 0 → s.drive.still = true → idleEntered s t s.run.request) ∧
  (s.run.state = .starting → v = s.plan.runCode → ∀ q, s.run.request = some q →
    t.run.state = .running ∧ t.run.request = none ∧ t.run.hold.notRunning = false ∧
      t.run.feedEnable = !t.run.hold.anyStands ∧ holdsAnswer t q.cell q.tag .ok (countWord v) ∧
      keptOutside s t (answerBytes s q.cell) ∧ t.port = portRaised s.port .requestDone ∧
      t = { s with run := t.run, mem := t.mem, port := t.port })

/-! ## The plan area -/

/-- The condition of check n, 1 to 38, on a plan area whose word at byte offset o is `f o`: the range in its row for checks 1 to 34, and
the four clearances (R174, section 11.7). -/
def planRow (f : Nat → Nat) (n : Nat) : Prop :=
  let within := fun lo hi o : Nat => lo ≤ f o ∧ f o ≤ hi
  let stations := [0x00, 0x04, 0x08, 0x14, 0x18, 0x1C, 0x20, 0x24, 0x28, 0x2C, 0x30]
  match n with
  | 1 => ∀ o ∈ stations, within 1 16000 o
  | 2 => (stations.map f).Pairwise (· < ·)
  | 3 => f 0x08 < f 0x0C ∧ f 0x0C ≤ 16000
  | 4 => within 40 2000 0x10
  | 5 => within 100 400 0x34
  | 6 => within (f 0x34 + 1) 800 0x38
  | 7 => within 20 400 0x3C
  | 8 => within 0 200 0x40 ∧ within 0 200 0x44
  | 9 => within 2 200 0x48
  | 10 => within 1 255 0x4C
  | 11 => within 1 (f 0x4C) 0x50
  | 12 => within 16 1023 0x54
  | 13 => within 1 255 0x58
  | 14 => f 0x5C ≤ f 0x60 ∧ f 0x60 < f 0x58
  | 15 => within 1 1023 0x64 ∧ within 1 1023 0x68 ∧ f 0x64 ≤ f 0x68
  | 16 => within 1 1023 0x6C ∧ within 1 1023 0x70 ∧ f 0x6C ≤ f 0x70
  | 17 => within 1 16 0x74
  | 18 => within 0 2 0x78 ∧ within 0 2 0x7C
  | 19 => within 0 3 0x80 ∧ within 0 3 0x84
  | 20 => within 0 64 0x88
  | 21 => within 0 200 0x8C
  | 22 => ∀ o ∈ [0x90, 0x94, 0x98, 0x9C, 0xA0, 0xA4], within 1 6 o
  | 23 => within 20 500 0xA8
  | 24 => within 100 5000 0xAC
  | 25 => within 1 4 0xB0
  | 26 => within 64 1023 0xB4
  | 27 => within 1 (f 0xB4) 0xB8
  | 28 => within 1 64 0xBC
  | 29 => within 1 16 0xC0
  | 30 => within 50 1000 0xC4
  | 31 => within 0 2 0xC8
  | 32 => within 0 4000 0xCC
  | 33 => (∀ o ∈ [0xD0, 0xD4, 0xD8, 0xDC], within 1 1023 o) ∧ f 0xD0 < f 0xD4 ∧ f 0xD4 < f 0xD8 ∧ f 0xD8 < f 0xDC
  | 34 => within 10 10000 0xE4
  | 35 => f 0x3C < f 0x00
  | 36 => f 0x40 + f 0x44 ≤ f 0x3C
  | 37 => 2 * f 0x48 < f 0x3C
  | 38 => f 0x34 + f 0x40 + f 0x00 ≤ f 0x04
  | _ => True

/-- A plan holds each field of a plan area at its place, whose word at byte offset o is `f o` (section 11.7); codes as in the code tables,
and the routing row as the primary and the alternate of TAG, then of METER, then of CULL (log entry 28). -/
abbrev holdsPlan (f : Nat → Nat) (pl : Plan) : Prop :=
  let policy := fun (p : Policy) (o : Nat) => (policyCode p).toNat = f o
  let route := fun (r : Route) (o : Nat) => (optDestCode (some r.primary)).toNat = f o ∧
    (optDestCode (some r.alternate)).toNat = f (o + 4)
  (pl.dScan = f 0x00 ∧ pl.dTwist = f 0x04 ∧ pl.dRev = f 0x08 ∧ pl.dPocket = f 0x0C ∧ pl.dRelease = f 0x10 ∧
    pl.dMerge = f 0x14 ∧ pl.dCancel = f 0x18 ∧ pl.dStk1 = f 0x1C ∧ pl.dStk2 = f 0x20 ∧ pl.dStk3 = f 0x24 ∧
    pl.dStk4 = f 0x28 ∧ pl.dStk5 = f 0x2C ∧ pl.dEnd = f 0x30) ∧
  (pl.minLen = f 0x34 ∧ pl.maxLen = f 0x38 ∧ pl.minGap = f 0x3C ∧ pl.gateLead = f 0x40 ∧ pl.gateLag = f 0x44 ∧
    pl.cellTol = f 0x48 ∧ pl.onLevel = f 0x4C ∧ pl.offLevel = f 0x50 ∧ pl.endWin = f 0x54) ∧
  (pl.tagRMin = f 0x58 ∧ pl.mtrRMin = f 0x5C ∧ pl.mtrRMax = f 0x60 ∧ pl.tagLenMin = f 0x64 ∧ pl.tagLenMax = f 0x68 ∧
    pl.mtrLenMin = f 0x6C ∧ pl.mtrLenMax = f 0x70 ∧ pl.ambig = f 0x74) ∧
  (policy pl.policyTag 0x78 ∧ policy pl.policyMeter 0x7C ∧ pl.bankTag.val = f 0x80 ∧ pl.bankMeter.val = f 0x84 ∧
    pl.killLead = f 0x88 ∧ pl.tailMargin = f 0x8C) ∧
  (route pl.routeTag 0x90 ∧ route pl.routeMeter 0x98 ∧ route pl.routeCull 0xA0) ∧
  (pl.revDwell = f 0xA8 ∧ pl.revMaxHold = f 0xAC ∧ pl.mergeRatio = f 0xB0 ∧ pl.runCode = f 0xB4 ∧ pl.crawlCode = f 0xB8 ∧
    pl.codeStep = f 0xBC ∧ pl.rampTick = f 0xC0 ∧ pl.stillTime = f 0xC4) ∧
  (pl.protectMode = (if f 0xC8 = 2 then .crawlThenCut else if f 0xC8 = 1 then .ramp else .cut) ∧ pl.crawlSteps = f 0xCC) ∧
  (pl.b1 = f 0xD0 ∧ pl.b2 = f 0xD4 ∧ pl.b3 = f 0xD8 ∧ pl.b4 = f 0xDC) ∧
  (pl.maskPiece = (f 0xE0).testBit 0 ∧ pl.maskEvent = (f 0xE0).testBit 1 ∧ pl.maskDots = (f 0xE0).testBit 2) ∧
  pl.trayAge = f 0xE4

/-- Every check of a plan area passes (R174). -/
abbrev planPasses (f : Nat → Nat) : Prop := ∀ n, 1 ≤ n → n ≤ 38 → planRow f n

/-- Check n of a plan area is the first that fails (R174). -/
abbrev planFailsAt (f : Nat → Nat) (n : Nat) : Prop :=
  1 ≤ n ∧ n ≤ 38 ∧ ¬ planRow f n ∧ ∀ m, 1 ≤ m → m < n → planRow f m

/-! ## The run page -/

/-- The status block of `t` shows the values of `s` (R171, R179). -/
abbrev holdsStatus (t s : State) : Prop :=
  t.pageWord 0x200 = runStateCode s.run.state ∧
  ((t.pageWord 0x204).getLsbD 0 = s.run.hold.notRunning ∧ (t.pageWord 0x204).getLsbD 1 = s.run.hold.tableMargin ∧
    (t.pageWord 0x204).getLsbD 2 = s.run.hold.reportSpace ∧ (t.pageWord 0x204).getLsbD 3 = s.run.hold.mergeGap ∧
    (t.pageWord 0x204).getLsbD 4 = s.run.hold.endFull ∧ (t.pageWord 0x204).toNat < 32) ∧
  t.pageWord 0x208 = s.position.setWidth 32 ∧
  t.pageWord 0x20C = BitVec.ofNat 32 s.drive.code ∧
  t.pageWord 0x210 = BitVec.ofNat 32 s.records.length ∧
  t.pageWord 0x214 = BitVec.ofNat 32 s.reports.held.length ∧
  t.pageWord 0x218 = (s.reports.tray.map (fun r => BitVec.ofNat 32 r.index.val)).getD 0xFFFFFFFF ∧
  t.pageWord 0x21C = s.admission.nextPiece ∧
  t.pageWord 0x220 = BitVec.ofNat 32 s.printer.active.val ∧
  t.pageWord 0x224 = (s.printer.waiting.map (fun i => BitVec.ofNat 32 i.val)).getD 0xFFFFFFFF ∧
  t.pageWord 0x228 = pocketStateCode s.pocket.state ∧
  t.pageWord 0x22C = if s.protect.latch then 1 else 0

/-- The bytes of a jam record with n piece entries (R178, R179). -/
def jamBytes (s : State) (n : Nat) : List Nat :=
  wordsBytes (s.pageAt 0x400) (List.replicate 12 0) ++ wordsBytes (s.pageAt 0x430) (List.replicate (4 * n) 0)

/-- The jam record of `t` is COMPLETE with the items of `s`, the last cell reached of each piece that of its record (R140, R144, R178,
R179). -/
abbrev holdsJamRecord (t s : State) : Prop :=
  t.pageWord 0x400 = recordComplete ∧
  t.pageWord 0x404 = tripCauseCode s.protect.cause ∧ t.pageWord 0x408 = optCellCode s.protect.cell ∧
  t.pageWord 0x40C = s.protect.position.setWidth 32 ∧
  (∀ p, s.protect.piece = some p → t.pageWord 0x410 = p) ∧
  t.pageWord 0x414 = (if s.protect.piece.isSome then 1 else 0) ∧
  t.pageWord 0x418 = BitVec.ofNat 32 s.protect.furtherTrips ∧ t.pageWord 0x41C = s.position.setWidth 32 ∧
  t.pageWord 0x420 = BitVec.ofNat 32 s.records.length ∧
  ∀ i r, s.records[i]? = some r →
    t.pageWord (0x430 + 16 * i) = r.number ∧
    (t.pageWord (0x434 + 16 * i)).extractLsb' 0 4 = (phaseCode r.phase).setWidth 4 ∧
    (t.pageWord (0x434 + 16 * i)).extractLsb' 4 4 =
      (cellCode r.lastCell).setWidth 4 ∧
    (t.pageWord (0x434 + 16 * i)).extractLsb' 8 3 = (optDestCode r.destination).setWidth 3 ∧
    t.pageWord (0x438 + 16 * i) = r.lead.setWidth 32

/-- Of `a` and `b`: step 2 of a page scan. The jam record is written when the latch is set, the belt still, ENABLE 1 and record
written no; a rewrite that is due writes the further-trip count and the belt position; otherwise nothing is done (R145, R147). -/
abbrev jamTended (a b : State) : Prop :=
  let due := a.protect.latch = true ∧ a.drive.still = true ∧ a.port.enable = true ∧ a.protect.recordWritten = false
  let rewrite := a.protect.rewriteDue = true ∧ a.port.enable = true
  (¬ due → ¬ rewrite → b = a) ∧
  (¬ due → rewrite →
    b.pageWord 0x418 = BitVec.ofNat 32 a.protect.furtherTrips ∧ b.pageWord 0x41C = a.position.setWidth 32 ∧
      keptOutside a b (pageBytes a 0x418 ++ pageBytes a 0x41C) ∧
      b = { a with mem := b.mem, protect := { a.protect with rewriteDue := false } }) ∧
  (due → a.records.length ≤ 32 →
    holdsJamRecord b a ∧ keptOutside a b (jamBytes a a.records.length) ∧
      b = { a with mem := b.mem, protect := { a.protect with recordWritten := true, rewriteDue := false } })

/-! ## The rack and the trays -/

/-- Of `s` and `t`: the open tray has been closed, its header, then FULL in its rack entry, written, TRAY_CLOSED raised and the
serial advanced (R165, R179). -/
abbrev closedTray (s t : State) (tr : OpenTray) (cause : CloseCause) : Prop :=
  t.mem = (s.mem.writeWords tr.addr
    [s.reports.serial, BitVec.ofNat 32 tr.count, closeCauseCode cause, tr.firstPiece.getD 0, tr.lastPiece.getD 0,
      0, 0, 0]).writeWord (s.pageAt (rackOffset tr.index 0)) rackFull ∧
  t.port = portRaised s.port .trayClosed ∧
  t.reports = { s.reports with
    serial := if s.reports.serial = BitVec.allOnes 32 then 1 else s.reports.serial + 1
    tray := none, ageTimer := none, closeDue := false } ∧
  t = { s with mem := t.mem, port := t.port, reports := t.reports }

/-- How many entries a search from the cursor examines before entry i (R162). -/
def searchRank (cursor : Option (Fin 16)) (i : Fin 16) : Nat :=
  (i.val + 16 - (match cursor with
    | none => 0
    | some c => c.val + 1)) % 16

/-- Rack entry i is the first that a search finds READY (R161, R162). -/
abbrev firstReady (s : State) (i : Fin 16) : Prop :=
  s.pageWord (rackOffset i 0) = rackReady ∧
    ∀ j : Fin 16, searchRank s.reports.cursor j < searchRank s.reports.cursor i → s.pageWord (rackOffset j 0) ≠ rackReady

/-- Of `s` and `m`: the rack has been searched. The first READY entry after the cursor becomes FILLING, the open tray and the
cursor, and starvation ends; with none READY a starvation episode stands, and its start raises TRAY_STARVED (R161 to R163). -/
abbrev rackSearched (s m : State) : Prop :=
  (∀ i, firstReady s i →
    m = { s with
      mem := s.mem.writeWord (s.pageAt (rackOffset i 0)) rackFilling
      reports := { s.reports with
        tray := some ⟨i, s.pageWord (rackOffset i 1) &&& 0xFFFFFFFC, 0, none, none⟩, cursor := some i, starved := false } }) ∧
  ((∀ i : Fin 16, s.pageWord (rackOffset i 0) ≠ rackReady) → s.reports.starved = true → m = s) ∧
  ((∀ i : Fin 16, s.pageWord (rackOffset i 0) ≠ rackReady) → s.reports.starved = false →
    m = { s with port := portRaised s.port .trayStarved, reports := { s.reports with starved := true } })

/-- Of `b` and `c`: step 3 of a page scan. A due age close is carried out; then, with reports held and no tray open, the rack is
searched and the reports move as MOVE_REPORTS moves them (R160, R162, R167). -/
abbrev traysTended (b c : State) : Prop :=
  ∃ a : State,
    (b.reports.closeDue = false ∨ b.reports.tray = none → a = b) ∧
    (b.reports.closeDue = true → ∀ tr, b.reports.tray = some tr → closedTray b a tr .age) ∧
    (a.port.enable = true → a.reports.held ≠ [] → a.reports.tray = none →
      ∃ m, rackSearched a m ∧ exec .moveReports m = .next c) ∧
    (a.port.enable = false ∨ a.reports.held = [] ∨ a.reports.tray ≠ none → c = a)

/-- The words at an address are those of a piece report: each item of the report that is present, at its place (R157, R178,
R179). -/
abbrev holdsReport (m : Memory) (a : Word) (x : Report) : Prop :=
  let word := fun k : Nat => m.readWord (a + BitVec.ofNat 32 (4 * k))
  let r := x.piece
  word 0 = r.number ∧
  ((word 1).extractLsb' 0 16 = r.admittedAt ∧ (∀ n, r.length = some n → (word 1).extractLsb' 16 10 = BitVec.ofNat 10 n) ∧
    (word 1).getLsbD 30 = r.length.isSome ∧ (word 1).getLsbD 31 = r.gap.isSome) ∧
  (∀ g, r.gap = some g → word 2 = BitVec.ofNat 32 g) ∧
  ((word 3).extractLsb' 0 4 = (phaseCode r.phase).setWidth 4 ∧ (word 3).extractLsb' 4 4 = (cellCode r.lastCell).setWidth 4 ∧
    (word 3).extractLsb' 8 2 = (outcomeCode x.outcome).setWidth 2 ∧
    (word 3).extractLsb' 12 3 = (attitudeCode (r.decision.bind (·.attitude))).setWidth 3 ∧
    (word 3).extractLsb' 16 2 = (classCode (r.decision.bind (·.cls))).setWidth 2 ∧
    (word 3).extractLsb' 20 2 = (turningCode ((r.decision.map (·.turning)).getD .straight)).setWidth 2 ∧
    (word 3).extractLsb' 24 3 = (optDestCode r.destination).setWidth 3 ∧
    (word 3).extractLsb' 28 2 = (cancelResultCode r.result).setWidth 2) ∧
  ((word 4).extractLsb' 0 16 = BitVec.ofNat 16 ((r.decision.map (·.best)).getD 0) ∧
    (word 4).extractLsb' 16 16 = BitVec.ofNat 16 ((r.decision.map (·.second)).getD 0)) ∧
  (∀ sp, r.decision.bind (·.span) = some sp →
    (word 5).extractLsb' 0 16 = BitVec.ofNat 16 sp.start ∧ (word 5).extractLsb' 16 16 = BitVec.ofNat 16 sp.stop) ∧
  ((word 6).extractLsb' 0 5 = BitVec.ofNat 5 ((r.decision.map (·.qualifying)).getD 0) ∧
    (word 6).extractLsb' 8 4 = (cullReasonCode r.culls.primary).setWidth 4 ∧
    (∀ k : Fin 8, ∀ c, cullPrecedence[k.val]? = some c → (word 6).getLsbD (16 + k.val) = r.culls.has c) ∧
    (word 6).getLsbD 31 = (r.decision.bind (·.span)).isSome) ∧
  ((word 7).getLsbD 0 = r.flags.coupled ∧ (word 7).getLsbD 1 = r.flags.truncated ∧
    (word 7).getLsbD 2 = r.flags.incomplete ∧ (word 7).getLsbD 3 = r.flags.diverted ∧
    (word 7).getLsbD 4 = r.flags.runsDropped ∧ (word 7).getLsbD 5 = r.flags.forcedClose ∧
    (word 7).getLsbD 6 = r.flags.missing) ∧
  (word 8).getLsbD 31 = r.plan.isSome ∧
  (∀ pl, r.plan = some pl →
    (word 8).extractLsb' 0 2 = (policyCode pl.policy).setWidth 2 ∧ (word 8).extractLsb' 8 10 = BitVec.ofNat 10 pl.start ∧
    (∀ b, pl.bank = some b → (word 8).extractLsb' 20 2 = BitVec.ofNat 2 b.val) ∧ (word 8).getLsbD 22 = pl.bank.isSome ∧
    (word 9).extractLsb' 0 8 = BitVec.ofNat 8 pl.killer ∧ (word 9).extractLsb' 8 8 = BitVec.ofNat 8 pl.die) ∧
  (word 9).getLsbD 16 = decide (r.slot = 1) ∧
  word 10 = BitVec.ofNat 32 r.dots

/-- The address of place p, 1 to 32, of a tray (R178). -/
def placeAt (tr : OpenTray) (p : Nat) : Word := tr.addr + BitVec.ofNat 32 (32 + 64 * (p - 1))

/-- Of `s` and `t`: the report at the head of the holding queue has been moved into the place that follows the last, the age timer
started by a tray's first report, and the feed recomputed (R135, R160, R164). -/
abbrev movedReport (s t : State) (tr : OpenTray) (x : Report) (rest : List Report) : Prop :=
  t.mem = s.mem.writeWords (placeAt tr (tr.count + 1)) (reportWords x) ∧
  t.reports = { s.reports with
    held := rest
    tray := some { tr with
      count := tr.count + 1, firstPiece := some (tr.firstPiece.getD x.piece.number), lastPiece := some x.piece.number }
    ageTimer := if tr.count = 0 then some (s.now + s.plan.trayAge) else s.reports.ageTimer } ∧
  t.run = { s.run with hold := t.run.hold, feedEnable := !t.run.hold.anyStands } ∧
  t.run.hold =
    { notRunning := s.run.state != .running, tableMargin := decide (30 ≤ s.records.length),
      reportSpace := decide (46 ≤ rest.length + s.records.length), mergeGap := s.run.hold.mergeGap,
      endFull := s.run.hold.endFull } ∧
  t = { s with mem := t.mem, reports := t.reports, run := t.run }

/-! ## Requests taken in a scan -/

/-- The command that the request in a cell is, as the scan reads it (R172). -/
def cellCommand (s : State) (i : Fin 8) : Instr := (s.readRequest i).command

/-- A cell that a page scan takes: POSTED, with ENABLE 1, and not the pending cell (R170, R172). -/
abbrev takesCell (s : State) (i : Fin 8) : Prop :=
  s.port.enable = true ∧ s.run.request.map (·.cell) ≠ some i ∧ s.pageWord (requestOffset i 0) = cellPosted

/-- Of `a` and `b`: one part of a page scan. Step 1 writes the twelve words of the status block with the values of `a` and no other
byte; step 2 tends the jam record, step 3 the trays; and a cell that is to be taken has its request taken and decided by its row
(R145, R147, R162, R167, R170, R171, R172). -/
abbrev partDone (p : ScanPart) (a b : State) : Prop :=
  match p with
  | .status => holdsStatus b a ∧
      (∀ z, (∀ k : Fin 12, z ∉ pageBytes a (0x200 + 4 * k.val)) → b.mem.read z = a.mem.read z) ∧ b = { a with mem := b.mem }
  | .jamRecord => jamTended a b
  | .trays => traysTended a b
  | .cell i => (takesCell a i → exec (cellCommand a i) a = .next b) ∧ (¬ takesCell a i → b = a)

/-- Of `s` and `t`: up to n parts of the scan in progress have been worked, one after another, each leaving the scan only the parts
after it still to come (R170). -/
def partsDone : Nat → State → State → Prop
  | 0, s, t => t = s
  | n + 1, s, t =>
    (s.port.scanLeft = [] → t = s) ∧
      ∀ p rest, s.port.scanLeft = p :: rest →
        ∃ u, partDone p { s with port := { s.port with scanLeft := rest } } u ∧ partsDone n u t

/-- The state from which the parts of a PAGE_SCAN are worked, at an expiry at d: the line processor's stores have reached memory, and
where no scan is in progress the timer starts again and steps 1 to 3 and the eight cells are to come (R170). -/
abbrev scanStart (s : State) (stores : List LineStore) (d : Nat) : State :=
  if s.port.scanLeft = [] then
    { s.applyStores stores with
      now := max s.now d
      port := { s.port with
        scanTimer := some (max s.now d + 2 ^ s.port.scanTap.toNat)
        scanLeft := [.status, .jamRecord, .trays, .cell 0, .cell 1, .cell 2, .cell 3, .cell 4, .cell 5, .cell 6,
          .cell 7] } }
  else s.applyStores stores

/-- The command that is the rest of the page scan in progress (R170). -/
def restOfScan (s : State) : Instr := .pageScan ⟨[], s.port.scanLeft.length⟩

/-! ## The jam latch -/

/-- Of `s` and a page scan: it takes a CLEAR JAM, coming to read, in a state `v`, a cell POSTED with kind 10. Where nothing is to be
filed, so that no tray is written over the cell, the cell is POSTED with that kind once the stores have reached memory (R148, R170,
R172). -/
abbrev takesClearJam (s : State) (x : ScanAct) : Prop :=
  ∃ (d : Nat) (n : Nat) (i : Fin 8) (v : State),
    (s.port.scanLeft = [] → s.port.scanTimer = some d) ∧ n < x.parts ∧ partsDone n (scanStart s x.stores d) v ∧
    v.port.scanLeft.head? = some (.cell i) ∧ takesCell v i ∧ v.pageWord (requestOffset i 1) = 10 ∧
    (s.reports.tray = none → s.reports.held = [] → s.records.length ≤ 32 →
      (s.applyStores x.stores).pageWord (requestOffset i 0) = cellPosted ∧
        (s.applyStores x.stores).pageWord (requestOffset i 1) = 10)

/-- Of a state and its step: the front command can clear a set latch: a reset, or a CLEAR JAM, itself or taken by a page scan, with
the belt still and every cell uncovered. A write of ENABLE 0 that finds a page scan in progress has the rest of it made (R141, R148,
R169). -/
abbrev latchMayClear (s : State) : Prop :=
  ∃ c rest, s.pending = c :: rest ∧
    (c = .resetInput ∨ c = .controlReset ∨
      (∃ v : Word, v.getLsbD 1 = true ∧ (c = .setEnable v ∨ c = .clearEnable v ∨ c = .scanTap v)) ∨
      (s.drive.still = true ∧ (∀ k, (s.cell k).covered = false) ∧
        ((∃ i tag, c = .clearJam i tag) ∨
          (∃ x, c = .pageScan x ∧ (s.mem.wf = true → takesClearJam { s with pending := rest } x)) ∨
          ∃ v : Word, v.getLsbD 0 = false ∧ (c = .setEnable v ∨ c = .clearEnable v ∨ c = .scanTap v) ∧
            (s.mem.wf = true →
              takesClearJam { s with pending := rest, port := { s.port with scanTap := newTap s (v.extractLsb' 4 3) } }
                ⟨[], s.port.scanLeft.length⟩))))

/-- The report of a purged piece: MISSING on the trip piece of a MISSING trip (R150, step 1). -/
def purgeReport (s : State) (r : Record) : Report :=
  if s.protect.cause = some .missing ∧ s.protect.piece = some r.number then
    ⟨{ r with flags := { r.flags with missing := true } }, .purged⟩
  else ⟨r, .purged⟩

end Sys2Proof.Safety
end

