-- ==== Sys2Proof/WellFormed.lean ====
section
/-! DEFINITION. Which commands are well formed. The operand types already bound the cells, the samples and the
request cell's index; three checks remain. -/

namespace Sys2Proof

/-- The line processor's stores are whole words, so each address is a multiple of four (0.10: words of the shared
memory are 32 bits wide). -/
def LineStore.aligned (x : LineStore) : Bool :=
  x.addr.extractLsb' 0 2 == 0#2

/-- A request kind is one of the ten defined kinds when its code is 1 to 10 (section 11.4). -/
def kindDefined (kind : Word) : Bool :=
  1 ≤ kind.toNat && kind.toNat ≤ 10

/-- Well-formed commands: UNKNOWN_KIND names a kind outside the ten defined kinds (R172), the stores that reach line
memory before a page scan are word aligned, and the word written to CONTROL has the ENABLE and RESET bits its row names (R169,
R179). -/
def Instr.wellFormed : Instr → Bool
  | .pageScan x => x.stores.all LineStore.aligned
  | .unknownKind _ _ kind => !kindDefined kind
  | .setEnable value => value.getLsbD 0 && !value.getLsbD 1
  | .clearEnable value => !value.getLsbD 0 && !value.getLsbD 1
  | .scanTap value => !value.getLsbD 1
  | .resetInput | .controlReset | .pageAddressWrite _
  | .attentionMaskWrite _ | .attentionRead | .attentionWrite _ | .forwardStep _ | .reverseStep | .cover _ | .uncover _
  | .guardOpening | .guardClosing | .fullInputChange _ _ | .rampTick _ | .stillTimerExpiry | .dwellTimerExpiry
  | .holdTimerExpiry | .trayAgeExpiry | .intakeComplete | .forcedClose | .crawlEnd | .gateOpen | .gateClose | .printStart
  | .cellDeadline | .overstay | .moveReports | .loadPlan _ _ | .start _ _ | .drain _ _ | .stop _ _
  | .setImpression _ _ _ _ | .loadKiller _ _ _ _ | .setStacker _ _ _ _ | .snapshotTallies _ _ _ | .closeTray _ _
  | .clearJam _ _ => true

end Sys2Proof
end

