-- ==== Sys2Proof/Certificates/Slice0/Obligations.lean ====
section
/-! DEFINITION. The statements about the FC640 model, one proposition each. A docstring names the rules a statement follows and,
where a clause is the model's own choice, the log entry that makes it. -/

open Sys2Proof Sys2Proof.Machine Sys2Proof.Safety

/-! ## The queue and reset -/

/-- A step with a command at the front of the queue is that command executed on the state with the queue's rest. -/
def Obligations.StepRunsFrontCommand : Prop :=
  ∀ (c : Instr) (s : State), step { s with pending := c :: s.pending } = exec c s

/-- The values the chapters give after the reset input (R1, R3, R6, R13, R20, R24, R29, R56, R65, R72, R73, R89, R99, R108, R121,
R124, R125, R135, R136, R137, R151, R159, R168, R174). Choices of the model: that END_FULL does not stand leans on the reset state
showing the END full input inactive (log entry 2); that the bits of ATTENTION no table assigns read 0 (log entry 33); and that no report
of a ramp tick is outstanding, the item being the model's own (log entry 35). -/
def Obligations.ResetStateValues : Prop :=
  State.reset.position = 0 ∧ (∀ c, (State.reset.cell c).coverAt = 0 ∧ (State.reset.cell c).uncoverAt = 0 ∧
      (State.reset.cell c).occupant = none ∧ State.reset.queue c = []) ∧
    State.reset.admission = ⟨1, none, 0, none⟩ ∧ State.reset.records = [] ∧ State.reset.scan.window = none ∧
    (∀ sc, forScanner State.reset.scan.scanners sc = ⟨none, []⟩) ∧
    State.reset.schedule = [] ∧ (∀ g, State.reset.gate g = .closed) ∧
    State.reset.pocket = ⟨.empty, none, 0, none, none, 0, false, false, .inward⟩ ∧
    (∀ i, State.reset.printer.slots.get i = ⟨[], 0⟩) ∧ (∀ i, State.reset.printer.banks.get i = []) ∧
    State.reset.printer.active = 0 ∧ State.reset.printer.waiting = none ∧ State.reset.printer.job = none ∧
    State.reset.printer.head = 0 ∧ (∀ i, State.reset.router.inService.get i = false) ∧
    State.reset.router.lastRouted = none ∧ State.reset.drive.code = 0 ∧ State.reset.drive.target = 0 ∧
    State.reset.drive.rampTimer = none ∧ State.reset.drive.report = none ∧ State.reset.drive.still = false ∧
    State.reset.drive.stillTimer = some (State.reset.lastStep + 1000) ∧ State.reset.run.state = .idle ∧
    State.reset.run.request = none ∧ State.reset.run.hold = ⟨true, false, false, false, false⟩ ∧
    State.reset.run.feedEnable = false ∧ State.reset.protect.latch = false ∧ State.reset.protect.cause = none ∧
    State.reset.protect.cell = none ∧ State.reset.protect.position = 0 ∧ State.reset.protect.piece = none ∧
    State.reset.protect.furtherTrips = 0 ∧ State.reset.protect.crawlCount = 0 ∧ State.reset.protect.crawling = false ∧
    State.reset.protect.recordWritten = false ∧ State.reset.protect.rewriteDue = false ∧
    (∀ i, State.reset.tally.pieceCarry.get i = false) ∧ (∀ i, State.reset.tally.eventCarry.get i = false) ∧
    State.reset.tally.dotsCarry = false ∧
    (∀ i, State.reset.tally.pieces.get i = 0) ∧ (∀ i, State.reset.tally.events.get i = 0) ∧
    State.reset.tally.dots = 0 ∧ State.reset.tally.snapshot = 0 ∧ State.reset.reports.held = [] ∧
    State.reset.reports.tray = none ∧ State.reset.reports.cursor = none ∧ State.reset.reports.serial = 1 ∧
    State.reset.reports.ageTimer = none ∧ State.reset.reports.closeDue = false ∧ State.reset.reports.starved = false ∧
    State.reset.port.pageAddress = 0 ∧ State.reset.port.enable = false ∧ State.reset.port.scanTap = 3 ∧
    State.reset.attentionWord = 0 ∧ State.reset.port.seen = PerCause.all false ∧
    State.reset.port.masked = PerCause.all false ∧ State.reset.port.scanTimer = none ∧ State.reset.port.scanLeft = [] ∧
    State.reset.planValid = false

/-- RESET_INPUT, and CONTROL_RESET with every write of a CONTROL word that has RESET 1, whatever its other bits: every block takes its
reset values; the levels are those the inputs show, END_FULL stands with an active END input, still detection counts from the time of
the reset, and line memory is untouched. CONTROL.RESET keeps PAGE ADDRESS and ATTENTION MASK; the reset input does not (R1, R3, R108,
R110, R124, R137, R168, R169, R179). That the waiting commands, the time and the data last read stay is the model's choice (log entry
2), and so are the zeros of a working plan that is not valid (log entry 4). That a reset drops a report of a ramp tick still
outstanding is the model's choice (log entry 35). -/
def Obligations.ResetsRestoreEveryBlock : Prop :=
  ∀ s : State,
    (∃ t, exec .resetInput s = .next t ∧ resetTo s t 0 (PerCause.all false)) ∧
      ∃ t, exec .controlReset s = .next t ∧ resetTo s t s.port.pageAddress s.port.masked ∧
        ∀ v : Word, v.getLsbD 1 = true →
          exec (.setEnable v) s = .next t ∧ exec (.clearEnable v) s = .next t ∧ exec (.scanTap v) s = .next t

/-! ## The register port -/

/-- PAGE_ADDRESS_WRITE is ignored while ENABLE is 1 and otherwise takes the address of the 4,096-byte page that holds the written
address. Writes of CONTROL with RESET 0, each row by the bits of the written word: the SCAN TAP codes 0 to 5 in bits 4 to 6 are taken
and 6 and 7 are not; ENABLE 1 in bit 0 while ENABLE is 0 starts the scan timer with a full period and moves held reports into a tray
left open; ENABLE 0 while ENABLE is 1 is taken only in IDLE and JAMMED, and stops the timer; a read shows ENABLE, RESET 0, the SCAN TAP
code and the page address (R160, R168, R169, R179). That the new SCAN TAP already serves the start made by the same write is the model's
reading (log entry 10), and so is that ENABLE 0 in a page scan in progress finds it made to its end first (log entry 34). -/
def Obligations.PortWritesTakeEffect : Prop :=
  ∀ (s : State) (v : Word),
    (v.getLsbD 1 = false → ∀ i ∈ [Instr.setEnable v, .clearEnable v, .scanTap v],
      let tap := newTap s (v.extractLsb' 4 3)
      (v.getLsbD 0 = s.port.enable → exec i s = .next { s with port := { s.port with scanTap := tap } }) ∧
      (v.getLsbD 0 = true → s.port.enable = false →
        ∃ t, exec i s = .next t ∧ t.port.enable = true ∧ t.port.scanTap = tap ∧
          t.port.scanTimer = some (s.now + 2 ^ tap.toNat) ∧
          (s.reports.tray = none → t = { s with port := { s.port with
            enable := true, scanTap := tap, scanTimer := some (s.now + 2 ^ tap.toNat) } }) ∧
          (s.reports.tray ≠ none → s.reports.held ≠ [] → t.reports.held.length < s.reports.held.length) ∧
          (s.reports.tray ≠ none → exec .moveReports { s with port := { s.port with
            enable := true, scanTap := tap, scanTimer := some (s.now + 2 ^ tap.toNat) } } = .next t)) ∧
      (v.getLsbD 0 = false → s.port.enable = true → s.port.scanLeft = [] → s.run.state.isRunning = true →
        exec i s = .next { s with port := { s.port with scanTap := tap } }) ∧
      (v.getLsbD 0 = false → s.port.enable = true → s.port.scanLeft = [] → s.run.state.isRunning = false →
        exec i s = .next { s with port := { s.port with scanTap := tap, enable := false, scanTimer := none } }) ∧
      (v.getLsbD 0 = false → s.port.enable = true → s.port.scanLeft ≠ [] →
        ∃ t, exec (restOfScan s) { s with port := { s.port with scanTap := tap } } = .next t ∧ t.port.scanLeft = [] ∧
          t.port.enable = true ∧
          (t.run.state.isRunning = true → exec i s = .next t) ∧
          (t.run.state.isRunning = false →
            exec i s = .next { t with port := { t.port with enable := false, scanTimer := none } }))) ∧
    (s.port.enable = true → exec (.pageAddressWrite v) s = .next s) ∧
    (s.port.enable = false →
      ∃ t, exec (.pageAddressWrite v) s = .next t ∧ t.port.pageAddress.toNat = v.toNat / 4096 * 4096 ∧
        t = { s with port := { s.port with pageAddress := t.port.pageAddress } }) ∧
    s.pageAddressWord = s.port.pageAddress ∧ s.controlWord.getLsbD 0 = s.port.enable ∧
    s.controlWord.getLsbD 1 = false ∧ s.controlWord.extractLsb' 4 3 = s.port.scanTap

/-- ATTENTION_MASK_WRITE: bit n masks cause n, as a read of ATTENTION MASK then shows; the attention line is asserted exactly while a
cause is set and unmasked, and the top-cause code is that of the first such cause in the order JAM to REQUEST_DONE, or 0 (R168,
R175, R179). -/
def Obligations.MaskGovernsAttention : Prop :=
  ∀ (s : State) (v : Word),
    ∃ t, exec (.attentionMaskWrite v) s = .next t ∧
      t = { s with port := { s.port with masked := t.port.masked } } ∧
      (∀ c, t.port.masked.get c = v.getLsbD (causeBit c) ∧ t.maskWord.getLsbD (causeBit c) = v.getLsbD (causeBit c)) ∧
      (t.attentionLine = true ↔ ∃ c, s.port.causes.get c = true ∧ v.getLsbD (causeBit c) = false) ∧
      (t.topCause = 0 ↔ t.attentionLine = false) ∧
      ∀ c, t.topCause = causeBit c + 1 ↔
        (s.port.causes.get c = true ∧ v.getLsbD (causeBit c) = false ∧
          ∀ d, causeBit d < causeBit c → s.port.causes.get d = true → v.getLsbD (causeBit d) = true)

/-- ATTENTION_READ and ATTENTION_WRITE: a read marks every cause it shows set as seen; a write clears exactly the causes written 1
whose seen mark is yes; a new mask changes no seen mark; and in every order a raise that has not been read stands after the
write (R176, with the places of the bits of R179). -/
def Obligations.SeenMarksGuardCauses : Prop :=
  ∀ (s : State) (v : Word),
    (∃ t, exec .attentionRead s = .next t ∧
      t = { s with port := { s.port with readData := t.port.readData, seen := t.port.seen } } ∧
      (∀ c, t.port.readData.getLsbD (causeBit c) = s.port.causes.get c) ∧
      (t.port.readData.extractLsb' 8 3).toNat = s.topCause ∧
      (∀ c, t.port.seen.get c = (s.port.seen.get c || s.port.causes.get c)) ∧
      ∀ c, (t.raise c).port.causes.get c = true ∧ (t.raise c).port.seen.get c = false) ∧
    (∃ t, exec (.attentionWrite v) s = .next t ∧
      t = { s with port := { s.port with causes := t.port.causes, seen := t.port.seen } } ∧
      (∀ c, t.port.causes.get c = (s.port.causes.get c && !(v.getLsbD (causeBit c) && s.port.seen.get c))) ∧
      (∀ c, t.port.seen.get c = (s.port.seen.get c && !(v.getLsbD (causeBit c) && s.port.causes.get c))) ∧
      ∀ c, (t.raise c).port.causes.get c = true ∧ (t.raise c).port.seen.get c = false) ∧
    (∃ t, exec (.attentionMaskWrite v) s = .next t ∧ t.port.seen = s.port.seen ∧ t.port.causes = s.port.causes) ∧
    (∀ c, ∃ t, exec .attentionRead (s.raise c) = .next t ∧ t.port.readData.getLsbD (causeBit c) = true ∧
      t.port.seen.get c = true) ∧
    ∀ c, ∃ t, exec (.attentionWrite v) (s.raise c) = .next t ∧ t.port.causes.get c = true

/-! ## Inputs and belt travel -/

/-- REVERSE_STEP changes nothing; GUARD_CLOSING sets the level and nothing else; FULL_INPUT_CHANGE sets the full level, and for END
also END_FULL, with feed enable recomputed (R1, R110, R135, R136, R138). -/
def Obligations.InputsAreFollowed : Prop :=
  ∀ s : State,
    exec .reverseStep s = .next s ∧
      exec .guardClosing s = .next { s with protect := { s.protect with guardIsOpen := false } } ∧
      (∀ (k : Stacker) (l : FullLevel),
        ∃ t, exec (.fullInputChange (.stk k) l) s = .next t ∧ t = { s with router := t.router } ∧
          t.router = { s.router with full := t.router.full } ∧ t.router.full.get (stackerIdx k) = l ∧
          ∀ j, j ≠ k → t.router.full.get (stackerIdx j) = s.router.full.get (stackerIdx j)) ∧
      ∀ l : FullLevel, feedFollows s →
        ∃ t, exec (.fullInputChange .endCatch l) s = .next t ∧
          t.run = { s.run with hold := t.run.hold, feedEnable := t.run.feedEnable } ∧
          t.run.hold = { s.run.hold with endFull := l == FullLevel.active } ∧
          (t.run.feedEnable = true ↔ s.run.state = .running ∧ s.run.hold.tableMargin = false ∧
            s.run.hold.reportSpace = false ∧ s.run.hold.mergeGap = false ∧ l = .inactive) ∧
          t = { s with router := { s.router with endFull := l }, run := t.run }

/-- FORWARD_STEP with nothing outstanding at the present position: the belt moves to the new position, and with the step first every
block but the schedule sees the step there; with the entries first the entries due at the new position are taken before, one after
another, each as by its own row, until none is due or one of them has tripped the machine, and the other blocks then see the step in
the state they leave. Seen is: an open window takes the sample set; the travel count advances to 65,535 at most, the intake count while
ENTERING, the crawl count while the crawl runs; still detection starts again; and the next column is fired at its own position. With no
window open, nothing printing and no entry taken first, nothing else changes and the printhead fires nothing (R1, R13, R26, R59, R60, R75,
R88, R99, R101, R104, R124, R143, R154). What is still outstanding at the present position is taken first, by its own row, and the step
made from there: a due entry, a forced close, a completed intake, the end of a crawl. That it is, that an entry due at the new position
is otherwise left to a row of its own, and that an intake, a forced close or a crawl end now due is left to its row, is the model's choice
(log entry 9); that the operand says which comes first is too (log entry 14). -/
def Obligations.ForwardStepCounts : Prop :=
  (∀ (s : State) (x : BeltStep),
    (∀ e, s.dueEntry = some e → ∃ u, exec e.kind.command s = .next u ∧ exec (.forwardStep x) s = exec (.forwardStep x) u) ∧
      (s.dueEntry = none → s.forcedCloseDue = true → ∃ u, exec .forcedClose s = .next u ∧
        (u.dueEntry = none → exec (.forwardStep x) s = exec (.forwardStep x) u)) ∧
      (s.dueEntry = none → s.forcedCloseDue = false → s.intakeDone = true → ∃ u, exec .intakeComplete s = .next u ∧
        exec (.forwardStep x) s = exec (.forwardStep x) u) ∧
      (s.dueEntry = none → s.forcedCloseDue = false → s.intakeDone = false → s.crawlEnds = true →
        ∃ u, exec .crawlEnd s = .next u ∧ exec (.forwardStep x) s = exec (.forwardStep x) u) ∧
      (s.dueEntry = none → s.forcedCloseDue = false → s.intakeDone = false → s.crawlEnds = false →
        ∃ u t, exec (.forwardStep x) s = .next t ∧ (x.order = .stepFirst → u = stepMoved s x.samples) ∧
          (x.order = .entriesFirst → EntriesTaken (stepMoved s x.samples) u) ∧ stepSeen x.samples u t ∧
          t.position = s.position + 1 ∧ t.lastStep = s.now)) ∧
  ∀ (s : State) (x : SampleSet) (order : StepOrder), s.dueEntry = none → s.forcedCloseDue = false →
    s.intakeDone = false → s.crawlEnds = false → stepsAlone s order → s.scan.window = none → s.printer.job = none →
    exec (.forwardStep ⟨x, order⟩) s = .next { s with
      position := s.position + 1
      lastStep := s.now
      samples := x
      admission := { s.admission with travel := min 65535 (s.admission.travel + 1) }
      pocket := { s.pocket with
        intake := s.pocket.intake + (s.pocket.state == .entering && !s.protect.latch).toNat }
      printer := { s.printer with head := 0 }
      drive := { s.drive with
        still := false, stillTimer := some (s.now + if s.planValid then s.plan.stillTime else 1000) }
      protect := { s.protect with crawlCount := s.protect.crawlCount + s.protect.crawling.toNat } }

/-- FORWARD_STEP with a window open takes one sample set for offset = sample count, whether or not an impression runs, and each
scanner's comparator, open run and, at a trailing end, run list follow it. A run that a low sample closes joins the list where it
qualifies, the weakest of five being dropped; each drop flags the piece RUNS_DROPPED and counts one in RUNS_DROPPED (R26, R30, R31,
R35, R37, R38). The travel, intake and crawl counts and still detection go on as at any step (R13, R75, R124, R143). A counter that
passes its greatest value sets its carry flag, and CARRY is raised exactly when the working plan leaves its group unmasked (R153,
R154). That the window stands open at a count of 1,023 until FORCED_CLOSE is taken is the model's choice (log entry 9). -/
def Obligations.ForwardStepSamples : Prop :=
  ∀ (s : State) (x : SampleSet) (order : StepOrder) (w : Window), s.dueEntry = none → s.intakeDone = false →
    s.crawlEnds = false → stepsAlone s order → s.scan.window = some w → w.count < 1023 →
    let drops := dropsAt s x w.count
    ∃ t, exec (.forwardStep ⟨x, order⟩) s = .next t ∧ stepCounted s t ∧
      t.scan.window = some { w with count := w.count + 1 } ∧
      (∀ sc, sampleFollowed s.plan sc w.count (forScanner x sc) (forScanner s.scan.scanners sc)
        (forScanner t.scan.scanners sc)) ∧
      t.tally.events.get (eventCounterIdx .runsDropped) =
        s.tally.events.get (eventCounterIdx .runsDropped) + BitVec.ofNat 16 drops ∧
      tallied s t [] (List.replicate drops .runsDropped) (stepDots s (s.position + 1)) ∧
      (∀ r, s.record? w.piece = some r → ∃ r', t.record? w.piece = some r' ∧
        r'.flags.runsDropped = (r.flags.runsDropped || decide (0 < drops)) ∧
        ((∀ j, s.printer.job = some j → j.piece ≠ w.piece) →
          r' = { r with flags := { r.flags with runsDropped := r'.flags.runsDropped } })) ∧
      (∀ q, q ≠ w.piece → (∀ j, s.printer.job = some j → j.piece ≠ q) → t.record? q = s.record? q) ∧
      (s.printer.job = none → t.printer = { s.printer with head := 0 }) ∧
      t = { s with
        position := s.position + 1, lastStep := s.now, samples := x, scan := t.scan, admission := t.admission,
        pocket := t.pocket, printer := { s.printer with job := t.printer.job, head := t.printer.head }, drive := t.drive,
        protect := t.protect, records := t.records, tally := t.tally, port := t.port }

/-- A run closed at offset e qualifies by its afterglow index, 256 × sumG / sumP and 255 at most, and its length: TAG, else METER, else
not; at a leading-end scanner it starts before END_WIN besides; its score is its excess sum, 65,535 at most. The run list keeps the
strongest: with fewer than four kept runs a qualifying run joins at the tail; with four, the newest of those that share the smallest
score of the five is dropped and the others keep their order. A run still open at the close of a window of length w is closed at w
likewise (R27, R32, R33, R34, R36, R37, R38, R39). -/
def Obligations.RunListDropsWeakest : Prop :=
  (∀ (pl : Plan) (sc : Scanner) (r : OpenRun) (e : Nat),
    let index := min 255 (256 * r.sumG / r.sumP)
    let len := e - r.start
    let tag := pl.tagRMin ≤ index ∧ pl.tagLenMin ≤ len ∧ len ≤ pl.tagLenMax
    let meter := pl.mtrRMin ≤ index ∧ index ≤ pl.mtrRMax ∧ pl.mtrLenMin ≤ len ∧ len ≤ pl.mtrLenMax
    let corner := sc = .bTop ∨ sc = .aBottom ∨ r.start < pl.endWin
    (corner → tag → qualify pl sc r e = some ⟨r.start, e, .tag, min 65535 r.excess⟩) ∧
      (corner → ¬ tag → meter → qualify pl sc r e = some ⟨r.start, e, .meter, min 65535 r.excess⟩) ∧
      (¬ corner ∨ (¬ tag ∧ ¬ meter) → qualify pl sc r e = none)) ∧
    (∀ (l : List KeptRun) (k : KeptRun), l.length ≤ 4 →
      (l.length < 4 → keepRun l k = (l ++ [k], false)) ∧
        (l.length = 4 → (keepRun l k).2 = true ∧
          ∃ older d newer, l ++ [k] = older ++ d :: newer ∧ (keepRun l k).1 = older ++ newer ∧
            (∀ x ∈ older, d.score ≤ x.score) ∧ ∀ x ∈ newer, d.score < x.score)) ∧
    ∀ (pl : Plan) (w : Nat) (v : PerScanner ScannerState) (sc : Scanner),
      ((forScanner v sc).run.bind (fun r => qualify pl sc r w) = none →
        forScanner (windowLists pl w v) sc = (forScanner v sc).kept) ∧
        ∀ k, (forScanner v sc).run.bind (fun r => qualify pl sc r w) = some k →
          forScanner (windowLists pl w v) sc = (keepRun (forScanner v sc).kept k).1

/-- FORWARD_STEP to the position of the next column fires it, whether or not a window is open: its word at the printhead, its dots in
the record and in DOTS, and the next column awaited, or the impression over after the last; a step elsewhere fires nothing and leaves
the impression as it is. A column comes from the killer bank, then from the slot, and the result is that of the policy (R99, R101,
R102, R103); the counts of the step go on (R1, R13, R75, R124, R143). DOTS keeps the remainder of 4,294,967,296; passing its greatest
value sets its carry flag and raises CARRY exactly when the working plan leaves the dots group unmasked (R153, R154). That an entry due
at the new position is left to a row of its own, unless it comes first, is the model's choice (log entry 9). -/
def Obligations.ForwardStepFiresColumn : Prop :=
  (∀ (s : State) (j : Impression) (c : Nat) (w : Word),
    (∀ b, c < j.killer → j.bank = some b → (s.printer.banks.get b)[c]? = some w → s.columnWord j c = w) ∧
      (j.killer ≤ c → (s.printer.slots.get j.slot).columns[c - j.killer]? = some w → s.columnWord j c = w)) ∧
  (∀ r : Record, endResult true r = .incomplete ∧
    ∀ pl, r.plan = some pl → (pl.policy = .full → endResult false r = .full) ∧
      (pl.policy = .dieOnly → endResult false r = .dieOnly)) ∧
  ∀ (s : State) (x : SampleSet) (order : StepOrder) (j : Impression), s.dueEntry = none → s.forcedCloseDue = false →
    s.intakeDone = false → s.crawlEnds = false → stepsAlone s order → s.printer.job = some j →
    ∃ t, exec (.forwardStep ⟨x, order⟩) s = .next t ∧ stepCounted s t ∧
      (s.position + 1 ≠ posAdd j.base j.next →
        t.printer = { s.printer with head := 0 } ∧ t.tally.dots = s.tally.dots ∧
        (∀ r, s.record? j.piece = some r → ∃ r', t.record? j.piece = some r' ∧ r'.dots = r.dots ∧
          r'.result = r.result ∧ r'.flags.incomplete = r.flags.incomplete) ∧
        (s.scan.window = none → t.records = s.records ∧ t.tally = s.tally)) ∧
      (s.position + 1 = posAdd j.base j.next →
        t.printer.head = s.columnWord j j.next ∧
        t.tally.dots.toNat = (s.tally.dots.toNat + dotsOf (s.columnWord j j.next)) % 4294967296 ∧
        (∀ r, s.record? j.piece = some r →
          ∃ r', t.record? j.piece = some r' ∧ r'.dots = r.dots + dotsOf (s.columnWord j j.next) ∧
            (j.next + 1 < j.killer + j.die → r'.result = r.result ∧ r'.flags.incomplete = r.flags.incomplete) ∧
            (j.killer + j.die ≤ j.next + 1 →
              r'.result = endResult j.skipped r ∧ r'.flags.incomplete = (r.flags.incomplete || j.skipped))) ∧
        (j.next + 1 < j.killer + j.die → t.printer.job = some { j with next := j.next + 1 }) ∧
        (j.killer + j.die ≤ j.next + 1 → t.printer.job = none)) ∧
      (∀ q, q ≠ j.piece → (∀ w, s.scan.window = some w → w.piece ≠ q) → t.record? q = s.record? q) ∧
      (s.scan.window = none → t.scan = s.scan ∧ t.tally.events = s.tally.events) ∧
      tallied s t [] (List.replicate (stepDrops s x) .runsDropped)
        (if s.position + 1 = posAdd j.base j.next then dotsOf (s.columnWord j j.next) else 0) ∧
      t = { s with
        position := s.position + 1, lastStep := s.now, samples := x, scan := t.scan, admission := t.admission,
        pocket := t.pocket, printer := { s.printer with job := t.printer.job, head := t.printer.head }, drive := t.drive,
        protect := t.protect, records := t.records, tally := t.tally, port := t.port }

/-! ## Covers -/

/-- COVER and UNCOVER in IDLE and JAMMED set the level and the capture, the cover with the position it has captured, and have no other
effect: no queue, record, schedule entry or occupant changes. In any run state a cover of a covered cell or an uncover of a clear one
changes nothing (R3, R58, R140, R147). The last is the model's choice (log entry 11). -/
def Obligations.CellsOutsideRun : Prop :=
  ∀ (s : State) (c : Cell) (k : Capture),
    ((s.cell c).covered = true → exec (.cover ⟨c, k⟩) s = .next s) ∧
      ((s.cell c).covered = false → exec (.uncover c) s = .next s) ∧
      (s.run.state.isRunning = false → (s.cell c).covered = false →
        exec (.cover ⟨c, k⟩) s = .next (s.setCell c { s.cell c with covered := true, coverAt := coverPos s k })) ∧
      (s.run.state.isRunning = false → (s.cell c).covered = true →
        exec (.uncover c) s = .next (s.setCell c { s.cell c with covered := false, uncoverAt := s.position }))

/-- COVER of ENTRY that passes the admission test opens a record for the next piece number with the opening values, the gap and
the slot; makes the short-gap test; inserts the OVERSTAY entry, the SCAN expectation and its deadline; and at its end, with the
new piece counted, tests the merge window of a WAITING pocket, a free window granting the release (R4, R5, R6, R8, R14, R16, R21, R58,
R82, R83, R89, R92). What a cover captured one step earlier finds is the model's reading (log entry 32). -/
def Obligations.EntryCoverAdmits : Prop :=
  ∀ (s : State) (k : Capture), s.run.state.isRunning = true → s.protect.latch = false → (s.cell .entry).covered = false →
    s.canAdmit = true → unknownPiece s s.admission.nextPiece →
    isAhead (posAdd (posAdd (posAdd (coverPos s k) s.plan.dScan) s.plan.cellTol) 1) s.position = true →
    s.plan.dRelease + s.plan.cellTol < 32767 →
    let q := coverPos s k
    let n := s.admission.nextPiece
    let slot := s.printer.waiting.getD s.printer.active
    let early := posSub (posAdd q s.plan.dScan) s.plan.cellTol
    let late := posAdd (posAdd q s.plan.dScan) s.plan.cellTol
    ∃ t u, exec (.cover ⟨.entry, k⟩) s = .next t ∧
      (∀ p, s.pocket.occupant = some p → s.pocket.state = .waiting → s.run.state.testsMerge = true →
        u.windowFree none = true → granted u t p) ∧
      (s.pocket.occupant = none ∨ s.pocket.state ≠ .waiting ∨ s.run.state.testsMerge = false ∨
        u.windowFree none = false → t = u) ∧
      u.record? n = some
        { number := n, phase := .entering, lead := q, admittedAt := q, length := none,
          gap := s.entryGap, slot := slot, coupledTo := if s.gapIsShort then s.undecidedPrevious else none,
          decision := none, culls := if s.gapIsShort then CullSet.none.add .shortGap else CullSet.none,
          flags := { PieceFlags.none with coupled := s.gapIsShort && s.undecidedPrevious.isSome }, destination := none,
          plan := none, result := .unprinted, dots := 0, next := some ⟨.scan, early, late⟩, lastCell := .entry,
          openKey := s.openSeq } ∧
      (∀ y, y ≠ n → u.record? y = (s.record? y).map (fun r =>
        if s.gapIsShort = true ∧ s.undecidedPrevious = some y then
          { r.cull .shortGap with flags := { r.flags with coupled := true } } else r)) ∧
      u.records.length = s.records.length + 1 ∧
      u.admission = { s.admission with nextPiece := n + 1 } ∧
      u.printer.active = slot ∧ u.printer.waiting = none ∧
      (u.printer.slots.get slot).inUse = (s.printer.slots.get slot).inUse + 1 ∧
      u.cell .entry = { s.cell .entry with covered := true, coverAt := q, occupant := some (.piece n) } ∧
      (∀ c, c ≠ .entry → u.cell c = s.cell c) ∧
      (∃ i j, s.queue .scan = i ++ j ∧ u.queue .scan = i ++ ⟨.piece n, early, late⟩ :: j ∧
        (∀ y ∈ i, precedes early y.early = false) ∧ ∀ y, j.head? = some y → precedes early y.early = true) ∧
      (∀ c, c ≠ .scan → u.queue c = s.queue c) ∧
      (∀ i, (u.printer.slots.get i).columns = (s.printer.slots.get i).columns) ∧
      (∀ i, i ≠ slot → (u.printer.slots.get i).inUse = (s.printer.slots.get i).inUse) ∧
      u.printer = { s.printer with slots := u.printer.slots, active := slot, waiting := none } ∧
      (∀ e, e ∈ u.schedule ↔ e ∈ s.schedule ∨ e = ⟨.overstay .entry, n, posAdd q 1023⟩ ∨
        e = ⟨.cellDeadline .scan, n, posAdd late 1⟩) ∧
      u = { s with
        cellUnit := u.cellUnit, admission := u.admission, records := u.records, schedule := u.schedule,
        printer := u.printer, run := { s.run with hold := u.run.hold, feedEnable := u.run.feedEnable },
        openSeq := u.openSeq }

/-- COVER of ENTRY that fails the admission test counts one in UNTRACKED, culls an undecided previous piece at a short gap, makes
the occupant UNTRACKED, and inserts an untracked SCAN expectation while fewer than 8 stand; the piece gets no number, record
or entry (R18). UNTRACKED goes from 65,535 to 0 with its carry flag set, a flag already set stays set, and CARRY is raised exactly when
the working plan leaves the event group unmasked; no other counter, flag or cause changes (R153, R154). -/
def Obligations.EntryCoverUntracked : Prop :=
  ∀ (s : State) (k : Capture), s.run.state.isRunning = true → (s.cell .entry).covered = false → s.canAdmit = false →
    let pos := coverPos s k
    ∃ t, exec (.cover ⟨.entry, k⟩) s = .next t ∧
      tallied s t [] [.untracked] 0 ∧
      t.cell .entry = { s.cell .entry with covered := true, coverAt := pos, occupant := some .untracked } ∧
      (∀ c, c ≠ .entry → t.cell c = s.cell c) ∧
      (∀ q, t.record? q = (s.record? q).map (fun r =>
        if s.gapIsShort = true ∧ s.undecidedPrevious = some q then r.cull .shortGap else r)) ∧
      (s.untrackedCount < 8 → t.untrackedCount = s.untrackedCount + 1 ∧
        ∃ i j, s.queue .scan = i ++ j ∧
          t.queue .scan = i ++ ⟨.untracked, posSub (posAdd pos s.plan.dScan) s.plan.cellTol,
            posAdd (posAdd pos s.plan.dScan) s.plan.cellTol⟩ :: j) ∧
      (8 ≤ s.untrackedCount → ∀ c, t.queue c = s.queue c) ∧
      (∀ c, c ≠ .scan → t.queue c = s.queue c) ∧
      t = { s with cellUnit := t.cellUnit, records := t.records, tally := t.tally, port := t.port }

/-- COVER of a cell other than ENTRY whose queue, once stale untracked heads are dropped, is empty or has a head whose window the
cover misses is STRAY and trips the machine: only the head is tested, the rest of the queue stands, and the occupant is as it was
(R7, R9, R19, R139, R140; where it is an UNTRACKED left from before, log entry 29). -/
def Obligations.StrayCoverTrips : Prop :=
  ∀ (s : State) (c : Cell) (k : Capture), s.mem.wf = true → s.run.state.isRunning = true → s.protect.latch = false →
    (s.cell c).covered = false → c ≠ .entry →
    (c = .pocket → s.pocket.state = .releasing → s.pocket.cellClear = false) →
    let pos := coverPos s k
    (∀ x rest, dropStale pos (s.queue c) = x :: rest → 2 * s.plan.cellTol < (pos - x.early).toNat) →
    ∃ t, exec (.cover ⟨c, k⟩) s = .next t ∧ tripped s t .stray (some c) pos none ∧
      t.cell c = { s.cell c with covered := true, coverAt := pos } ∧
      t.queue c = dropStale pos (s.queue c) ∧ (∀ d, d ≠ c → t.cell d = s.cell d ∧ t.queue d = s.queue d) ∧
      t.position = s.position ∧ t.admission = s.admission ∧ t.router = s.router ∧ t.reports = s.reports ∧
      t.pending = s.pending

/-- COVER of SCAN, POCKET, a stacker cell or END that the head of its queue, a tracked piece's expectation, matches, once stale untracked
heads are dropped: the piece becomes the occupant with an OVERSTAY entry (none at POCKET), its expectation, deadline and next-cell
fields go, its phase and last cell follow, SCAN opens the scan window with empty run lists and POCKET makes a pocket reserved for it
ENTERING (R4, R7, R11, R19, R22, R25, R37, R58, R74, R117). At every cell but ENTRY and POCKET, an OVERSTAY overdue at the match trips
the machine in it, and the cover is handed to no block: at CANCEL the piece has no destination expectation and its last cell reached
is CANCEL, which is how the model reads the end of R117 (log entry 30; R3, R58, R140). -/
def Obligations.TrackedCoverMatches : Prop :=
  (∀ (s : State) (c : Cell) (k : Capture) (p : PieceNo) (r : Record) (early late : Pos) (rest : List Expectation),
    s.run.state.isRunning = true → s.protect.latch = false → (s.cell c).covered = false →
    c ≠ .entry → c ≠ .merge → c ≠ .cancel → (c = .pocket → s.pocket.state = .releasing → s.pocket.cellClear = false) →
    s.record? p = some r →
    let pos := coverPos s k
    dropStale pos (s.queue c) = ⟨.piece p, early, late⟩ :: rest → distanceAhead pos early ≤ 2 * s.plan.cellTol →
    isAhead (stayDue s.plan pos r.length) s.position = true →
    ∃ t u, exec (.cover ⟨c, k⟩) s = .next t ∧ coverMatched s u c pos p r ∧
      (∀ e, e ∈ t.schedule ↔ e ∈ u.schedule ∨ (c ≠ .pocket ∧ e = ⟨.overstay c, p, stayDue s.plan pos r.length⟩)) ∧
      t.scan = (if c = .scan then ⟨some ⟨p, pos, 0⟩, PerScanner.all ⟨none, []⟩⟩ else s.scan) ∧
      (c = .pocket → s.pocket.state = .reserved → s.pocket.occupant = some p →
        t.pocket = { s.pocket with state := .entering, intake := 0, cellClear := false, motor := .inward }) ∧
      (c ≠ .pocket ∨ s.pocket.state ≠ .reserved → t.pocket = s.pocket) ∧
      t = { u with schedule := t.schedule, scan := t.scan, pocket := t.pocket }) ∧
  ∀ (s : State) (c : Cell) (k : Capture) (p : PieceNo) (r : Record) (early late : Pos) (rest : List Expectation),
    s.mem.wf = true → s.run.state.isRunning = true → s.protect.latch = false → (s.cell c).covered = false → c ≠ .entry →
    c ≠ .pocket → s.record? p = some r →
    let pos := coverPos s k
    dropStale pos (s.queue c) = ⟨.piece p, early, late⟩ :: rest → distanceAhead pos early ≤ 2 * s.plan.cellTol →
    isAhead (stayDue s.plan pos r.length) s.position = false →
    ∃ t u, exec (.cover ⟨c, k⟩) s = .next t ∧ coverMatched s u c pos p r ∧
      tripped u t .overstay (some c) (stayDue s.plan pos r.length) (some p) ∧ t.cellUnit = u.cellUnit ∧
      t.position = s.position ∧ t.admission = s.admission ∧ t.router = s.router ∧ t.reports = s.reports ∧
      t.pending = s.pending

/-- COVER of CANCEL that a tracked piece's expectation matches, once stale untracked heads are dropped, inserts the destination cell's
expectation, with predicted lead merge lead + (D_k − D_MERGE), its deadline and the next-cell fields; a deadline overdue at its
insertion is taken at once and trips MISSING, the expectation left in its queue (R7, R8, R10, R19, R58, R117, R140). -/
def Obligations.CancelCoverExpectsDestination : Prop :=
  ∀ (s : State) (k : Capture) (p : PieceNo) (r : Record) (d : Dest) (early late : Pos) (rest : List Expectation),
    s.run.state.isRunning = true → s.protect.latch = false → (s.cell .cancel).covered = false →
    s.record? p = some r → r.destination = some d →
    let pos := coverPos s k
    dropStale pos (s.queue .cancel) = ⟨.piece p, early, late⟩ :: rest → distanceAhead pos early ≤ 2 * s.plan.cellTol →
    isAhead (stayDue s.plan pos r.length) s.position = true →
    let lead := posAdd r.lead (s.plan.destDistance d - s.plan.dMerge)
    let lo := posSub lead s.plan.cellTol
    let hi := posAdd lead s.plan.cellTol
    ∃ t u v, exec (.cover ⟨.cancel, k⟩) s = .next t ∧ coverMatched s u .cancel pos p r ∧
      v.record? p = (u.record? p).map (fun y => { y with next := some ⟨destCell d, lo, hi⟩ }) ∧
      (∀ q, q ≠ p → v.record? q = s.record? q) ∧ v.cellUnit.cells = u.cellUnit.cells ∧
      (∀ c, c ≠ destCell d → v.queue c = u.queue c) ∧
      (∃ i j, u.queue (destCell d) = i ++ j ∧ v.queue (destCell d) = i ++ ⟨.piece p, lo, hi⟩ :: j) ∧
      (∀ e, e ∈ v.schedule ↔ e ∈ u.schedule ∨ e = ⟨.overstay .cancel, p, stayDue s.plan pos r.length⟩) ∧
      v = { s with cellUnit := v.cellUnit, records := v.records, schedule := v.schedule } ∧
      (isAhead (posAdd hi 1) s.position = true →
        (∀ e, e ∈ t.schedule ↔ e ∈ v.schedule ∨ e = ⟨.cellDeadline (destCell d), p, posAdd hi 1⟩) ∧
          t = { v with schedule := t.schedule }) ∧
      (isAhead (posAdd hi 1) s.position = false → s.mem.wf = true →
        tripped v t .missing (some (destCell d)) (posAdd hi 1) (some p) ∧ t.cellUnit = v.cellUnit ∧
          t.position = s.position ∧ t.admission = s.admission ∧ t.router = s.router ∧ t.reports = s.reports ∧
          t.pending = s.pending)

/-- COVER of MERGE that a tracked piece's expectation matches, once stale untracked heads are dropped: the lead becomes the merge lead
and the phase DOWNSTREAM; the cancel plan is made first, with as many killer and die columns as the room allows, TRUNCATED where it
drops some, or culls the piece NO_ROOM; then the destination is chosen by the route and the availability, or inherited from the piece
last routed by a coupled piece, and DIVERTED is added when it is not the route's primary. A stacker gate whose open is overdue opens
at once. Where every due lies ahead, the schedule gains the OVERSTAY, the PRINT_START, the stacker gate's open and close and the
CANCEL deadline, the piece is expected at CANCEL, and TRUNCATED and DIVERTED are counted, with the carry flag and CARRY of a count that
wraps (R4, R7, R8, R19, R22, R58, R69, R70, R95, R96, R97, R98, R108, R111, R112, R113, R114, R153, R154). An OVERSTAY overdue at the match
is the matter of TrackedCoverMatches. -/
def Obligations.MergeCoverRoutes : Prop :=
  (∀ (s : State) (r : Record),
    (∀ c sp, plannedPolicy s.plan r = some (c, sp) ↔ r.culls = CullSet.none ∧ r.decision.bind (·.cls) = some c ∧
      r.decision.bind (·.span) = some sp ∧ (c = .tag → s.plan.policyTag ≠ .nothing) ∧
      (c = .meter → s.plan.policyMeter ≠ .nothing)) ∧
    (∀ n sp, availableLength s.plan n sp =
      (n : Int) - max 0 ((sp.start : Int) - (s.plan.killLead : Int)) - (s.plan.tailMargin : Int)) ∧
    (r.culls ≠ CullSet.none → routeOf s.plan r = s.plan.routeCull) ∧
    (r.culls = CullSet.none → r.decision.bind (·.cls) = some .tag → routeOf s.plan r = s.plan.routeTag) ∧
    (r.culls = CullSet.none → r.decision.bind (·.cls) = some .meter → routeOf s.plan r = s.plan.routeMeter) ∧
    (s.plan.policy .tag = s.plan.policyTag ∧ s.plan.policy .meter = s.plan.policyMeter ∧
      s.plan.bank .tag = s.plan.bankTag ∧ s.plan.bank .meter = s.plan.bankMeter) ∧
    s.destAvailable .endCatch = true ∧
    ∀ k, s.destAvailable (.stk k) = true ↔
      s.router.inService.get (stackerIdx k) = true ∧ s.router.full.get (stackerIdx k) = .inactive) ∧
  ∀ (s : State) (k : Capture) (p : PieceNo) (r : Record) (early late : Pos) (rest : List Expectation),
    s.run.state.isRunning = true → s.protect.latch = false → (s.cell .merge).covered = false →
    s.record? p = some r →
    let pos := coverPos s k
    let kept := s.setQueue .merge (dropStale pos (s.queue .merge))
    kept.queue .merge = ⟨.piece p, early, late⟩ :: rest → distanceAhead pos early ≤ 2 * s.plan.cellTol →
    isAhead (stayDue s.plan pos r.length) s.position = true →
    let room := fun sp : Span => availableLength s.plan r.lengthOrOpen sp
    let killer := fun c : IndiciumClass =>
      if s.plan.policy c = .full then (s.printer.banks.get (s.plan.bank c)).length else 0
    let die := (s.printer.slots.get r.slot).columns.length
    let cut := match plannedPolicy s.plan r with
      | some (c, sp) => decide (0 < room sp ∧ room sp < killer c + die)
      | none => false
    ∃ t r', exec (.cover ⟨.merge, k⟩) s = .next t ∧ t.record? p = some r' ∧ r'.lead = pos ∧ r'.phase = .downstream ∧
      r'.lastCell = .merge ∧ r'.decision = r.decision ∧ r'.length = r.length ∧
      r'.culls = (match plannedPolicy s.plan r with
        | some (_, sp) => if room sp ≤ 0 then r.culls.add .noRoom else r.culls
        | none => r.culls) ∧
      r'.plan = (match plannedPolicy s.plan r with
        | some (c, sp) =>
          if room sp ≤ 0 then r.plan
          else some
            { policy := s.plan.policy c, start := sp.start - s.plan.killLead,
              bank := if s.plan.policy c = .full then some (s.plan.bank c) else none,
              killer := min (room sp).toNat (killer c), die := min ((room sp).toNat - killer c) die }
        | none => r.plan) ∧
      (r'.flags.truncated = (r.flags.truncated || cut) ∧
          t.tally.events.get (eventCounterIdx .truncated) =
            s.tally.events.get (eventCounterIdx .truncated) + BitVec.ofNat 16 cut.toNat) ∧
      (∃ d, r'.destination = some d ∧ t.router = { s.router with lastRouted := some (p, d) } ∧
        (∀ q, r.coupledTo = some q → ∀ d', s.router.lastRouted = some (q, d') → d = d') ∧
        ((∀ q d', r.coupledTo = some q → s.router.lastRouted ≠ some (q, d')) →
          (s.destAvailable (routeOf s.plan r').primary = true → d = (routeOf s.plan r').primary) ∧
          (s.destAvailable (routeOf s.plan r').primary = false →
            s.destAvailable (routeOf s.plan r').alternate = true → d = (routeOf s.plan r').alternate) ∧
          (s.destAvailable (routeOf s.plan r').primary = false →
            s.destAvailable (routeOf s.plan r').alternate = false → d = .endCatch)) ∧
        r'.flags.diverted = (r.flags.diverted || d != (routeOf s.plan r').primary) ∧
        t.tally.events.get (eventCounterIdx .diverted) = s.tally.events.get (eventCounterIdx .diverted) +
          BitVec.ofNat 16 (d != (routeOf s.plan r').primary).toNat ∧
        ∀ n, r.length = some n →
          let start := match plannedPolicy s.plan r with
            | some (_, sp) => if room sp ≤ 0 then none else some (sp.start - s.plan.killLead)
            | none => none
          let new := arrivalEntries s.plan p pos n start d
          (t.protect.latch = false → ∀ g open' close, ⟨.gateOpen g, p, open'⟩ ∈ new → ⟨.gateClose g, p, close⟩ ∈ new →
            isAhead open' s.position = false → isAhead close s.position = true → t.gate g = .opened) ∧
          ((∀ e ∈ new, isAhead e.due s.position = true) →
            scheduled s t p new ∧ expected kept t p .cancel (posAdd pos (s.plan.dCancel - s.plan.dMerge)) ∧
              tallied s t [] ((if cut then [.truncated] else []) ++
                (if d = (routeOf s.plan r').primary then [] else [.diverted])) 0 ∧
              t = { s with
                cellUnit := t.cellUnit, records := t.records, schedule := t.schedule, router := t.router,
                tally := t.tally, port := t.port })) ∧
      (t.cell .merge).occupant = some (.piece p) ∧ (t.cell .merge).covered = true ∧
      (t.cell .merge).coverAt = pos ∧ (∀ c, c ≠ .merge → t.cell c = s.cell c) ∧
      (∀ q, q ≠ p → (∀ j, s.printer.job = some j → j.piece ≠ q) → t.record? q = s.record? q) ∧
      t.records.length = s.records.length ∧ t.position = s.position ∧ t.admission = s.admission ∧
      t.reports = s.reports ∧ t.pending = s.pending ∧
      (t.protect.latch = false → t.mem = s.mem ∧ t.run = s.run ∧ t.drive = s.drive ∧ t.pocket = s.pocket ∧
        t.scan = s.scan ∧ t.protect = s.protect)

/-- COVER that matches an untracked expectation makes the occupant UNTRACKED, is handed to no block, and inserts the next untracked
expectation of the table, from the cover (R7, R19). -/
def Obligations.UntrackedCoverMatches : Prop :=
  ∀ (s : State) (c : Cell) (k : Capture) (x : Expectation) (rest : List Expectation),
    s.run.state.isRunning = true → (s.cell c).covered = false → c ≠ .entry →
    let pos := coverPos s k
    (c = .pocket → s.pocket.state ≠ .releasing) → dropStale pos (s.queue c) = x :: rest → x.who = .untracked →
    distanceAhead pos x.early ≤ 2 * s.plan.cellTol →
    ∃ t, exec (.cover ⟨c, k⟩) s = .next t ∧
      t.cell c = { s.cell c with covered := true, coverAt := pos, occupant := some .untracked } ∧
      (∀ d, d ≠ c → t.cell d = s.cell d) ∧ t.queue c = rest ∧
      (∀ d y, d ≠ c → (y ∈ t.queue d ↔ y ∈ s.queue d ∨
        ∃ n, ((c = .scan ∧ d = .merge ∧ n = s.plan.dMerge - s.plan.dScan) ∨
            (c = .merge ∧ d = .cancel ∧ n = s.plan.dCancel - s.plan.dMerge) ∨
            (c = .cancel ∧ d = .endCell ∧ n = s.plan.dEnd - s.plan.dCancel)) ∧
          y = ⟨.untracked, posSub (posAdd pos n) s.plan.cellTol,
            posAdd (posAdd pos n) s.plan.cellTol⟩)) ∧
      t = { s with cellUnit := t.cellUnit }

/-- COVER of POCKET while the pocket is RELEASING with cell clear yes is the released letter's re-cover: the occupant becomes the
cell's occupant with no OVERSTAY entry, cell clear becomes no, and nothing is matched (R76). -/
def Obligations.PocketCoverTakenBack : Prop :=
  ∀ (s : State) (k : Capture) (p : PieceNo), s.run.state.isRunning = true → (s.cell .pocket).covered = false →
    s.pocket.state = .releasing → s.pocket.cellClear = true → s.pocket.occupant = some p →
    ∃ t, exec (.cover ⟨.pocket, k⟩) s = .next t ∧
      t.cell .pocket = { s.cell .pocket with covered := true, coverAt := coverPos s k, occupant := some (.piece p) } ∧
      (∀ c, c ≠ .pocket → t.cell c = s.cell c) ∧ (∀ c, t.queue c = s.queue c) ∧
      (∀ q, t.record? q = (s.record? q).map (fun r => if q = p then { r with lastCell := .pocket } else r)) ∧
      t = { s with cellUnit := t.cellUnit, records := t.records, pocket := { s.pocket with cellClear := false } }

/-! ## Uncovers and the decision -/

/-- UNCOVER of ENTRY: the occupant's OVERSTAY goes, a tracked piece gets its length and the length culls, the previous trail, travel
count and previous piece are set, and the occupant becomes absent (R4, R13, R15). -/
def Obligations.EntryUncoverMeasures : Prop :=
  ∀ s : State, s.run.state.isRunning = true → (s.cell .entry).covered = true →
    ∃ t, exec (.uncover .entry) s = .next t ∧
      t.admission = { s.admission with
        prevTrail := some s.position, travel := 0, prevPiece := (s.cell .entry).occupant } ∧
      t.cell .entry = { s.cell .entry with covered := false, uncoverAt := s.position, occupant := none } ∧
      (∀ c, c ≠ .entry → t.cell c = s.cell c) ∧ (∀ c, t.queue c = s.queue c) ∧
      (∀ q, (s.cell .entry).occupant ≠ some (.piece q) → t.record? q = s.record? q) ∧
      (∀ p r, (s.cell .entry).occupant = some (.piece p) → s.record? p = some r →
        ∃ r', t.record? p = some r' ∧ r' = { r with length := some (distanceAhead s.position r.lead), culls := r'.culls } ∧
          ∀ k, r'.culls.has k = (r.culls.has k ||
            (k == .overlength && decide (s.plan.maxLen < distanceAhead s.position r.lead)) ||
            (k == .underlength && decide (distanceAhead s.position r.lead < s.plan.minLen)))) ∧
      (∀ e, e ∈ t.schedule ↔ e ∈ s.schedule ∧
        ¬ ((s.cell .entry).occupant = some (.piece e.piece) ∧ e.kind = .overstay .entry)) ∧
      t = { s with cellUnit := t.cellUnit, admission := t.admission, records := t.records, schedule := t.schedule }

/-- UNCOVER that no block acts on: at CANCEL; at any cell but ENTRY without an occupant, or but ENTRY and MERGE with an untracked one; and
at SCAN by an occupant that has no open window, its window closed by force or never opened. The level and the capture are set, the
occupant's OVERSTAY goes, the occupant becomes absent, and nothing else changes (R3, R4, R27, R118). -/
def Obligations.UncoverHandedToNobody : Prop :=
  ∀ (s : State) (c : Cell), s.run.state.isRunning = true → (s.cell c).covered = true → c ≠ .entry →
    (c = .cancel ∨ (s.cell c).occupant = none ∨ (c ≠ .merge ∧ (s.cell c).occupant = some .untracked) ∨
      (c = .scan ∧ ∀ x, s.scan.window = some x → (s.cell .scan).occupant ≠ some (.piece x.piece))) →
    ∃ t, exec (.uncover c) s = .next t ∧
      t.cell c = { s.cell c with covered := false, uncoverAt := s.position, occupant := none } ∧
      (∀ d, d ≠ c → t.cell d = s.cell d) ∧ (∀ d, t.queue d = s.queue d) ∧
      (∀ e, e ∈ t.schedule ↔ e ∈ s.schedule ∧ ¬ ((s.cell c).occupant = some (.piece e.piece) ∧ e.kind = .overstay c)) ∧
      t = { s with cellUnit := t.cellUnit, schedule := t.schedule }

/-- UNCOVER of SCAN by the piece in the open window closes it: the decision is made from the lists as the close leaves them, the
piece's phase is TRAVELLING, and its cull reasons and turning are those of R49 to R51; where every due lies ahead, the gates of the
turning are scheduled, the piece is expected at POCKET or MERGE with its deadline, and a reversal reserves the pocket. The lists
stand as handed over until the next window opens. A run dropped at the last set or at the close flags the piece RUNS_DROPPED and counts
one, with the carry flag and CARRY of a count that wraps. FORCED_CLOSE with the sample count at 1,023 flags the piece and closes the window
likewise with w = 1,023; an UNCOVER that comes beyond those steps comes after that close, and closes no window (R27, R28, R37, R38, R39,
R41, R51, R52, R53, R54, R69, R153, R154). That FORCED_CLOSE given with no window or a lower count changes nothing is the model's choice
(log entry 24); how the count of a window opened by a late cover runs is its reading (log entry 32). -/
def Obligations.WindowCloseDecides : Prop :=
  (∀ (s : State) (p : PieceNo) (x : Window), s.run.state.isRunning = true → (s.cell .scan).covered = true →
    (s.cell .scan).occupant = some (.piece p) → s.scan.window = some x → x.piece = p → 1023 ≤ x.count →
    1023 < distanceAhead s.position x.openAt →
    ∃ u, exec .forcedClose s = .next u ∧ u.scan.window = none ∧ exec (.uncover .scan) s = exec (.uncover .scan) u) ∧
  (∀ (s : State) (p : PieceNo) (r : Record) (x : Window), s.run.state.isRunning = true →
    (s.cell .scan).covered = true → (s.cell .scan).occupant = some (.piece p) → s.record? p = some r →
    s.scan.window = some x → x.piece = p →
    let w := distanceAhead s.position x.openAt
    x.count < 1023 ∨ w ≤ 1023 →
    let scanners := (if x.count + 1 = w then s.takeSet else s).scan.scanners
    let lists := windowLists s.plan w scanners
    let drops := (if x.count + 1 = w then dropsAt s s.samples x.count else 0) + closeDrops s.plan w scanners
    ∃ t r' d, exec (.uncover .scan) s = .next t ∧ t.scan.window = none ∧ t.record? p = some r' ∧
      r'.phase = .travelling ∧ r'.decision = some d ∧
      (r'.culls, d.turning) = judge s.plan s.position (s.pocket.state == .empty) r lists ∧
      d = decisionOf r.lengthOrOpen d.turning lists ∧
      (∀ n, r.length = some n → phaseOneDone { s with
        schedule := s.schedule.filter (fun e => decide (¬ (e.piece = p ∧ e.kind = .overstay .scan))) } t p r.lead n
          d.turning) ∧
      (t.protect.latch = s.protect.latch → runLists t.scan.scanners = lists ∧
        r'.flags = { r.flags with runsDropped := r.flags.runsDropped || decide (0 < drops) } ∧
        tallied s t [] (List.replicate drops .runsDropped) 0) ∧
      (t.cell .scan).occupant = none ∧ (t.cell .scan).covered = false ∧ (t.cell .scan).uncoverAt = s.position ∧
      (∀ c, c ≠ .scan → t.cell c = s.cell c) ∧
      (∀ q, q ≠ p → (∀ j, s.printer.job = some j → j.piece ≠ q) → t.record? q = s.record? q) ∧
      t.records.length = s.records.length ∧ t.position = s.position ∧ t.admission = s.admission ∧
      t.router = s.router ∧ t.reports = s.reports ∧ t.pending = s.pending ∧
      (t.protect.latch = s.protect.latch → t.mem = s.mem ∧ t.run = s.run ∧ t.drive = s.drive ∧
        t.protect = s.protect)) ∧
  ∀ s : State,
    (s.forcedCloseDue = false → exec .forcedClose s = .next s) ∧
      ∀ (x : Window) (r : Record), s.scan.window = some x → 1023 ≤ x.count → s.record? x.piece = some r →
        let lists := windowLists s.plan 1023 s.scan.scanners
        let drops := closeDrops s.plan 1023 s.scan.scanners
        ∃ t r' d, exec .forcedClose s = .next t ∧ t.scan.window = none ∧ t.record? x.piece = some r' ∧
          r'.flags.forcedClose = true ∧ r'.phase = .travelling ∧ r'.decision = some d ∧
          (r'.culls, d.turning) = judge s.plan s.position (s.pocket.state == .empty) r lists ∧
          d = decisionOf r.lengthOrOpen d.turning lists ∧
          (∀ n, r.length = some n → phaseOneDone s t x.piece r.lead n d.turning) ∧
          (t.protect.latch = s.protect.latch → runLists t.scan.scanners = lists ∧
            r'.flags = { r.flags with
              forcedClose := true, runsDropped := r.flags.runsDropped || decide (0 < drops) } ∧
            tallied s t [] (List.replicate drops .runsDropped) 0) ∧
          t.cellUnit.cells = s.cellUnit.cells ∧ t.records.length = s.records.length ∧ t.position = s.position ∧
          t.admission = s.admission ∧ t.router = s.router ∧ t.reports = s.reports ∧ t.pending = s.pending ∧
          (t.protect.latch = s.protect.latch → t.mem = s.mem ∧ t.run = s.run ∧ t.drive = s.drive ∧
            t.protect = s.protect)

/-- The winner is the scanner with the highest best, the earlier in the order A-TOP, B-BOTTOM, B-TOP, A-BOTTOM among equals; its best
run has the highest score of its list, and of equal scores the earliest start; there is none exactly when all lists are empty. The
decision field holds the winner's attitude, the class of its best run, both scores, the number of kept runs, and the span from the
least start to the greatest end of the winner's runs of that class, reflected in the length for REVERSE and BOTH with 0 below 0
(R39, R42, R43, R44, R46, R48, R52). -/
def Obligations.WinnerIsStrongest : Prop :=
  ∀ lists : PerScanner (List KeptRun),
    (winner lists = none ↔ ∀ sc, forScanner lists sc = []) ∧
      (∀ w b, winner lists = some (w, b) →
        b ∈ forScanner lists w ∧
        (∀ k ∈ forScanner lists w, k.score < b.score ∨ (k.score = b.score ∧ b.start ≤ k.start)) ∧
        (∀ sc, ∀ k ∈ forScanner lists sc, k.score ≤ b.score ∧
          (k.score = b.score → scannerOrder.idxOf w ≤ scannerOrder.idxOf sc)) ∧
        (∀ sc, sc ≠ w → ∀ k ∈ forScanner lists sc, k.score ≤ secondScore lists w) ∧
        (secondScore lists w = 0 ∨ ∃ sc, sc ≠ w ∧ ∃ k ∈ forScanner lists sc, k.score = secondScore lists w)) ∧
      ∀ (n : Nat) (turn : Turning),
        let d := decisionOf n turn lists
        d.turning = turn ∧
        d.qualifying = lists.aTop.length + lists.bBottom.length + lists.bTop.length + lists.aBottom.length ∧
        (winner lists = none → d.attitude = none ∧ d.cls = none ∧ d.best = 0 ∧ d.second = 0 ∧ d.span = none) ∧
        ∀ w b, winner lists = some (w, b) →
          d.attitude = some w ∧ d.cls = some b.cls ∧ d.best = b.score ∧ d.second = secondScore lists w ∧
          ∃ lo hi,
            (∀ k ∈ forScanner lists w, k.cls = b.cls → lo ≤ k.start ∧ k.stop ≤ hi) ∧
            (∃ k ∈ forScanner lists w, k.cls = b.cls ∧ k.start = lo) ∧
            (∃ k ∈ forScanner lists w, k.cls = b.cls ∧ k.stop = hi) ∧
            (turn = .straight ∨ turn = .twist → d.span = some ⟨lo, hi⟩) ∧
            (turn = .reverse ∨ turn = .both → d.span = some ⟨n - hi, n - lo⟩)

/-- A decision turns a piece only when it is not culled, its first turning gate's open due lies ahead, and, for a reversal, the pocket
is EMPTY; otherwise the turning is NONE, with LATE_DECISION or POCKET_BUSY added by the test that failed, and a piece culled by
its evidence keeps its reasons and adds neither (R45, R47, R49, R50, R51). -/
def Obligations.JudgementTurnsOnlySafely : Prop :=
  ∀ (pl : Plan) (q : Pos) (free : Bool) (r : Record) (lists : PerScanner (List KeptRun)),
    let v := judge pl q free r lists
    let ev := evidenceCulls pl r.culls lists
    let called := calledTurning lists
    let onTime := isAhead (posSub (posAdd r.lead (if called = .twist ∨ called = .both then pl.dTwist else pl.dRev)) pl.gateLead) q
    (ev ≠ CullSet.none → v = (ev, .straight)) ∧
      (ev = CullSet.none → called = .straight → v = (ev, .straight)) ∧
      (ev = CullSet.none → called ≠ .straight → onTime = false → v = (ev.add .lateDecision, .straight)) ∧
      (ev = CullSet.none → called ≠ .straight → onTime = true → called = .reverse ∨ called = .both → free = false →
        v = (ev.add .pocketBusy, .straight)) ∧
      (ev = CullSet.none → called ≠ .straight → onTime = true → (called = .reverse ∨ called = .both → free = true) →
        v = (ev, called)) ∧
      (winner lists = none → ev = r.culls.add .noIndicium ∧ called = .straight) ∧
      (∀ w b, winner lists = some (w, b) → called = (match w with
          | .aTop => .straight
          | .bBottom => .twist
          | .bTop => .reverse
          | .aBottom => .both) ∧
        (b.score * pl.ambig ≤ secondScore lists w * 16 → ev = r.culls.add .ambiguous) ∧
        (secondScore lists w * 16 < b.score * pl.ambig → ev = r.culls))

/-- UNCOVER of POCKET by its occupant: while ENTERING the dwell starts at once and cell clear becomes yes; in DWELL and WAITING cell
clear becomes yes; in RELEASING the pocket becomes EMPTY with the motor IN, and in DRAINING with no piece tracked the run then passes
to STOPPING with target 0, or, the belt still at code 0, to IDLE (R4, R73, R76, R78, R129, R131, R132). That a cut drops a report of a
ramp tick still outstanding is the model's choice (log entry 35). -/
def Obligations.PocketUncoverTaken : Prop :=
  ∀ (s : State) (p : PieceNo), s.run.state.isRunning = true → s.protect.latch = false →
    (s.cell .pocket).covered = true → (s.cell .pocket).occupant = some (.piece p) →
    let ends := s.pocket.state = .releasing ∧ s.run.state = .draining ∧ s.records = []
    ∃ t u, exec (.uncover .pocket) s = .next t ∧
      (s.pocket.state = .entering → u.pocket = { s.pocket with
        state := .dwell, motor := .hold, cellClear := true, dwellTimer := some (s.now + s.plan.revDwell) }) ∧
      (s.pocket.state = .dwell ∨ s.pocket.state = .waiting → u.pocket = { s.pocket with cellClear := true }) ∧
      (s.pocket.state = .empty ∨ s.pocket.state = .reserved → u.pocket = s.pocket) ∧
      (s.pocket.state = .releasing → u.pocket = { s.pocket with state := .empty, occupant := none, motor := .inward }) ∧
      u.cell .pocket = { s.cell .pocket with covered := false, uncoverAt := s.position, occupant := none } ∧
      (∀ c, c ≠ .pocket → u.cell c = s.cell c) ∧ (∀ c, u.queue c = s.queue c) ∧
      (∀ e, e ∈ u.schedule ↔ e ∈ s.schedule ∧ ¬ (e.piece = p ∧ e.kind = .overstay .pocket)) ∧
      u = { s with cellUnit := u.cellUnit, schedule := u.schedule, pocket := u.pocket } ∧
      (¬ ends → t = u) ∧
      (ends → ¬ (s.drive.code = 0 ∧ s.drive.still = true) →
        t.run.state = .stopping ∧ t.run.request = s.run.request ∧ t.run.feedEnable = false ∧ t.drive.target = 0 ∧
          t.drive = { s.drive with target := 0, rampTimer := t.drive.rampTimer } ∧
          t = { u with run := t.run, drive := t.drive }) ∧
      (ends → s.drive.code = 0 → s.drive.still = true →
        t.run.state = .idle ∧ t.run.request = none ∧ t.records = [] ∧ t.run.feedEnable = false ∧
          (s.mem.wf = true → idleEntered u t s.run.request) ∧ t.gates = s.gates ∧
        ∀ c, t.queue c = (s.queue c).filter (fun x => x.who != .untracked) ∧ (t.cell c).occupant = (u.cell c).occupant)

/-- UNCOVER of MERGE with an occupant: with the pocket not WAITING nothing is counted; with it WAITING the pass is counted, the window
is tested without the uncovering piece in STARTING, RUNNING and DRAINING, a free window grants the release, and otherwise
MERGE_GAP is raised once the count has reached MERGE_RATIO, and counted in MERGE_GAPS; a count that wraps sets its carry flag, and CARRY
is raised exactly when the working plan leaves the event group unmasked. The window is free when it overlaps the occupancy of no
main-lane piece (R80, R81, R82, R83, R84, R85, R153, R154). That a raise at the count leaves the hold timer running is the model's
reading of R85 (log entry 18), and so is the 1,023 steps of an absent length in a phase other than ENTERING (log entry 13). -/
def Obligations.MergeUncoverPasses : Prop :=
  (∀ (s : State) (leftOut : Option PieceNo) (p : PieceNo) (r : Record) (len : Nat), s.pocket.occupant = some p →
    s.record? p = some r → r.length = some len → (s.windowFree leftOut = true ↔ mainLaneClear s len leftOut)) ∧
  ∀ (s : State) (o : Occupant), s.run.state.isRunning = true → (s.cell .merge).covered = true →
    (s.cell .merge).occupant = some o →
    let free := s.run.state.testsMerge && (s.setCell .merge { s.cell .merge with
      covered := false, uncoverAt := s.position }).windowFree o.piece?
    let passes := min 255 (s.pocket.passes + 1)
    let cleared := { s.setCell .merge { s.cell .merge with covered := false, uncoverAt := s.position, occupant := none } with
      schedule := s.schedule.filter (fun e => decide (¬ (o = .piece e.piece ∧ e.kind = .overstay .merge))) }
    ∃ t, exec (.uncover .merge) s = .next t ∧
      (t.cell .merge).covered = false ∧ (t.cell .merge).uncoverAt = s.position ∧ (t.cell .merge).occupant = none ∧
      (s.pocket.state ≠ .waiting → t = cleared) ∧
      (s.pocket.state = .waiting → free = true → s.pocket.occupant ≠ none →
        t.pocket.state = .releasing ∧ t.pocket.passes = 0 ∧ t.pocket.holdTimer = none ∧ t.pocket.mergeHold = false ∧
          t.pocket.occupant = s.pocket.occupant) ∧
      (∀ p, s.pocket.state = .waiting → free = true → s.pocket.occupant = some p → s.protect.latch = false →
        s.plan.dRelease + s.plan.cellTol < 32767 → granted cleared t p) ∧
      (s.pocket.state = .waiting → free = false →
        t.pocket = { s.pocket with
          passes := passes, mergeHold := s.pocket.mergeHold || decide (s.plan.mergeRatio ≤ passes) } ∧
        (s.pocket.mergeHold = false → s.plan.mergeRatio ≤ passes → t.run.hold.mergeGap = true ∧
          t.run.feedEnable = false ∧ tallied s t [] [.mergeGaps] 0 ∧
          t.run = { s.run with hold := t.run.hold, feedEnable := false }) ∧
        (s.pocket.mergeHold = true ∨ passes < s.plan.mergeRatio → t = { cleared with pocket := t.pocket }) ∧
        t = { cleared with pocket := t.pocket, run := t.run, tally := t.tally, port := t.port })

/-- UNCOVER of a destination cell by its tracked occupant completes the piece: an impression of it ends PARTIAL first; its report,
CULLED or SORTED, joins the holding queue, and its record, entries, expectation, occupancies and slot use go, its pending gate closes
being taken. The report counts one in COMPLETED, in its outcome, its destination (NO_DEST where it has none), its attitude, its class
(NONE for each with no decision), its length bin and its cancel result, and one in the counter of its primary reason, the first of its
reasons in the cull precedence, where it has one. A counter that passes its greatest value goes to 0 with its carry flag set, a flag
already set stays set, and CARRY is raised exactly when such a counter is of a group the working plan leaves unmasked; no other counter,
flag or cause changes. In DRAINING the last piece's completion with the pocket EMPTY passes the run to STOPPING with target 0, or, the
belt still at code 0, to IDLE (R4, R20, R21, R29, R62, R106, R118, R119, R120, R129, R131, R151, R152, R154, R158). That a cut drops a
report of a ramp tick still outstanding is the model's choice (log entry 35). -/
def Obligations.DestinationUncoverCompletes : Prop :=
  (∀ pl : Plan, lengthBin pl none = 0 ∧ ∀ n,
    (n < pl.b1 → lengthBin pl (some n) = 0) ∧ (pl.b1 ≤ n → n < pl.b2 → lengthBin pl (some n) = 1) ∧
      (pl.b1 ≤ n → pl.b2 ≤ n → n < pl.b3 → lengthBin pl (some n) = 2) ∧
      (pl.b1 ≤ n → pl.b2 ≤ n → pl.b3 ≤ n → n < pl.b4 → lengthBin pl (some n) = 3) ∧
      (pl.b1 ≤ n → pl.b2 ≤ n → pl.b3 ≤ n → pl.b4 ≤ n → lengthBin pl (some n) = 4)) ∧
  ∀ (s : State) (c : Cell) (p : PieceNo) (r : Record), s.run.state.isRunning = true → (s.cell c).covered = true →
    (c = .endCell ∨ ∃ k, c = .stk k) → (s.cell c).occupant = some (.piece p) → s.record? p = some r →
    let printing := s.printer.job.map (·.piece) = some p
    let last := if printing then { r with result := .incomplete, flags := { r.flags with incomplete := true } } else r
    let x : Report := ⟨last, if r.culls = CullSet.none then .sorted else .culled⟩
    ∃ t u, exec (.uncover c) s = .next t ∧
      u.records = s.records.filter (fun y => y.number != p) ∧
      u.reports = { s.reports with held := s.reports.held ++ [x], filingDue := true } ∧
      tallied s u
        [.completed, .outcome x.outcome, .dest r.destination, .attitude (r.decision.bind (·.attitude)),
          .cls (r.decision.bind (·.cls)), .lengthBin (lengthBin s.plan r.length), .cancel last.result]
        (reasonCounters r) 0 ∧
      (∀ k, EventCounter.cull k ∈ reasonCounters r ↔ r.culls.has k = true ∧
        ∀ l, (cullReasonCode (some l)).toNat < (cullReasonCode (some k)).toNat → r.culls.has l = false) ∧
      (∀ e, e ∈ u.schedule ↔ e ∈ s.schedule ∧ e.piece ≠ p) ∧
      (∀ g, u.gate g = if ∃ e ∈ s.schedule, e.piece = p ∧ e.kind = .gateClose g then .closed else s.gate g) ∧
      u.cell c = { s.cell c with covered := false, uncoverAt := s.position, occupant := none } ∧
      (∀ d, d ≠ c → u.cell d = { s.cell d with
        occupant := if (s.cell d).occupant = some (.piece p) then none else (s.cell d).occupant }) ∧
      (∀ d, u.queue d = (s.queue d).filter (fun y => y.who != .piece p)) ∧
      u.printer.slots.get r.slot = { s.printer.slots.get r.slot with inUse := (s.printer.slots.get r.slot).inUse - 1 } ∧
      (∀ i, i ≠ r.slot → u.printer.slots.get i = s.printer.slots.get i) ∧
      u.scan = (if s.scan.window.map (·.piece) = some p then ScanContext.free else s.scan) ∧
      u.printer.job = (if printing then none else s.printer.job) ∧
      (s.pocket.occupant = some p → s.pocket.state ≠ .empty → u.pocket.state = .empty ∧ u.pocket.occupant = none) ∧
      (s.pocket.occupant ≠ some p ∨ s.pocket.state = .empty → u.pocket = s.pocket) ∧
      (feedFollows s → feedFollows u) ∧
      u = { s with
        cellUnit := u.cellUnit, records := u.records, scan := u.scan, schedule := u.schedule, gates := u.gates,
        pocket := u.pocket, printer := { s.printer with slots := u.printer.slots, job := u.printer.job },
        run := { s.run with hold := u.run.hold, feedEnable := u.run.feedEnable }, tally := u.tally, reports := u.reports,
        port := u.port } ∧
      (let ends := s.run.state = .draining ∧ u.records = [] ∧ u.pocket.state = .empty;
        (¬ ends → t = u) ∧
          (ends → ¬ (s.drive.code = 0 ∧ s.drive.still = true) →
            t.run.state = .stopping ∧ t.run.request = s.run.request ∧ t.run.feedEnable = false ∧
              t.drive = { s.drive with target := 0, rampTimer := t.drive.rampTimer } ∧
              t = { u with run := t.run, drive := t.drive }) ∧
          (ends → s.drive.code = 0 → s.drive.still = true →
            t.run.state = .idle ∧ t.run.request = none ∧ t.records = [] ∧ t.run.feedEnable = false ∧
              (s.mem.wf = true → idleEntered u t s.run.request)))

/-- GUARD_OPENING: an open guard shows no opening; in IDLE the level is set and nothing more; in a running state with the latch clear
the machine trips with cause GUARD; with the latch set it is a further trip, which counts up to 255, cuts the code, ends the crawl and
raises JAM again (R138, R139, R140, R147). The first clause is the model's choice (log entry 11). That a cut drops a report of a ramp
tick still outstanding is the model's choice (log entry 35). -/
def Obligations.GuardOpeningTrips : Prop :=
  ∀ s : State, s.mem.wf = true →
    (s.protect.guardIsOpen = true → exec .guardOpening s = .next s) ∧
      (s.protect.guardIsOpen = false → s.protect.latch = false → s.run.state.isRunning = false →
        exec .guardOpening s = .next { s with protect := { s.protect with guardIsOpen := true } }) ∧
      (s.protect.guardIsOpen = false → s.protect.latch = false → s.run.state.isRunning = true →
        ∃ t, exec .guardOpening s = .next t ∧
          tripped { s with protect := { s.protect with guardIsOpen := true } } t .guardOpened none s.position none ∧
          t.cellUnit = s.cellUnit ∧ t.position = s.position ∧ t.admission = s.admission ∧ t.router = s.router ∧
          t.reports = s.reports ∧ t.pending = s.pending) ∧
      (s.protect.guardIsOpen = false → s.protect.latch = true →
        ∃ t, exec .guardOpening s = .next t ∧
          t.protect = { s.protect with
            guardIsOpen := true, furtherTrips := min 255 (s.protect.furtherTrips + 1), crawling := false,
            rewriteDue := (s.protect.rewriteDue || s.protect.recordWritten) && !s.port.enable } ∧
          t.drive = { s.drive with code := 0, target := 0, rampTimer := none, report := none } ∧
          t.port = portRaised s.port .jam ∧
          (s.port.enable = true → s.protect.rewriteDue = true ∨ s.protect.recordWritten = true →
            t.pageWord (jamOffset + 24) = countWord (min 255 (s.protect.furtherTrips + 1)) ∧
              t.pageWord (jamOffset + 28) = posWord s.position) ∧
          keptOutside s t (pageBytes s (jamOffset + 24) ++ pageBytes s (jamOffset + 28)) ∧
          t = { s with protect := t.protect, drive := t.drive, port := t.port, mem := t.mem })

/-! ## The page scan -/

/-- PAGE_SCAN at an expiry starts the timer again and works the parts of the scan in order: the status block is written with the
values of that moment; the jam record is written or rewritten where due; a due age close is carried out and the rack is searched while
reports are held and no tray is open; then every POSTED cell but the pending one, in index order, has its request taken and decided by
the row of its kind. Events may fall between two parts: the operand says how many parts are worked, and a later PAGE_SCAN goes on with
the rest (R145, R147, R161, R162, R163, R167, R170, R171, R172, R179; the operand is log entry 34, and that a scan decides a cell as its
request's row does is log entry 8). The line processor's stores reach
memory first (log entry 12); words 12 to 15 of the status block stay as they are (log entry 16); with the timer stopped there is no
scan, and an expiry is taken at its time at the earliest (log entry 7). -/
def Obligations.PageScanWritesStatusAndTakes : Prop :=
  (∀ (s : State) (i : Fin 8),
    let tag := s.pageWord (requestOffset i 2)
    let arg := fun k => s.pageWord (requestOffset i (3 + k))
    let kind := s.pageWord (requestOffset i 1)
    let row := cellCommand s i
    (kind = 1 → row = .loadPlan i tag) ∧ (kind = 2 → row = .start i tag) ∧ (kind = 3 → row = .drain i tag) ∧
      (kind = 4 → row = .stop i tag) ∧ (kind = 5 → row = .setImpression i tag (arg 0) (arg 1)) ∧
      (kind = 6 → row = .loadKiller i tag (arg 0) (arg 1)) ∧ (kind = 7 → row = .setStacker i tag (arg 0) (arg 1)) ∧
      (kind = 8 → row = .snapshotTallies i tag (arg 0)) ∧ (kind = 9 → row = .closeTray i tag) ∧
      (kind = 10 → row = .clearJam i tag) ∧ (kind = 0 ∨ 10 < kind.toNat → row = .unknownKind i tag kind)) ∧
  ∀ (s : State) (x : ScanAct),
    (s.port.scanLeft = [] → s.port.scanTimer = none → exec (.pageScan x) s = .next (s.applyStores x.stores)) ∧
      ∀ d, s.mem.wf = true → (s.port.scanLeft = [] → s.port.scanTimer = some d) →
        ∃ t, exec (.pageScan x) s = .next t ∧ partsDone x.parts (scanStart s x.stores d) t ∧
          t.port.scanLeft = (scanStart s x.stores d).port.scanLeft.drop x.parts

/-! ## Timers -/

/-- RAMP_TICK moves the code toward the target by CODE_STEP without passing it; short of the target the timer starts again; at the
target it stops and run control is told: RUN_CODE in STARTING makes the run RUNNING and completes the START with RUN_CODE, and 0 in
STOPPING with the belt still takes the run into IDLE, its pieces reported STRANDED. Run control may take the report in the tick or after
an event in between, with the value of its tick: a DRAIN or STOP taken first has made the run STOPPING, and the report then changes
nothing (R121, R122, R127, R131, R132). That the operand says which, a report outstanding being taken by the next RAMP_TICK ahead of any
expiry, is the model's choice (log entry 35); that an expiry is taken at its time at the earliest, and a stopped timer makes none, is
too (log entry 7). -/
def Obligations.RampTickMovesCode : Prop :=
  ∀ (s : State) (x : ReportTime),
    (s.drive.rampTimer = none → s.drive.report = none → exec (.rampTick x) s = .next s) ∧
      (∀ v, s.mem.wf = true → s.drive.report = some v → ∃ t, exec (.rampTick x) s = .next t ∧
        reportTaken { s with drive := { s.drive with report := none } } t v) ∧
      ∀ d, s.mem.wf = true → s.drive.rampTimer = some d → s.drive.report = none →
        let now := max s.now d
        let code := if s.drive.code < s.drive.target then min (s.drive.code + s.plan.codeStep) s.drive.target
          else max (s.drive.code - s.plan.codeStep) s.drive.target
        (code ≠ s.drive.target → exec (.rampTick x) s = .next { s with
          now := now, drive := { s.drive with code := code, rampTimer := some (now + s.plan.rampTick) } }) ∧
        (code = s.drive.target →
          exec (.rampTick .afterwards) s = .next { s with
            now := now, drive := { s.drive with code := code, rampTimer := none, report := some code } } ∧
          ∃ t, exec (.rampTick .withTick) s = .next t ∧
            reportTaken { s with now := now, drive := { s.drive with code := code, rampTimer := none } } t code)

/-- STILL_TIMER_EXPIRY makes the still flag yes and tells run control and the protect unit: with the code at 0 in STOPPING the run
enters IDLE, its pieces reported STRANDED and the pending request answered with their number, and with the latch set and ENABLE 1 the
jam record is written with its items, its state COMPLETE, and no other byte (R124, R131, R132, R152, R144, R145, R178, R179). That a
stopped timer makes no expiry and time stands at least at the expiry is the model's choice (log entry 7). That a cut drops a report of
a ramp tick still outstanding is the model's choice (log entry 35). -/
def Obligations.StillExpiryTells : Prop :=
  ∀ s : State,
    (s.drive.stillTimer = none → exec .stillTimerExpiry s = .next s) ∧
      ∀ d, s.mem.wf = true → s.drive.stillTimer = some d →
        (¬ (s.run.state = .stopping ∧ s.drive.code = 0) → s.protect.latch = false →
          exec .stillTimerExpiry s = .next { s with
            now := max s.now d, drive := { s.drive with still := true, stillTimer := none } }) ∧
        (s.run.state = .stopping → s.drive.code = 0 → s.protect.latch = false →
          ∃ t, exec .stillTimerExpiry s = .next t ∧ t.run.state = .idle ∧ t.records = [] ∧ t.run.request = none ∧
            idleEntered { s with
              now := max s.now d, drive := { s.drive with still := true, stillTimer := none } } t s.run.request ∧
            t.drive = { s.drive with
              code := 0, target := 0, rampTimer := none, still := true, stillTimer := none, report := none } ∧
            t.run.feedEnable = false ∧ (∀ c, ∀ x ∈ t.queue c, x.who ≠ .untracked) ∧ t.position = s.position ∧
            t.pending = s.pending ∧
            (s.records = [] → s.reports.held = [] → s.reports.tray = none → ∀ q, s.run.request = some q →
              holdsAnswer t q.cell q.tag .ok 0 ∧ keptOutside s t (answerBytes s q.cell) ∧
                t.port = portRaised s.port .requestDone)) ∧
        (s.run.state = .jammed → s.protect.latch = true → s.port.enable = true → s.protect.recordWritten = false →
          s.records.length ≤ 32 →
          ∃ t, exec .stillTimerExpiry s = .next t ∧ t.protect = { s.protect with recordWritten := true } ∧
            holdsJamRecord t s ∧ keptOutside s t (jamBytes s s.records.length) ∧
            t = { s with
              now := max s.now d, drive := { s.drive with still := true, stillTimer := none }, protect := t.protect,
              mem := t.mem }) ∧
        (s.run.state = .jammed → s.port.enable = false ∨ s.protect.recordWritten = true →
          exec .stillTimerExpiry s = .next { s with
            now := max s.now d, drive := { s.drive with still := true, stillTimer := none } })

/-- Stranding, step 2 of an entry to IDLE, of every tracked piece: one report each, in order of admission and counted in the
counters of R152, with the carry flags and CARRY of those that wrap, none tracked any more, and the pocket emptied of a stranded
occupant (R132, R152, R154, R79). -/
def Obligations.StrandingReportsEveryPiece : Prop :=
  ∀ s : State, (s.records.map (·.number)).Nodup → s.printer.job = none →
    (∀ p, s.pocket.occupant = some p → s.record? p ≠ none) → (s.pocket.state = .empty ↔ s.pocket.occupant = none) →
    s.strandAll.records = [] ∧
      s.strandAll.reports.held = s.reports.held ++ s.records.map (fun r => ⟨r, .stranded⟩) ∧
      s.strandAll.tally.pieces.get (pieceCounterIdx .completed) =
        s.tally.pieces.get (pieceCounterIdx .completed) + BitVec.ofNat 24 s.records.length ∧
      s.strandAll.tally.pieces.get (pieceCounterIdx (.dest none)) =
        s.tally.pieces.get (pieceCounterIdx (.dest none)) + BitVec.ofNat 24 s.records.length ∧
      tallied s s.strandAll (s.records.flatMap (fun r => reportCounters s.plan r .stranded))
        (s.records.flatMap reasonCounters) 0 ∧
      s.strandAll.pocket.state = .empty ∧ s.strandAll.pocket.occupant = none

/-- DWELL_TIMER_EXPIRY in DWELL and HOLD_TIMER_EXPIRY in WAITING: the dwell ends in WAITING with pass count 0, the hold timer running
and no merge hold; the hold timer's expiry raises MERGE_GAP and counts it in MERGE_GAPS unless it stands already; each tests the window
in STARTING, RUNNING and DRAINING, and a free window grants the release. A count that wraps sets its carry flag, and CARRY is raised
exactly when the working plan leaves the event group unmasked (R77, R82, R83, R85, R153, R154). That a stopped timer, or a timer in
another pocket state, makes no expiry and time stands at least at the expiry is the model's choice (log entry 7). -/
def Obligations.PocketTimersExpire : Prop :=
  ∀ s : State,
    (s.pocket.dwellTimer = none ∨ s.pocket.state ≠ .dwell → exec .dwellTimerExpiry s = .next s) ∧
      (s.pocket.holdTimer = none ∨ s.pocket.state ≠ .waiting → exec .holdTimerExpiry s = .next s) ∧
      (∀ d, s.pocket.dwellTimer = some d → s.pocket.state = .dwell →
        ∃ t, exec .dwellTimerExpiry s = .next t ∧ t.now = max s.now d ∧ t.position = s.position ∧
          ((s.run.state.testsMerge && s.windowFree none) = true → s.pocket.occupant ≠ none →
            t.pocket.state = .releasing ∧ t.pocket.passes = 0 ∧ t.pocket.dwellTimer = none ∧ t.pocket.holdTimer = none) ∧
          (∀ p, (s.run.state.testsMerge && s.windowFree none) = true → s.pocket.occupant = some p →
            s.protect.latch = false → s.plan.dRelease + s.plan.cellTol < 32767 →
            granted { s with now := max s.now d, pocket := { s.pocket with dwellTimer := none } } t p) ∧
          ((s.run.state.testsMerge && s.windowFree none) = false →
            t.pocket = { s.pocket with
              state := .waiting, dwellTimer := none, passes := 0, mergeHold := false,
              holdTimer := some (max s.now d + s.plan.revMaxHold), motor := .hold } ∧
            t.run = { s.run with hold := t.run.hold, feedEnable := t.run.feedEnable } ∧
            (feedFollows s → feedFollows t) ∧
            t = { s with now := max s.now d, pocket := t.pocket, run := t.run })) ∧
      ∀ d, s.pocket.holdTimer = some d → s.pocket.state = .waiting →
        (s.pocket.mergeHold = true → exec .holdTimerExpiry s = .next { s with
          now := max s.now d, pocket := { s.pocket with holdTimer := none } }) ∧
        (s.pocket.mergeHold = false →
          ∃ t, exec .holdTimerExpiry s = .next t ∧ t.now = max s.now d ∧ t.position = s.position ∧
            t.pocket.holdTimer = none ∧
            t.tally.events.get (eventCounterIdx .mergeGaps) = s.tally.events.get (eventCounterIdx .mergeGaps) + 1 ∧
            ((s.run.state.testsMerge && s.windowFree none) = true → s.pocket.occupant ≠ none →
              t.pocket.state = .releasing ∧ t.pocket.mergeHold = false) ∧
            (∀ p, (s.run.state.testsMerge && s.windowFree none) = true → s.pocket.occupant = some p →
              s.protect.latch = false → s.plan.dRelease + s.plan.cellTol < 32767 →
              granted { s with now := max s.now d, tally := t.tally, port := t.port } t p ∧
                tallied s t [] [.mergeGaps] 0) ∧
            ((s.run.state.testsMerge && s.windowFree none) = false →
              t.pocket = { s.pocket with holdTimer := none, mergeHold := true } ∧ t.run.hold.mergeGap = true ∧
                t.run.feedEnable = false ∧ tallied s t [] [.mergeGaps] 0 ∧
                t = { s with
                  now := max s.now d, pocket := t.pocket, run := t.run, tally := t.tally, port := t.port }))

/-- TRAY_AGE_EXPIRY: with ENABLE 0 close due becomes AGE; with ENABLE 1 the open tray closes AGE: header with serial, count, cause and
first and last piece, rack entry FULL, TRAY_CLOSED raised, the next serial, no open tray; reports still held then move as
MOVE_REPORTS moves them, a tray being searched for (R160, R162, R164, R165, R166, R167). That these moves are made in the act of the
close is the model's reading (log entry 19). That a stopped timer makes no expiry and time stands at least at the expiry is
the model's choice (log entry 7). -/
def Obligations.TrayAgeCloses : Prop :=
  ∀ s : State,
    (s.reports.ageTimer = none → exec .trayAgeExpiry s = .next s) ∧
      (∀ d, s.reports.ageTimer = some d → s.port.enable = false → exec .trayAgeExpiry s = .next { s with
        now := max s.now d, reports := { s.reports with ageTimer := none, closeDue := true } }) ∧
      (∀ d (tr : OpenTray), s.reports.ageTimer = some d → s.port.enable = true → s.reports.tray = some tr →
        ∃ t m, exec .trayAgeExpiry s = .next t ∧ exec .moveReports m = .next t ∧
          closedTray { s with now := max s.now d } m tr .age) ∧
      ∀ d (tr : OpenTray), s.mem.wf = true → s.reports.ageTimer = some d → s.port.enable = true →
        s.reports.tray = some tr → s.reports.held = [] →
        (∀ k, k < 8 → wordsApart (tr.addr + BitVec.ofNat 32 (4 * k)) (s.pageAt (rackOffset tr.index 0))) →
        ∃ t, exec .trayAgeExpiry s = .next t ∧
          t.mem.readWord tr.addr = s.reports.serial ∧ t.mem.readWord (tr.addr + 4) = countWord tr.count ∧
          t.mem.readWord (tr.addr + 8) = closeCauseCode .age ∧
          t.mem.readWord (tr.addr + 12) = tr.firstPiece.getD 0 ∧ t.mem.readWord (tr.addr + 16) = tr.lastPiece.getD 0 ∧
          t.pageWord (rackOffset tr.index 0) = rackFull ∧
          (∀ a, a ∉ wordsBytes tr.addr (headerWords 0 .age tr) → a ∉ pageBytes s (rackOffset tr.index 0) →
            t.mem.read a = s.mem.read a) ∧
          t.port = portRaised s.port .trayClosed ∧
          t.reports = { s.reports with
            serial := if s.reports.serial = BitVec.allOnes 32 then 1 else s.reports.serial + 1
            tray := none, ageTimer := none, closeDue := false, filingDue := false } ∧
          t = { s with now := max s.now d, mem := t.mem, port := t.port, reports := t.reports }

/-- INTAKE_COMPLETE and CRAWL_END: when the intake count has reached the occupant's length while ENTERING, DWELL with the motor on
HOLD and the dwell timer started; when the crawl count has reached CRAWL_STEPS, a cut and the crawl ended (R73, R75, R123, R143). That
the command changes nothing where its condition does not hold is the model's choice (log entry 24). That a cut drops a report of a
ramp tick still outstanding is the model's choice (log entry 35). -/
def Obligations.IntakeAndCrawlComplete : Prop :=
  ∀ s : State,
    (s.intakeDone = true ↔ s.pocket.state = .entering ∧ s.protect.latch = false ∧ s.pocketLength ≤ s.pocket.intake) ∧
      (s.intakeDone = false → exec .intakeComplete s = .next s) ∧
      (s.intakeDone = true → exec .intakeComplete s = .next { s with pocket := { s.pocket with
        state := .dwell, motor := .hold, dwellTimer := some (s.now + s.plan.revDwell) } }) ∧
      (s.crawlEnds = true ↔ s.protect.crawling = true ∧ s.plan.crawlSteps ≤ s.protect.crawlCount) ∧
      (s.crawlEnds = false → exec .crawlEnd s = .next s) ∧
      (s.crawlEnds = true → exec .crawlEnd s = .next { s with
        drive := { s.drive with code := 0, target := 0, rampTimer := none, report := none }
        protect := { s.protect with crawling := false } })

/-! ## The action schedule -/

/-- GATE_OPEN: a due open sets its gate OPEN whatever its level, an overdue one does so at its insertion, no other gate moves, and with
the jam latch set no open is taken; GATE_CLOSE likewise, CLOSED (R58, R59, R63, R66, R67). That an insertion asked for with the latch
set is not made is the model's reading (log entry 17). -/
def Obligations.GateEntriesMoveGates : Prop :=
  ∀ (s : State) (g : Gate) (p : PieceNo) (due : Pos),
    (s.dueEntry = some ⟨.gateOpen g, p, due⟩ →
      exec .gateOpen s = .next { s with
        schedule := s.schedule.tail, gates := s.gates.set (gateIdx g) .opened (gateIdx g).isLt }) ∧
      (s.dueEntry = some ⟨.gateClose g, p, due⟩ →
        exec .gateClose s = .next { s with
          schedule := s.schedule.tail, gates := s.gates.set (gateIdx g) .closed (gateIdx g).isLt }) ∧
      (s.protect.latch = true → exec .gateOpen s = .next s ∧ exec .gateClose s = .next s ∧
        s.insertEntry ⟨.gateOpen g, p, due⟩ = s ∧ s.insertEntry ⟨.gateClose g, p, due⟩ = s) ∧
      (s.protect.latch = false → isAhead due s.position = false →
        (s.insertEntry ⟨.gateOpen g, p, due⟩).gate g = .opened ∧ (s.insertEntry ⟨.gateClose g, p, due⟩).gate g = .closed ∧
          ∀ h, h ≠ g → (s.insertEntry ⟨.gateOpen g, p, due⟩).gate h = s.gate h ∧
            (s.insertEntry ⟨.gateClose g, p, due⟩).gate h = s.gate h)

/-- Inserting a pending GATE_OPEN removes exactly the closes of that gate that belong to other pieces and whose due the new due
precedes or equals; the new entry follows every entry whose due precedes or equals its own and stands before the first whose due
its own precedes; no gate moves (R2, R58, R70). -/
def Obligations.SameGateSpansJoin : Prop :=
  (∀ a b : Pos, (isAhead a b = true ↔ 1 ≤ (a - b).toNat ∧ (a - b).toNat ≤ 32767) ∧ precedes a b = isAhead b a) ∧
  ∀ (s : State) (g : Gate) (p : PieceNo) (due : Pos), s.protect.latch = false → isAhead due s.position = true →
    let kept := s.schedule.filter (fun x =>
      !(x.kind == .gateClose g && x.piece != p && (precedes due x.due || due == x.due)))
    ∃ t before after, s.insertEntry ⟨.gateOpen g, p, due⟩ = t ∧ kept = before ++ after ∧
      t.schedule = before ++ ⟨.gateOpen g, p, due⟩ :: after ∧
      (∀ x ∈ before, precedes due x.due = false) ∧ (∀ x, after.head? = some x → precedes due x.due = true) ∧
      t = { s with schedule := t.schedule }

/-- PRINT_START taken at its due begins the piece's impression at the present position: column 0 is fired at once, and with one column
only the impression is over; an impression in progress first ends PARTIAL, with no further column. Where a step brings the belt to the
due of a PRINT_START while an impression runs, the earlier impression fires its column of that position if the step comes first and
not if the entry does, and ends PARTIAL; the new one fires its column 0 in both orders. A PRINT_START overdue at its insertion begins
at once with the column that belongs to the present position, the columns passed being skipped, and ends PARTIAL with its last column,
or with none where all are passed. The dots fired are added to DOTS, with its carry flag and CARRY where it wraps (R58, R59, R100, R101,
R102, R103, R104, R154). That the printhead shows column 0 of the new impression
also where the earlier one has fired its own column at the same position is the model's reading (log entry 20). -/
def Obligations.PrintStartFiresFirstColumn : Prop :=
  (∀ (s : State) (p : PieceNo) (r : Record) (pl : CancelPlan), s.dueEntry = some ⟨.printStart, p, s.position⟩ →
    (∀ j, s.printer.job = some j → j.piece ≠ p) → s.record? p = some r → r.plan = some pl → 1 ≤ pl.killer + pl.die →
    let j : Impression := ⟨p, s.position, pl.killer, pl.die, pl.bank, r.slot, 0, false⟩
    ∃ t, exec .printStart s = .next t ∧ t.printer.head = s.columnWord j 0 ∧ t.schedule = s.schedule.tail ∧
      (1 < pl.killer + pl.die → t.printer.job = some { j with next := 1 }) ∧
      (pl.killer + pl.die = 1 → t.printer.job = none) ∧
      tallied s t [] [] (dotsOf (s.columnWord j 0)) ∧
      (∃ r', t.record? p = some r' ∧ r'.dots = r.dots + dotsOf (s.columnWord j 0) ∧
        (pl.killer + pl.die = 1 → r'.result = if pl.policy = .full then .full else .dieOnly)) ∧
      (∀ q, q ≠ p → t.record? q = (s.record? q).map (fun y =>
        if s.printer.job.map (·.piece) = some q then
          { y with result := .incomplete, flags := { y.flags with incomplete := true } } else y)) ∧
      t = { s with
        schedule := t.schedule, printer := { s.printer with job := t.printer.job, head := t.printer.head },
        records := t.records, tally := t.tally, port := t.port }) ∧
  (∀ (s : State) (p : PieceNo) (r : Record) (pl : CancelPlan) (due : Pos), s.protect.latch = false →
    isAhead due s.position = false → (∀ j, s.printer.job = some j → j.piece ≠ p) → s.record? p = some r →
    r.plan = some pl → 1 ≤ pl.killer + pl.die →
    let d := (s.position - due).toNat
    let cols := pl.killer + pl.die
    let j : Impression := ⟨p, due, pl.killer, pl.die, pl.bank, r.slot, d, decide (0 < d)⟩
    let result := if 0 < d then CancelResult.incomplete else if pl.policy = .full then .full else .dieOnly
    let t := s.insertEntry ⟨.printStart, p, due⟩
    (d < cols → t.printer.head = s.columnWord j d ∧
      tallied s t [] [] (dotsOf (s.columnWord j d)) ∧
      t.printer.job = (if d + 1 < cols then some { j with next := d + 1 } else none) ∧
      ∃ r', t.record? p = some r' ∧ r' = { r with
        dots := r.dots + dotsOf (s.columnWord j d), result := r'.result, flags := r'.flags } ∧
        (d + 1 < cols → r'.result = r.result ∧ r'.flags = r.flags) ∧
        (cols = d + 1 → r'.result = result ∧
          r'.flags = { r.flags with incomplete := r.flags.incomplete || decide (0 < d) })) ∧
    (cols ≤ d → t.printer.job = none ∧ t.printer.head = s.printer.head ∧ t.tally = s.tally ∧ t.port = s.port ∧
      t.record? p = some { r with result := .incomplete, flags := { r.flags with incomplete := true } }) ∧
    (∀ q, q ≠ p → t.record? q = (s.record? q).map (fun y =>
      if s.printer.job.map (·.piece) = some q then
        { y with result := .incomplete, flags := { y.flags with incomplete := true } } else y)) ∧
    t = { s with
      printer := { s.printer with job := t.printer.job, head := t.printer.head }, records := t.records, tally := t.tally,
      port := t.port }) ∧
  ∀ (s : State) (x : SampleSet) (p : PieceNo) (r old : Record) (pl : CancelPlan) (i : Impression) (rest : List Entry),
    s.protect.latch = false → s.schedule = ⟨.printStart, p, s.position + 1⟩ :: rest →
    (∀ e ∈ rest.head?, e.due ≠ s.position + 1) → s.scan.window = none → s.intakeDone = false → s.crawlEnds = false →
    s.printer.job = some i → i.piece ≠ p → i.next + 1 < i.killer + i.die → s.record? i.piece = some old →
    s.record? p = some r → r.plan = some pl → 1 ≤ pl.killer + pl.die →
    let j : Impression := ⟨p, s.position + 1, pl.killer, pl.die, pl.bank, r.slot, 0, false⟩
    let ended := fun (t : State) (dots : Nat) =>
      t.printer.head = s.columnWord j 0 ∧ t.schedule = rest ∧ t.position = s.position + 1 ∧
        t.printer.job = (if 1 < pl.killer + pl.die then some { j with next := 1 } else none) ∧
        t.record? i.piece = some { old with
          dots := dots, result := .incomplete, flags := { old.flags with incomplete := true } } ∧
        ∃ r', t.record? p = some r' ∧ r'.dots = r.dots + dotsOf (s.columnWord j 0)
    (∃ t, exec (.forwardStep ⟨x, .entriesFirst⟩) s = .next t ∧ ended t old.dots) ∧
      ∃ u t, exec (.forwardStep ⟨x, .stepFirst⟩) s = .next u ∧ exec .printStart u = .next t ∧
        ended t (if s.position + 1 = posAdd i.base i.next then old.dots + dotsOf (s.columnWord i i.next) else old.dots)

/-- CELL_DEADLINE taken while the piece's expectation stands is MISSING and trips, the expectation left in its queue; with none standing
it changes nothing more; OVERSTAY taken trips; and either of them, overdue at its insertion, does the same at once, without a place in
the sequence (R10, R11, R58, R59, R139, R140). -/
def Obligations.DeadlinesTrip : Prop :=
  ∀ (s : State) (c : Cell) (p : PieceNo) (due : Pos), s.mem.wf = true → s.run.state.isRunning = true →
    let u := { s with schedule := s.schedule.tail }
    (s.dueEntry = some ⟨.cellDeadline c, p, due⟩ → (∃ x ∈ s.queue c, x.who = .piece p) →
      ∃ t, exec .cellDeadline s = .next t ∧ tripped u t .missing (some c) due (some p) ∧ t.cellUnit = s.cellUnit ∧
        t.position = s.position ∧ t.reports = s.reports ∧ t.pending = s.pending) ∧
      (s.dueEntry = some ⟨.cellDeadline c, p, due⟩ → (∀ x ∈ s.queue c, x.who ≠ .piece p) →
        exec .cellDeadline s = .next u) ∧
      (s.dueEntry = some ⟨.overstay c, p, due⟩ →
        ∃ t, exec .overstay s = .next t ∧ tripped u t .overstay (some c) due (some p) ∧ t.cellUnit = s.cellUnit ∧
          t.position = s.position ∧ t.reports = s.reports ∧ t.pending = s.pending) ∧
      (s.protect.latch = false → isAhead due s.position = false →
        (∀ t, t = s.insertEntry ⟨.cellDeadline c, p, due⟩ →
          ((∃ x ∈ s.queue c, x.who = .piece p) → tripped s t .missing (some c) due (some p) ∧ t.cellUnit = s.cellUnit ∧
            t.position = s.position ∧ t.reports = s.reports ∧ t.pending = s.pending) ∧
          ((∀ x ∈ s.queue c, x.who ≠ .piece p) → t = s)) ∧
        ∀ t, t = s.insertEntry ⟨.overstay c, p, due⟩ → tripped s t .overstay (some c) due (some p) ∧
          t.cellUnit = s.cellUnit ∧ t.position = s.position ∧ t.reports = s.reports ∧ t.pending = s.pending)

/-- MOVE_REPORTS runs in every state and changes line memory, the report unit, the feed and attention only. With ENABLE 0 or nothing
held no report moves. With a tray open the head of the queue goes into the place that follows the last, the 32nd report closes the
tray FULL, and the moves go on from there; with none open and the shortage of trays not yet found, the rack is searched first. While
the tray has places left for all, the k-th report held stands, in the layout of a piece report, in place count + k + 1, the first
and last piece are those of the tray's first and last report, and no byte outside those places changes (R135, R157, R160, R161,
R162, R163, R164, R165, R178, R179). That the moves are one step of their own is the model's choice (log entry 9). -/
def Obligations.ReportsFillOpenTray : Prop :=
  ∀ s : State,
    (∃ t, exec .moveReports s = .next t ∧ t.reports.filingDue = false ∧ t.tally = s.tally ∧ t.run.state = s.run.state ∧
      t.run.request = s.run.request ∧ t.port = { s.port with causes := t.port.causes, seen := t.port.seen } ∧
      t = { s with mem := t.mem, reports := t.reports, run := t.run, port := t.port }) ∧
    (s.port.enable = false ∨ s.reports.held = [] → exec .moveReports s = .next { s with
      reports := { s.reports with filingDue := false } }) ∧
    (s.port.enable = true → s.reports.held ≠ [] → s.reports.tray = none →
      (s.reports.starved = true → exec .moveReports s = .next { s with
        reports := { s.reports with filingDue := false } }) ∧
      (s.reports.starved = false → ∃ m, rackSearched s m ∧ exec .moveReports s = exec .moveReports m)) ∧
    ∀ (tr : OpenTray) (x : Report) (rest : List Report), s.port.enable = true → s.reports.tray = some tr →
      s.reports.held = x :: rest →
      (∃ u, movedReport s u tr x rest ∧
        (tr.count ≠ 31 → exec .moveReports s = exec .moveReports u) ∧
        (tr.count = 31 → ∃ m, closedTray u m { tr with
            count := 32, firstPiece := some (tr.firstPiece.getD x.piece.number), lastPiece := some x.piece.number } .full ∧
          exec .moveReports s = exec .moveReports m)) ∧
      (rest = [] → tr.count = 31 → ∃ t, exec .moveReports s = .next t ∧ t.reports.held = [] ∧ t.reports.tray = none ∧
        t.reports.serial = nextSerial s.reports.serial ∧ t.port = portRaised s.port .trayClosed) ∧
      (tr.count + (x :: rest).length < 32 →
      ∃ t, exec .moveReports s = .next t ∧ t.reports.held = [] ∧
        t.reports.tray = some { tr with
          count := tr.count + (x :: rest).length
          firstPiece := some (tr.firstPiece.getD x.piece.number)
          lastPiece := ((x :: rest).getLast?).map (·.piece.number) } ∧
        t.reports.ageTimer = (if tr.count = 0 then some (s.now + s.plan.trayAge) else s.reports.ageTimer) ∧
        t.reports.serial = s.reports.serial ∧ t.reports.filingDue = false ∧
        (s.mem.wf = true → ∀ k y, (x :: rest)[k]? = some y → holdsReport t.mem (placeAt tr (tr.count + k + 1)) y) ∧
        (rest = [] → t.mem = s.mem.writeWords (placeAt tr (tr.count + 1)) (reportWords x)) ∧
        (∀ a : Word, (a - tr.addr).toNat < 32 + 64 * tr.count ∨
          32 + 64 * (tr.count + (x :: rest).length) ≤ (a - tr.addr).toNat → t.mem.read a.toNat = s.mem.read a.toNat) ∧
        t.run.state = s.run.state ∧ t.run.request = s.run.request ∧
        t = { s with mem := t.mem, reports := t.reports, run := t.run })

/-! ## Requests -/

/-- LOAD PLAN, START, LOAD KILLER outside IDLE, DRAIN outside STARTING and RUNNING, STOP outside STARTING, RUNNING and DRAINING, and
CLEAR JAM outside JAMMED complete WRONG_STATE and change nothing but the cell (R91, R126, R128, R130, R148, R173, R174). -/
def Obligations.WrongStateIsRefused : Prop :=
  ∀ (s : State) (cell : Fin 8) (tag bank columns : Word), s.mem.wf = true → s.canTake cell = true →
    let refused := fun i : Instr => ∃ t, exec i s = .next t ∧ answered s t cell tag .wrongState 0 ∧
      t = { s with mem := t.mem, port := t.port }
    (s.run.state ≠ .idle → refused (.loadPlan cell tag) ∧ refused (.start cell tag) ∧
        refused (.loadKiller cell tag bank columns)) ∧
      (s.run.state ≠ .starting → s.run.state ≠ .running → refused (.drain cell tag)) ∧
      (s.run.state ≠ .starting → s.run.state ≠ .running → s.run.state ≠ .draining → refused (.stop cell tag)) ∧
      (s.run.state ≠ .jammed → refused (.clearJam cell tag))

/-- LOAD PLAN in IDLE: the first check, of the 38 rows of the plan area table, that fails refuses the copy PLAN_INVALID with its
number and leaves the working plan; a copy that passes every check becomes the valid working plan, and still detection is measured
against its STILL_TIME from the last step (R174, R179, R124). That this holds too with the still flag already yes, the timer then
starting again and the flag staying yes until a step, is the model's reading (log entry 15). Which words of the routing row are which
route is its reading too (log entry 28). -/
def Obligations.LoadPlanChecks : Prop :=
  ∀ (s : State) (cell : Fin 8) (tag : Word), s.mem.wf = true → s.canTake cell = true → s.run.state = .idle →
    s.protect.latch = false →
    let f := fun o : Nat => (s.pageWord o).toNat
    (∀ n, planFailsAt f n →
      ∃ t, exec (.loadPlan cell tag) s = .next t ∧ answered s t cell tag .planInvalid (BitVec.ofNat 32 n) ∧
        t = { s with mem := t.mem, port := t.port }) ∧
      (planPasses f →
        ∃ t, exec (.loadPlan cell tag) s = .next t ∧ answered s t cell tag .ok 0 ∧ holdsPlan f t.plan ∧
          t.drive = (if s.lastStep + f 0xC4 ≤ s.now then { s.drive with still := true, stillTimer := none }
            else { s.drive with stillTimer := some (s.lastStep + f 0xC4) }) ∧
          t = { s with plan := t.plan, planValid := true, drive := t.drive, mem := t.mem, port := t.port })

/-- The checks of a copied plan area are the 38 rows of its table: no check fails exactly when the copy meets every row, and check n is
the first that fails exactly when row n is the first it does not meet; a copy that passes gives each plan field the value in its row. So
the working plan has the stations in order, the clearances of checks 35 to 38 and the ranges the other chapters rely on (R40, R174,
R179). Which words of the routing row are which route is the model's reading (log entry 28). -/
def Obligations.PassingPlanIsUsable : Prop :=
  (∀ l : List Nat,
    let f := fun o : Nat => l.getD (o / 4) 0
    (firstFailing (planChecks l) = none ↔ planPasses f) ∧ (∀ n, firstFailing (planChecks l) = some n ↔ planFailsAt f n) ∧
      (planPasses f → holdsPlan f (planOfWords l))) ∧
  ∀ (f : Nat → Nat) (pl : Plan), planPasses f → holdsPlan f pl →
    let within := fun lo x hi : Nat => lo ≤ x ∧ x ≤ hi
    pl.dScan < pl.dTwist ∧ pl.dTwist < pl.dRev ∧ pl.dRev < pl.dMerge ∧ pl.dMerge < pl.dCancel ∧ pl.dCancel < pl.dStk1 ∧
      pl.dStk1 < pl.dStk2 ∧ pl.dStk2 < pl.dStk3 ∧ pl.dStk3 < pl.dStk4 ∧ pl.dStk4 < pl.dStk5 ∧ pl.dStk5 < pl.dEnd ∧
      pl.dEnd ≤ 16000 ∧ pl.dRev < pl.dPocket ∧ pl.dPocket ≤ 16000 ∧ pl.minGap < pl.dScan ∧
      pl.gateLead + pl.gateLag ≤ pl.minGap ∧ 2 * pl.cellTol < pl.minGap ∧ pl.minLen + pl.gateLead + pl.dScan ≤ pl.dTwist ∧
      100 ≤ pl.minLen ∧ pl.minLen ≤ 400 ∧ pl.minLen < pl.maxLen ∧ pl.maxLen ≤ 800 ∧ 1 ≤ pl.offLevel ∧
      pl.offLevel ≤ pl.onLevel ∧ pl.onLevel ≤ 255 ∧ pl.mtrRMin ≤ pl.mtrRMax ∧ pl.mtrRMax < pl.tagRMin ∧
      pl.tagRMin ≤ 255 ∧ 1 ≤ pl.crawlCode ∧ pl.crawlCode ≤ pl.runCode ∧ 64 ≤ pl.runCode ∧ pl.runCode ≤ 1023 ∧
      1 ≤ pl.codeStep ∧ pl.codeStep ≤ 64 ∧ 1 ≤ pl.b1 ∧ pl.b1 < pl.b2 ∧ pl.b2 < pl.b3 ∧ pl.b3 < pl.b4 ∧ pl.b4 ≤ 1023 ∧
      50 ≤ pl.stillTime ∧ pl.stillTime ≤ 1000 ∧ within 16 pl.endWin 1023 ∧ within 1 pl.ambig 16 ∧
      within 1 pl.mergeRatio 4 ∧ within 2 pl.cellTol 200 ∧ within 40 pl.dRelease 2000 ∧ within 20 pl.minGap 400 ∧
      pl.gateLead ≤ 200 ∧ pl.gateLag ≤ 200 ∧ 1 ≤ pl.tagLenMin ∧ pl.tagLenMin ≤ pl.tagLenMax ∧ pl.tagLenMax ≤ 1023 ∧
      1 ≤ pl.mtrLenMin ∧ pl.mtrLenMin ≤ pl.mtrLenMax ∧ pl.mtrLenMax ≤ 1023 ∧ pl.killLead ≤ 64 ∧ pl.tailMargin ≤ 200 ∧
      within 20 pl.revDwell 500 ∧ within 100 pl.revMaxHold 5000 ∧ within 1 pl.rampTick 16 ∧ pl.crawlSteps ≤ 4000 ∧
      within 10 pl.trayAge 10000

/-- START in IDLE: without a valid plan PLAN_INVALID, with images missing NOT_READY (the slot the first admission will
record, for a policy that prints, and the bank of each class of policy FULL), with the guard open GUARD_OPEN, in this order;
otherwise it becomes the pending request with its cell TAKEN, the run STARTING with the feed held, the previous trail and piece
absent, and the target RUN_CODE with the ramp timer started (R93, R121, R126). -/
def Obligations.StartIsChecked : Prop :=
  (∀ s : State, s.imagesReady = true ↔
    ((s.plan.policyTag ≠ .nothing ∨ s.plan.policyMeter ≠ .nothing) →
        (s.printer.slots.get (s.printer.waiting.getD s.printer.active)).columns ≠ []) ∧
      (s.plan.policyTag = .full → s.printer.banks.get s.plan.bankTag ≠ []) ∧
      (s.plan.policyMeter = .full → s.printer.banks.get s.plan.bankMeter ≠ [])) ∧
  ∀ (s : State) (cell : Fin 8) (tag : Word), s.mem.wf = true → s.canTake cell = true → s.run.state = .idle →
    (∀ c, (s.planValid = false ∧ c = .planInvalid) ∨ (s.planValid = true ∧ s.imagesReady = false ∧ c = .notReady) ∨
        (s.planValid = true ∧ s.imagesReady = true ∧ s.protect.guardIsOpen = true ∧ c = .guardOpen) →
      ∃ t, exec (.start cell tag) s = .next t ∧ answered s t cell tag c 0 ∧
        t = { s with mem := t.mem, port := t.port }) ∧
      (s.planValid = true → s.imagesReady = true → s.protect.guardIsOpen = false → s.drive.code ≠ s.plan.runCode →
        ∃ t, exec (.start cell tag) s = .next t ∧ taken s t cell ∧ t.run.state = .starting ∧
          t.run.request = some ⟨.start, cell, tag⟩ ∧ t.run.feedEnable = false ∧ t.run.hold.notRunning = true ∧
          t.admission = { s.admission with prevTrail := none, prevPiece := none } ∧
          t.drive = { s.drive with
            target := s.plan.runCode, rampTimer := some (s.drive.rampTimer.getD (s.now + s.plan.rampTick)) } ∧
          t = { s with
            run := t.run, admission := t.admission, drive := t.drive, mem := t.mem, port := t.port })

/-- DRAIN and STOP accepted: DRAIN in RUNNING with work on the lane makes the run DRAINING at speed; with none it passes straight out
of DRAINING; STOP in RUNNING asks for target 0 in STOPPING; DRAIN and STOP in STARTING, and STOP in DRAINING, first complete the
pending request SUPERSEDED and then stop; a belt already still at code 0 takes the run to IDLE at once, with every piece reported
STRANDED and the request answered with their number (R128, R129, R130, R131, R132). That a cut drops a report of a ramp tick still
outstanding is the model's choice (log entry 35). -/
def Obligations.DrainAndStopAreAccepted : Prop :=
  ∀ (s : State) (cell : Fin 8) (tag : Word), s.mem.wf = true → s.canTake cell = true →
    let stopped := fun (i : Instr) (k : RunKind) =>
      ¬ (s.drive.code = 0 ∧ s.drive.still = true) →
        ∃ t, exec i s = .next t ∧ t.run.state = .stopping ∧ t.run.request = some ⟨k, cell, tag⟩ ∧
          t.run.feedEnable = false ∧ t.drive = { s.drive with target := 0, rampTimer := t.drive.rampTimer } ∧
          t.pageWord (requestOffset cell 0) = cellTaken ∧
          (∀ q, s.run.request = some q → holdsAnswer t q.cell q.tag .superseded 0 ∧
            keptOutside s t (answerBytes s q.cell ++ cellStateBytes s cell)) ∧
          (s.run.request = none → taken s t cell) ∧
          t = { s with run := t.run, drive := t.drive, mem := t.mem, port := t.port }
    let toIdle := fun (t : State) (k : RunKind) =>
      ∃ u : State, idleEntered u t (some ⟨k, cell, tag⟩) ∧
        (∀ q, s.run.request = some q → holdsAnswer u q.cell q.tag .superseded 0 ∧
          keptOutside s u (answerBytes s q.cell ++ cellStateBytes s cell)) ∧
        (s.run.request = none → keptOutside s u (cellStateBytes s cell)) ∧
        u = { s with mem := u.mem, port := u.port }
    (s.run.state = .running → s.run.request = none → (s.records ≠ [] ∨ s.pocket.state ≠ .empty) →
      ∃ t, exec (.drain cell tag) s = .next t ∧ taken s t cell ∧ t.run.state = .draining ∧
        t.run.request = some ⟨.drain, cell, tag⟩ ∧ t.run.feedEnable = false ∧
        t = { s with run := t.run, mem := t.mem, port := t.port }) ∧
      (s.run.state = .running → s.run.request = none → s.records = [] → s.pocket.state = .empty →
        stopped (.drain cell tag) .drain) ∧
      (s.run.state = .starting → stopped (.drain cell tag) .drain) ∧
      (s.run.state = .starting ∨ s.run.state = .running ∨ s.run.state = .draining → stopped (.stop cell tag) .stop) ∧
      (s.run.state = .starting ∨ s.run.state = .running ∨ s.run.state = .draining → s.drive.code = 0 →
        s.drive.still = true → ∃ t, exec (.stop cell tag) s = .next t ∧ t.run.state = .idle ∧ t.records = [] ∧
          toIdle t .stop) ∧
      (s.run.state = .starting ∨ (s.run.state = .running ∧ s.run.request = none ∧ s.records = [] ∧ s.pocket.state = .empty) →
        s.drive.code = 0 → s.drive.still = true →
        ∃ t, exec (.drain cell tag) s = .next t ∧ t.run.state = .idle ∧ t.records = [] ∧ toIdle t .drain)

/-- SET IMPRESSION: BAD_ARGUMENT, SLOT_ACTIVE and NOT_READY in this order; otherwise the columns of the staging area are the slot's
die, the slot is in place when active and else becomes the pending one, and the count is the result (R89, R90). -/
def Obligations.SetImpressionLoads : Prop :=
  ∀ (s : State) (cell : Fin 8) (tag slot columns : Word), s.mem.wf = true → s.canTake cell = true →
    let bad := 2 ≤ slot.toNat ∨ columns.toNat < 1 ∨ 64 < columns.toNat
    let i : Fin 2 := Fin.ofNat 2 slot.toNat
    let refused := fun c => ∃ t, exec (.setImpression cell tag slot columns) s = .next t ∧
      answered s t cell tag c 0 ∧ t = { s with mem := t.mem, port := t.port }
    (bad → refused .badArgument) ∧
      (¬ bad → i = s.printer.active → s.run.state ≠ .idle → refused .slotActive) ∧
      (¬ bad → i ≠ s.printer.active → 0 < (s.printer.slots.get i).inUse → refused .notReady) ∧
      (¬ bad → (i = s.printer.active → s.run.state = .idle) →
        (i ≠ s.printer.active → (s.printer.slots.get i).inUse = 0) →
        ∃ t, exec (.setImpression cell tag slot columns) s = .next t ∧ answered s t cell tag .ok columns ∧
          t.printer.slots.get i = { s.printer.slots.get i with columns := s.stagedColumns columns.toNat } ∧
          (∀ k, k ≠ i → t.printer.slots.get k = s.printer.slots.get k) ∧
          t.printer.waiting = (if i = s.printer.active then s.printer.waiting else some i) ∧
          t = { s with
            mem := t.mem, port := t.port
            printer := { s.printer with slots := t.printer.slots, waiting := t.printer.waiting } })

/-- LOAD KILLER: WRONG_STATE outside IDLE, then BAD_ARGUMENT for a bank outside 0 to 3 or a count outside 1 to 96 columns; otherwise
the columns of the staging area are the bank's killer, the count is its column count and the result, and nothing else changes
(R91). -/
def Obligations.LoadKillerRule : Prop :=
  ∀ (s : State) (cell : Fin 8) (tag bank columns : Word), s.mem.wf = true → s.canTake cell = true →
    let bad := 3 < bank.toNat ∨ columns.toNat < 1 ∨ 96 < columns.toNat
    let b : Fin 4 := Fin.ofNat 4 bank.toNat
    let refused := fun c => ∃ t, exec (.loadKiller cell tag bank columns) s = .next t ∧
      answered s t cell tag c 0 ∧ t = { s with mem := t.mem, port := t.port }
    (s.run.state ≠ .idle → refused .wrongState) ∧
      (s.run.state = .idle → bad → refused .badArgument) ∧
      (s.run.state = .idle → ¬ bad →
        ∃ t, exec (.loadKiller cell tag bank columns) s = .next t ∧ answered s t cell tag .ok columns ∧
          (t.printer.banks.get b).length = columns.toNat ∧
          (∀ c, c < columns.toNat → (t.printer.banks.get b)[c]? = some (s.pageWord (0x800 + 4 * c))) ∧
          (∀ k, k ≠ b → t.printer.banks.get k = s.printer.banks.get k) ∧
          t = { s with mem := t.mem, port := t.port, printer := { s.printer with banks := t.printer.banks } })

/-- SET STACKER: BAD_ARGUMENT for a stacker outside 1 to 5 or a service other than OUT and IN, and nothing changes; otherwise, in every
run state, the stacker's service becomes the value given, the result is 1 when it is then available and 0 when not, and nothing
else changes, so that pieces already bound for it keep their entries (R109). -/
def Obligations.SetStackerRule : Prop :=
  ∀ (s : State) (cell : Fin 8) (tag stacker service : Word), s.mem.wf = true → s.canTake cell = true →
    let bad := stacker.toNat < 1 ∨ 5 < stacker.toNat ∨ 1 < service.toNat
    let i : Fin 5 := Fin.ofNat 5 (stacker.toNat - 1)
    (bad → ∃ t, exec (.setStacker cell tag stacker service) s = .next t ∧ answered s t cell tag .badArgument 0 ∧
        t = { s with mem := t.mem, port := t.port }) ∧
      (¬ bad → ∃ t, exec (.setStacker cell tag stacker service) s = .next t ∧
        answered s t cell tag .ok (if service = 1 ∧ s.router.full.get i = .inactive then 1 else 0) ∧
        (t.router.inService.get i = true ↔ service = 1) ∧
        (∀ k, k ≠ i → t.router.inService.get k = s.router.inService.get k) ∧
        t = { s with
          mem := t.mem, port := t.port, router := { s.router with inService := t.router.inService } })

/-- SNAPSHOT TALLIES: BAD_ARGUMENT for a CLEAR other than 0 and 1; otherwise the snapshot number rises by one and is the result, the
tally area shows it with the run state, CLEAR, every counter and every carry flag as they stood, and CLEAR 1 zeroes them in the
same act (R155, R156, R179). That words 6 and 7 of the tally area stay as they were is the model's reading (log entry 16). -/
def Obligations.SnapshotCopiesCounters : Prop :=
  ∀ (s : State) (cell : Fin 8) (tag clear : Word), s.mem.wf = true → s.canTake cell = true →
    let at' := fun w : Nat => tallyOffset + 4 * w
    (1 < clear.toNat → ∃ t, exec (.snapshotTallies cell tag clear) s = .next t ∧
        answered s t cell tag .badArgument 0 ∧ t = { s with mem := t.mem, port := t.port }) ∧
      (clear.toNat ≤ 1 → ∃ t, exec (.snapshotTallies cell tag clear) s = .next t ∧
        holdsAnswer t cell tag .ok ((s.tally.snapshot + 1).setWidth 32) ∧
        t.port = portRaised (s.port) .requestDone ∧
        t.pageWord (at' 0) = (s.tally.snapshot + 1).setWidth 32 ∧ t.pageWord (at' 1) = runStateCode s.run.state ∧
        t.pageWord (at' 2) = clear ∧
        (∀ i : Fin 29, t.pageWord (at' (8 + i.val)) = (s.tally.pieces.get i).setWidth 32 ∧
          (t.pageWord (at' 3)).getLsbD i.val = s.tally.pieceCarry.get i) ∧
        (∀ i : Fin 14, t.pageWord (at' (37 + i.val)) = (s.tally.events.get i).setWidth 32 ∧
          (t.pageWord (at' 4)).getLsbD i.val = s.tally.eventCarry.get i) ∧
        t.pageWord (at' 51) = s.tally.dots ∧ (t.pageWord (at' 5)).getLsbD 0 = s.tally.dotsCarry ∧
        (∀ a, (∀ w, w < 52 → w ≠ 6 → w ≠ 7 → a ∉ pageBytes s (at' w)) → a ∉ answerBytes s cell →
          t.mem.read a = s.mem.read a) ∧
        t.tally = (if clear = 1 then
            { pieces := Vector.replicate 29 0, pieceCarry := Vector.replicate 29 false,
              events := Vector.replicate 14 0, eventCarry := Vector.replicate 14 false, dots := 0, dotsCarry := false,
              snapshot := s.tally.snapshot + 1 }
          else { s.tally with snapshot := s.tally.snapshot + 1 }) ∧
        t = { s with mem := t.mem, port := t.port, tally := t.tally })

/-- CLOSE TRAY: with no tray open NOTHING_TO_CLOSE and nothing changes; with one open it closes, its rack entry FULL, TRAY_CLOSED
raised and the serial advanced, and the answer carries the closed tray's serial; reports still held then move
as MOVE_REPORTS moves them, a tray being searched for (in the same act: log entry 19); a tray that lies apart from the page's rack entry
and the request cell has its header read back (R160, R162, R165, R166). -/
def Obligations.CloseTrayCloses : Prop :=
  ∀ (s : State) (cell : Fin 8) (tag : Word), s.mem.wf = true → s.canTake cell = true →
    (s.reports.tray = none → ∃ t, exec (.closeTray cell tag) s = .next t ∧
        answered s t cell tag .nothingToClose 0 ∧ t = { s with mem := t.mem, port := t.port }) ∧
      (∀ tr, s.reports.tray = some tr → ∃ t m u, exec (.closeTray cell tag) s = .next t ∧
        closedTray { s with mem := s.mem.writeWord (s.pageAt (requestOffset cell 0)) cellTaken } m tr .request ∧
        answered m u cell tag .ok s.reports.serial ∧ u = { m with mem := u.mem, port := u.port } ∧
        exec .moveReports u = .next t) ∧
      ∀ tr, s.reports.tray = some tr → s.reports.held = [] →
        ∃ t, exec (.closeTray cell tag) s = .next t ∧ holdsAnswer t cell tag .ok s.reports.serial ∧
          t.pageWord (rackOffset tr.index 0) = rackFull ∧
          ((∀ k, k < 8 → wordsApart (tr.addr + BitVec.ofNat 32 (4 * k)) (s.pageAt (rackOffset tr.index 0)) ∧
              ∀ w, w < 8 → wordsApart (tr.addr + BitVec.ofNat 32 (4 * k)) (s.pageAt (requestOffset cell w))) →
            t.mem.readWord tr.addr = s.reports.serial ∧ t.mem.readWord (tr.addr + 4) = countWord tr.count ∧
              t.mem.readWord (tr.addr + 8) = closeCauseCode .request) ∧
          t.port = portRaised (portRaised (s.port) .trayClosed) .requestDone ∧
          t.reports = { s.reports with
            serial := nextSerial s.reports.serial, tray := none, ageTimer := none, closeDue := false,
            filingDue := false } ∧
          keptOutside s t (wordsBytes tr.addr (headerWords 0 .request tr) ++ pageBytes s (rackOffset tr.index 0) ++
            answerBytes s cell) ∧
          t = { s with mem := t.mem, port := t.port, reports := t.reports }

/-- CLEAR JAM in JAMMED: NOT_STILL while the belt steps, then CELLS_COVERED with the number of the first covered cell; otherwise the
purge: every piece reported PURGED in order of admission, MISSING on the trip piece of a MISSING trip, counted in the counters of R152, with
the carry flags and CARRY of those that wrap, and freed; the pocket
EMPTY with its motor IN; the schedule, queues and latch cleared, the run IDLE, the code cut, the record state CLEARED, and the answer
the number of pieces purged (R63, R73, R79, R88, R134, R148, R149, R150, R152, R154). A jam record not yet written is written first (R145),
also where the trip came after step 2 of the scan that takes the CLEAR JAM, which is the model's reading (log entry 34). That a cut
drops a report of a ramp tick still outstanding is the model's choice (log entry 35). -/
def Obligations.ClearJamPurges : Prop :=
  ∀ (s : State) (cell : Fin 8) (tag : Word), s.mem.wf = true → s.canTake cell = true → s.run.state = .jammed →
    (s.drive.still = false → ∃ t, exec (.clearJam cell tag) s = .next t ∧ answered s t cell tag .notStill 0 ∧
        t = { s with mem := t.mem, port := t.port }) ∧
      (∀ c, s.drive.still = true → s.firstCovered = some c →
        ∃ t, exec (.clearJam cell tag) s = .next t ∧ answered s t cell tag .cellsCovered (cellCode c) ∧
          t = { s with mem := t.mem, port := t.port }) ∧
      (s.drive.still = true → (∀ c, (s.cell c).covered = false) → s.run.request = none →
        ∃ t, exec (.clearJam cell tag) s = .next t ∧ t.run.state = .idle ∧ t.records = [] ∧ t.schedule = [] ∧
          (∀ c, t.queue c = []) ∧
          t.protect = { s.protect with
            latch := false, cause := none, cell := none, position := 0, piece := none, furtherTrips := 0,
            crawlCount := 0, crawling := false, recordWritten := false, rewriteDue := false } ∧
          t.drive = { s.drive with code := 0, target := 0, rampTimer := none, report := none } ∧
          t.run.feedEnable = false ∧
          holdsAnswer t cell tag .ok (countWord s.records.length) ∧ t.pageWord jamOffset = recordCleared ∧
          (s.protect.latch = false ∨ s.protect.recordWritten = true →
            s.records = [] → s.reports.held = [] → s.reports.tray = none →
            keptOutside s t (pageBytes s jamOffset ++ answerBytes s cell)) ∧
          ((s.records.map (·.number)).Nodup → s.printer.job = none →
            (∀ c, c = .completed ∨ c = .outcome .purged ∨ c = .dest none →
              t.tally.pieces.get (pieceCounterIdx c) =
                s.tally.pieces.get (pieceCounterIdx c) + BitVec.ofNat 24 s.records.length) ∧
            talliedAmong s t (s.records.flatMap (fun r => reportCounters s.plan r .purged))
              (s.records.flatMap reasonCounters) 0 ∧
            (roomKept s → s.reports.tray = none → (∀ i : Fin 16, s.pageWord (rackOffset i 0) ≠ rackReady) →
              t.reports.held = s.reports.held ++ s.records.map (purgeReport s))) ∧
          (pocketHeld s → (∀ p, s.pocket.occupant = some p → s.record? p ≠ none) →
            t.pocket.state = .empty ∧ t.pocket.occupant = none ∧ t.pocket.motor = .inward) ∧
          t.position = s.position ∧ t.plan = s.plan ∧ t.planValid = s.planValid ∧ t.router = s.router ∧
          t.admission = s.admission ∧ t.printer.banks = s.printer.banks ∧ t.printer.waiting = s.printer.waiting ∧
          (∀ c, (t.cell c).covered = (s.cell c).covered ∧ (t.cell c).coverAt = (s.cell c).coverAt ∧
            (t.cell c).uncoverAt = (s.cell c).uncoverAt) ∧ t.pending = s.pending) ∧
      (s.drive.still = true → (∀ c, (s.cell c).covered = false) → s.protect.latch = true →
        s.protect.recordWritten = false → s.records.length ≤ 32 →
        ∃ u, holdsJamRecord u s ∧ keptOutside s u (jamBytes s s.records.length) ∧
          u = { s with mem := u.mem, protect := { s.protect with recordWritten := true } } ∧
          exec (.clearJam cell tag) s = exec (.clearJam cell tag) u)

/-- A kind outside the ten defined kinds completes at once with UNKNOWN_KIND, and nothing but the cell changes (R172, R173). -/
def Obligations.UnknownKindIsAnswered : Prop :=
  ∀ (s : State) (cell : Fin 8) (tag kind : Word), s.mem.wf = true → s.canTake cell = true →
    (Instr.unknownKind cell tag kind).wellFormed = true →
    ∃ t, exec (.unknownKind cell tag kind) s = .next t ∧ answered s t cell tag .unknownKind 0 ∧
      t = { s with mem := t.mem, port := t.port }

/-! ## Laws that every step keeps -/

/-- The laws hold right after reset. -/
def Obligations.LawsHoldAtReset : Prop :=
  jamSafe State.reset ∧ motorFollows State.reset ∧ pocketHeld State.reset ∧ roomKept State.reset ∧
    feedFollows State.reset ∧ requestFits State.reset ∧ planHeld State.reset ∧ rampFollows State.reset ∧
    tallyBalances State.reset ∧ memoryKept State.reset ∧ portKept State.reset ∧ seenOnlySet State.reset

/-- R141, R72, R73, R148: from every state in which it holds, a step keeps it: while the jam latch is set the run is JAMMED, every gate
is closed, feed enable is off, nothing prints and the pocket motor holds, and JAMMED ends only with the latch; the motor command is the
one the pocket state and the latch call for; and the pocket has an occupant in every state but EMPTY. A step that clears a set latch
is a reset, or a CLEAR JAM with the belt still and every cell uncovered: the command itself, or a cell POSTED with kind 10 that a page
scan takes, made by its own command or, where it is in progress, ahead of a write of ENABLE 0 (log entry 34). -/
def Obligations.StepKeepsJamSafe : Prop :=
  ∀ s t : State, jamSafe s ∧ motorFollows s ∧ pocketHeld s → step s = .next t →
    (jamSafe t ∧ motorFollows t ∧ pocketHeld t) ∧
      (s.protect.latch = true → t.protect.latch = false → latchMayClear s)

/-- R14: a step keeps at most 32 tracked pieces, and at most 48 held reports and tracked pieces together. -/
def Obligations.StepKeepsRoom : Prop :=
  ∀ s t : State, roomKept s → step s = .next t → roomKept t

/-- R135, R136: a step keeps the feed hold reasons true to their causes and feed enable true to the reasons. -/
def Obligations.StepKeepsFeedTrue : Prop :=
  ∀ s t : State, feedFollows s → step s = .next t → feedFollows t

/-- Section 8.3, R125, R121: a step keeps the pending run request the one the run state calls for, the working plan valid outside
IDLE, and the ramp timer stopped exactly while the speed code equals the target. -/
def Obligations.StepKeepsRequestFitting : Prop :=
  ∀ s t : State, requestFits s ∧ planHeld s ∧ rampFollows s → step s = .next t →
    requestFits t ∧ planHeld t ∧ rampFollows t

/-- R152: a step keeps every subgroup of the piece group summing to COMPLETED modulo 2^24. -/
def Obligations.StepKeepsTallyBalance : Prop :=
  ∀ s t : State, tallyBalances s → step s = .next t → tallyBalances t

/-- R168, R170, R175, R176: a step keeps the scan timer running exactly while ENABLE is 1, PAGE ADDRESS the address of a page, SCAN
TAP a defined code, a page scan in progress only with ENABLE 1 and at its last parts, and seen marks on set causes only; and line
memory in its canonical form, so that equal memories are equal data (log entry 3). -/
def Obligations.StepKeepsPortAndMemory : Prop :=
  ∀ s t : State, memoryKept s ∧ portKept s ∧ seenOnlySet s → step s = .next t →
    memoryKept t ∧ portKept t ∧ seenOnlySet t
end

