-- ==== Sys2Proof/Laws/State.lean ====
section
/-! SUPPORT. One lemma for each field a direct update of the state leaves alone, true by rfl, so that no later proof unfolds a record
update. -/

namespace Sys2Proof.Machine

/-! ### storeWord -/

@[simp] theorem State.storeWord_pending (s : State) (a w : Word) : (s.storeWord a w).pending = s.pending := rfl
@[simp] theorem State.storeWord_now (s : State) (a w : Word) : (s.storeWord a w).now = s.now := rfl
@[simp] theorem State.storeWord_position (s : State) (a w : Word) : (s.storeWord a w).position = s.position := rfl
@[simp] theorem State.storeWord_lastStep (s : State) (a w : Word) : (s.storeWord a w).lastStep = s.lastStep := rfl
@[simp] theorem State.storeWord_samples (s : State) (a w : Word) : (s.storeWord a w).samples = s.samples := rfl
@[simp] theorem State.storeWord_cellUnit (s : State) (a w : Word) : (s.storeWord a w).cellUnit = s.cellUnit := rfl
@[simp] theorem State.storeWord_admission (s : State) (a w : Word) : (s.storeWord a w).admission = s.admission := rfl
@[simp] theorem State.storeWord_records (s : State) (a w : Word) : (s.storeWord a w).records = s.records := rfl
@[simp] theorem State.storeWord_scan (s : State) (a w : Word) : (s.storeWord a w).scan = s.scan := rfl
@[simp] theorem State.storeWord_schedule (s : State) (a w : Word) : (s.storeWord a w).schedule = s.schedule := rfl
@[simp] theorem State.storeWord_gates (s : State) (a w : Word) : (s.storeWord a w).gates = s.gates := rfl
@[simp] theorem State.storeWord_pocket (s : State) (a w : Word) : (s.storeWord a w).pocket = s.pocket := rfl
@[simp] theorem State.storeWord_printer (s : State) (a w : Word) : (s.storeWord a w).printer = s.printer := rfl
@[simp] theorem State.storeWord_router (s : State) (a w : Word) : (s.storeWord a w).router = s.router := rfl
@[simp] theorem State.storeWord_drive (s : State) (a w : Word) : (s.storeWord a w).drive = s.drive := rfl
@[simp] theorem State.storeWord_run (s : State) (a w : Word) : (s.storeWord a w).run = s.run := rfl
@[simp] theorem State.storeWord_protect (s : State) (a w : Word) : (s.storeWord a w).protect = s.protect := rfl
@[simp] theorem State.storeWord_tally (s : State) (a w : Word) : (s.storeWord a w).tally = s.tally := rfl
@[simp] theorem State.storeWord_reports (s : State) (a w : Word) : (s.storeWord a w).reports = s.reports := rfl
@[simp] theorem State.storeWord_port (s : State) (a w : Word) : (s.storeWord a w).port = s.port := rfl
@[simp] theorem State.storeWord_plan (s : State) (a w : Word) : (s.storeWord a w).plan = s.plan := rfl
@[simp] theorem State.storeWord_planValid (s : State) (a w : Word) : (s.storeWord a w).planValid = s.planValid := rfl
@[simp] theorem State.storeWord_openSeq (s : State) (a w : Word) : (s.storeWord a w).openSeq = s.openSeq := rfl

/-! ### storeWords -/

@[simp] theorem State.storeWords_pending (s : State) (a : Word) (ws : List Word) :
    (s.storeWords a ws).pending = s.pending := rfl
@[simp] theorem State.storeWords_now (s : State) (a : Word) (ws : List Word) : (s.storeWords a ws).now = s.now := rfl
@[simp] theorem State.storeWords_position (s : State) (a : Word) (ws : List Word) :
    (s.storeWords a ws).position = s.position := rfl
@[simp] theorem State.storeWords_lastStep (s : State) (a : Word) (ws : List Word) :
    (s.storeWords a ws).lastStep = s.lastStep := rfl
@[simp] theorem State.storeWords_samples (s : State) (a : Word) (ws : List Word) :
    (s.storeWords a ws).samples = s.samples := rfl
@[simp] theorem State.storeWords_cellUnit (s : State) (a : Word) (ws : List Word) :
    (s.storeWords a ws).cellUnit = s.cellUnit := rfl
@[simp] theorem State.storeWords_admission (s : State) (a : Word) (ws : List Word) :
    (s.storeWords a ws).admission = s.admission := rfl
@[simp] theorem State.storeWords_records (s : State) (a : Word) (ws : List Word) :
    (s.storeWords a ws).records = s.records := rfl
@[simp] theorem State.storeWords_scan (s : State) (a : Word) (ws : List Word) :
    (s.storeWords a ws).scan = s.scan := rfl
@[simp] theorem State.storeWords_schedule (s : State) (a : Word) (ws : List Word) :
    (s.storeWords a ws).schedule = s.schedule := rfl
@[simp] theorem State.storeWords_gates (s : State) (a : Word) (ws : List Word) :
    (s.storeWords a ws).gates = s.gates := rfl
@[simp] theorem State.storeWords_pocket (s : State) (a : Word) (ws : List Word) :
    (s.storeWords a ws).pocket = s.pocket := rfl
@[simp] theorem State.storeWords_printer (s : State) (a : Word) (ws : List Word) :
    (s.storeWords a ws).printer = s.printer := rfl
@[simp] theorem State.storeWords_router (s : State) (a : Word) (ws : List Word) :
    (s.storeWords a ws).router = s.router := rfl
@[simp] theorem State.storeWords_drive (s : State) (a : Word) (ws : List Word) :
    (s.storeWords a ws).drive = s.drive := rfl
@[simp] theorem State.storeWords_run (s : State) (a : Word) (ws : List Word) : (s.storeWords a ws).run = s.run := rfl
@[simp] theorem State.storeWords_protect (s : State) (a : Word) (ws : List Word) :
    (s.storeWords a ws).protect = s.protect := rfl
@[simp] theorem State.storeWords_tally (s : State) (a : Word) (ws : List Word) :
    (s.storeWords a ws).tally = s.tally := rfl
@[simp] theorem State.storeWords_reports (s : State) (a : Word) (ws : List Word) :
    (s.storeWords a ws).reports = s.reports := rfl
@[simp] theorem State.storeWords_port (s : State) (a : Word) (ws : List Word) :
    (s.storeWords a ws).port = s.port := rfl
@[simp] theorem State.storeWords_plan (s : State) (a : Word) (ws : List Word) :
    (s.storeWords a ws).plan = s.plan := rfl
@[simp] theorem State.storeWords_planValid (s : State) (a : Word) (ws : List Word) :
    (s.storeWords a ws).planValid = s.planValid := rfl
@[simp] theorem State.storeWords_openSeq (s : State) (a : Word) (ws : List Word) :
    (s.storeWords a ws).openSeq = s.openSeq := rfl

/-! ### recomputeFeed -/

@[simp] theorem State.recomputeFeed_pending (s : State) : s.recomputeFeed.pending = s.pending := rfl
@[simp] theorem State.recomputeFeed_now (s : State) : s.recomputeFeed.now = s.now := rfl
@[simp] theorem State.recomputeFeed_position (s : State) : s.recomputeFeed.position = s.position := rfl
@[simp] theorem State.recomputeFeed_lastStep (s : State) : s.recomputeFeed.lastStep = s.lastStep := rfl
@[simp] theorem State.recomputeFeed_samples (s : State) : s.recomputeFeed.samples = s.samples := rfl
@[simp] theorem State.recomputeFeed_cellUnit (s : State) : s.recomputeFeed.cellUnit = s.cellUnit := rfl
@[simp] theorem State.recomputeFeed_admission (s : State) : s.recomputeFeed.admission = s.admission := rfl
@[simp] theorem State.recomputeFeed_records (s : State) : s.recomputeFeed.records = s.records := rfl
@[simp] theorem State.recomputeFeed_scan (s : State) : s.recomputeFeed.scan = s.scan := rfl
@[simp] theorem State.recomputeFeed_schedule (s : State) : s.recomputeFeed.schedule = s.schedule := rfl
@[simp] theorem State.recomputeFeed_gates (s : State) : s.recomputeFeed.gates = s.gates := rfl
@[simp] theorem State.recomputeFeed_pocket (s : State) : s.recomputeFeed.pocket = s.pocket := rfl
@[simp] theorem State.recomputeFeed_printer (s : State) : s.recomputeFeed.printer = s.printer := rfl
@[simp] theorem State.recomputeFeed_router (s : State) : s.recomputeFeed.router = s.router := rfl
@[simp] theorem State.recomputeFeed_drive (s : State) : s.recomputeFeed.drive = s.drive := rfl
@[simp] theorem State.recomputeFeed_protect (s : State) : s.recomputeFeed.protect = s.protect := rfl
@[simp] theorem State.recomputeFeed_tally (s : State) : s.recomputeFeed.tally = s.tally := rfl
@[simp] theorem State.recomputeFeed_reports (s : State) : s.recomputeFeed.reports = s.reports := rfl
@[simp] theorem State.recomputeFeed_port (s : State) : s.recomputeFeed.port = s.port := rfl
@[simp] theorem State.recomputeFeed_plan (s : State) : s.recomputeFeed.plan = s.plan := rfl
@[simp] theorem State.recomputeFeed_planValid (s : State) : s.recomputeFeed.planValid = s.planValid := rfl
@[simp] theorem State.recomputeFeed_mem (s : State) : s.recomputeFeed.mem = s.mem := rfl
@[simp] theorem State.recomputeFeed_openSeq (s : State) : s.recomputeFeed.openSeq = s.openSeq := rfl
@[simp] theorem State.recomputeFeed_run_state (s : State) : s.recomputeFeed.run.state = s.run.state := rfl
@[simp] theorem State.recomputeFeed_run_request (s : State) : s.recomputeFeed.run.request = s.run.request := rfl
@[simp] theorem State.recomputeFeed_run_hold_endFull (s : State) :
    s.recomputeFeed.run.hold.endFull = s.run.hold.endFull := rfl
@[simp] theorem State.recomputeFeed_run_hold_mergeGap (s : State) :
    s.recomputeFeed.run.hold.mergeGap = s.run.hold.mergeGap := rfl

/-! ### setMergeGap -/

@[simp] theorem State.setMergeGap_pending (s : State) (b : Bool) : (s.setMergeGap b).pending = s.pending := rfl
@[simp] theorem State.setMergeGap_now (s : State) (b : Bool) : (s.setMergeGap b).now = s.now := rfl
@[simp] theorem State.setMergeGap_position (s : State) (b : Bool) : (s.setMergeGap b).position = s.position := rfl
@[simp] theorem State.setMergeGap_lastStep (s : State) (b : Bool) : (s.setMergeGap b).lastStep = s.lastStep := rfl
@[simp] theorem State.setMergeGap_samples (s : State) (b : Bool) : (s.setMergeGap b).samples = s.samples := rfl
@[simp] theorem State.setMergeGap_cellUnit (s : State) (b : Bool) : (s.setMergeGap b).cellUnit = s.cellUnit := rfl
@[simp] theorem State.setMergeGap_admission (s : State) (b : Bool) : (s.setMergeGap b).admission = s.admission := rfl
@[simp] theorem State.setMergeGap_records (s : State) (b : Bool) : (s.setMergeGap b).records = s.records := rfl
@[simp] theorem State.setMergeGap_scan (s : State) (b : Bool) : (s.setMergeGap b).scan = s.scan := rfl
@[simp] theorem State.setMergeGap_schedule (s : State) (b : Bool) : (s.setMergeGap b).schedule = s.schedule := rfl
@[simp] theorem State.setMergeGap_gates (s : State) (b : Bool) : (s.setMergeGap b).gates = s.gates := rfl
@[simp] theorem State.setMergeGap_printer (s : State) (b : Bool) : (s.setMergeGap b).printer = s.printer := rfl
@[simp] theorem State.setMergeGap_router (s : State) (b : Bool) : (s.setMergeGap b).router = s.router := rfl
@[simp] theorem State.setMergeGap_drive (s : State) (b : Bool) : (s.setMergeGap b).drive = s.drive := rfl
@[simp] theorem State.setMergeGap_protect (s : State) (b : Bool) : (s.setMergeGap b).protect = s.protect := rfl
@[simp] theorem State.setMergeGap_tally (s : State) (b : Bool) : (s.setMergeGap b).tally = s.tally := rfl
@[simp] theorem State.setMergeGap_reports (s : State) (b : Bool) : (s.setMergeGap b).reports = s.reports := rfl
@[simp] theorem State.setMergeGap_port (s : State) (b : Bool) : (s.setMergeGap b).port = s.port := rfl
@[simp] theorem State.setMergeGap_plan (s : State) (b : Bool) : (s.setMergeGap b).plan = s.plan := rfl
@[simp] theorem State.setMergeGap_planValid (s : State) (b : Bool) : (s.setMergeGap b).planValid = s.planValid := rfl
@[simp] theorem State.setMergeGap_mem (s : State) (b : Bool) : (s.setMergeGap b).mem = s.mem := rfl
@[simp] theorem State.setMergeGap_openSeq (s : State) (b : Bool) : (s.setMergeGap b).openSeq = s.openSeq := rfl
@[simp] theorem State.setMergeGap_run_state (s : State) (b : Bool) : (s.setMergeGap b).run.state = s.run.state := rfl
@[simp] theorem State.setMergeGap_run_request (s : State) (b : Bool) :
    (s.setMergeGap b).run.request = s.run.request := rfl
@[simp] theorem State.setMergeGap_run_hold_endFull (s : State) (b : Bool) :
    (s.setMergeGap b).run.hold.endFull = s.run.hold.endFull := rfl
@[simp] theorem State.setMergeGap_pocket_state (s : State) (b : Bool) :
    (s.setMergeGap b).pocket.state = s.pocket.state := rfl
@[simp] theorem State.setMergeGap_pocket_occupant (s : State) (b : Bool) :
    (s.setMergeGap b).pocket.occupant = s.pocket.occupant := rfl
@[simp] theorem State.setMergeGap_pocket_motor (s : State) (b : Bool) :
    (s.setMergeGap b).pocket.motor = s.pocket.motor := rfl

/-! ### setEndFull -/

@[simp] theorem State.setEndFull_pending (s : State) (level : FullLevel) :
    (s.setEndFull level).pending = s.pending := rfl
@[simp] theorem State.setEndFull_now (s : State) (level : FullLevel) : (s.setEndFull level).now = s.now := rfl
@[simp] theorem State.setEndFull_position (s : State) (level : FullLevel) :
    (s.setEndFull level).position = s.position := rfl
@[simp] theorem State.setEndFull_lastStep (s : State) (level : FullLevel) :
    (s.setEndFull level).lastStep = s.lastStep := rfl
@[simp] theorem State.setEndFull_samples (s : State) (level : FullLevel) :
    (s.setEndFull level).samples = s.samples := rfl
@[simp] theorem State.setEndFull_cellUnit (s : State) (level : FullLevel) :
    (s.setEndFull level).cellUnit = s.cellUnit := rfl
@[simp] theorem State.setEndFull_admission (s : State) (level : FullLevel) :
    (s.setEndFull level).admission = s.admission := rfl
@[simp] theorem State.setEndFull_records (s : State) (level : FullLevel) :
    (s.setEndFull level).records = s.records := rfl
@[simp] theorem State.setEndFull_scan (s : State) (level : FullLevel) : (s.setEndFull level).scan = s.scan := rfl
@[simp] theorem State.setEndFull_schedule (s : State) (level : FullLevel) :
    (s.setEndFull level).schedule = s.schedule := rfl
@[simp] theorem State.setEndFull_gates (s : State) (level : FullLevel) : (s.setEndFull level).gates = s.gates := rfl
@[simp] theorem State.setEndFull_pocket (s : State) (level : FullLevel) :
    (s.setEndFull level).pocket = s.pocket := rfl
@[simp] theorem State.setEndFull_printer (s : State) (level : FullLevel) :
    (s.setEndFull level).printer = s.printer := rfl
@[simp] theorem State.setEndFull_drive (s : State) (level : FullLevel) : (s.setEndFull level).drive = s.drive := rfl
@[simp] theorem State.setEndFull_protect (s : State) (level : FullLevel) :
    (s.setEndFull level).protect = s.protect := rfl
@[simp] theorem State.setEndFull_tally (s : State) (level : FullLevel) : (s.setEndFull level).tally = s.tally := rfl
@[simp] theorem State.setEndFull_reports (s : State) (level : FullLevel) :
    (s.setEndFull level).reports = s.reports := rfl
@[simp] theorem State.setEndFull_port (s : State) (level : FullLevel) : (s.setEndFull level).port = s.port := rfl
@[simp] theorem State.setEndFull_plan (s : State) (level : FullLevel) : (s.setEndFull level).plan = s.plan := rfl
@[simp] theorem State.setEndFull_planValid (s : State) (level : FullLevel) :
    (s.setEndFull level).planValid = s.planValid := rfl
@[simp] theorem State.setEndFull_mem (s : State) (level : FullLevel) : (s.setEndFull level).mem = s.mem := rfl
@[simp] theorem State.setEndFull_openSeq (s : State) (level : FullLevel) :
    (s.setEndFull level).openSeq = s.openSeq := rfl
@[simp] theorem State.setEndFull_run_state (s : State) (level : FullLevel) :
    (s.setEndFull level).run.state = s.run.state := rfl
@[simp] theorem State.setEndFull_run_request (s : State) (level : FullLevel) :
    (s.setEndFull level).run.request = s.run.request := rfl
@[simp] theorem State.setEndFull_run_hold_mergeGap (s : State) (level : FullLevel) :
    (s.setEndFull level).run.hold.mergeGap = s.run.hold.mergeGap := rfl
@[simp] theorem State.setEndFull_router_inService (s : State) (level : FullLevel) :
    (s.setEndFull level).router.inService = s.router.inService := rfl
@[simp] theorem State.setEndFull_router_full (s : State) (level : FullLevel) :
    (s.setEndFull level).router.full = s.router.full := rfl

/-! ### setRunState -/

@[simp] theorem State.setRunState_pending (s : State) (r : RunState) : (s.setRunState r).pending = s.pending := rfl
@[simp] theorem State.setRunState_now (s : State) (r : RunState) : (s.setRunState r).now = s.now := rfl
@[simp] theorem State.setRunState_position (s : State) (r : RunState) : (s.setRunState r).position = s.position := rfl
@[simp] theorem State.setRunState_lastStep (s : State) (r : RunState) : (s.setRunState r).lastStep = s.lastStep := rfl
@[simp] theorem State.setRunState_samples (s : State) (r : RunState) : (s.setRunState r).samples = s.samples := rfl
@[simp] theorem State.setRunState_cellUnit (s : State) (r : RunState) : (s.setRunState r).cellUnit = s.cellUnit := rfl
@[simp] theorem State.setRunState_admission (s : State) (r : RunState) :
    (s.setRunState r).admission = s.admission := rfl
@[simp] theorem State.setRunState_records (s : State) (r : RunState) : (s.setRunState r).records = s.records := rfl
@[simp] theorem State.setRunState_scan (s : State) (r : RunState) : (s.setRunState r).scan = s.scan := rfl
@[simp] theorem State.setRunState_schedule (s : State) (r : RunState) : (s.setRunState r).schedule = s.schedule := rfl
@[simp] theorem State.setRunState_gates (s : State) (r : RunState) : (s.setRunState r).gates = s.gates := rfl
@[simp] theorem State.setRunState_pocket (s : State) (r : RunState) : (s.setRunState r).pocket = s.pocket := rfl
@[simp] theorem State.setRunState_printer (s : State) (r : RunState) : (s.setRunState r).printer = s.printer := rfl
@[simp] theorem State.setRunState_router (s : State) (r : RunState) : (s.setRunState r).router = s.router := rfl
@[simp] theorem State.setRunState_drive (s : State) (r : RunState) : (s.setRunState r).drive = s.drive := rfl
@[simp] theorem State.setRunState_protect (s : State) (r : RunState) : (s.setRunState r).protect = s.protect := rfl
@[simp] theorem State.setRunState_tally (s : State) (r : RunState) : (s.setRunState r).tally = s.tally := rfl
@[simp] theorem State.setRunState_reports (s : State) (r : RunState) : (s.setRunState r).reports = s.reports := rfl
@[simp] theorem State.setRunState_port (s : State) (r : RunState) : (s.setRunState r).port = s.port := rfl
@[simp] theorem State.setRunState_plan (s : State) (r : RunState) : (s.setRunState r).plan = s.plan := rfl
@[simp] theorem State.setRunState_planValid (s : State) (r : RunState) :
    (s.setRunState r).planValid = s.planValid := rfl
@[simp] theorem State.setRunState_mem (s : State) (r : RunState) : (s.setRunState r).mem = s.mem := rfl
@[simp] theorem State.setRunState_openSeq (s : State) (r : RunState) : (s.setRunState r).openSeq = s.openSeq := rfl
@[simp] theorem State.setRunState_run_request (s : State) (r : RunState) :
    (s.setRunState r).run.request = s.run.request := rfl
@[simp] theorem State.setRunState_run_hold_endFull (s : State) (r : RunState) :
    (s.setRunState r).run.hold.endFull = s.run.hold.endFull := rfl
@[simp] theorem State.setRunState_run_hold_mergeGap (s : State) (r : RunState) :
    (s.setRunState r).run.hold.mergeGap = s.run.hold.mergeGap := rfl

/-! ### raise -/

@[simp] theorem State.raise_pending (s : State) (c : AttentionCause) : (s.raise c).pending = s.pending := rfl
@[simp] theorem State.raise_now (s : State) (c : AttentionCause) : (s.raise c).now = s.now := rfl
@[simp] theorem State.raise_position (s : State) (c : AttentionCause) : (s.raise c).position = s.position := rfl
@[simp] theorem State.raise_lastStep (s : State) (c : AttentionCause) : (s.raise c).lastStep = s.lastStep := rfl
@[simp] theorem State.raise_samples (s : State) (c : AttentionCause) : (s.raise c).samples = s.samples := rfl
@[simp] theorem State.raise_cellUnit (s : State) (c : AttentionCause) : (s.raise c).cellUnit = s.cellUnit := rfl
@[simp] theorem State.raise_admission (s : State) (c : AttentionCause) : (s.raise c).admission = s.admission := rfl
@[simp] theorem State.raise_records (s : State) (c : AttentionCause) : (s.raise c).records = s.records := rfl
@[simp] theorem State.raise_scan (s : State) (c : AttentionCause) : (s.raise c).scan = s.scan := rfl
@[simp] theorem State.raise_schedule (s : State) (c : AttentionCause) : (s.raise c).schedule = s.schedule := rfl
@[simp] theorem State.raise_gates (s : State) (c : AttentionCause) : (s.raise c).gates = s.gates := rfl
@[simp] theorem State.raise_pocket (s : State) (c : AttentionCause) : (s.raise c).pocket = s.pocket := rfl
@[simp] theorem State.raise_printer (s : State) (c : AttentionCause) : (s.raise c).printer = s.printer := rfl
@[simp] theorem State.raise_router (s : State) (c : AttentionCause) : (s.raise c).router = s.router := rfl
@[simp] theorem State.raise_drive (s : State) (c : AttentionCause) : (s.raise c).drive = s.drive := rfl
@[simp] theorem State.raise_run (s : State) (c : AttentionCause) : (s.raise c).run = s.run := rfl
@[simp] theorem State.raise_protect (s : State) (c : AttentionCause) : (s.raise c).protect = s.protect := rfl
@[simp] theorem State.raise_tally (s : State) (c : AttentionCause) : (s.raise c).tally = s.tally := rfl
@[simp] theorem State.raise_reports (s : State) (c : AttentionCause) : (s.raise c).reports = s.reports := rfl
@[simp] theorem State.raise_plan (s : State) (c : AttentionCause) : (s.raise c).plan = s.plan := rfl
@[simp] theorem State.raise_planValid (s : State) (c : AttentionCause) : (s.raise c).planValid = s.planValid := rfl
@[simp] theorem State.raise_mem (s : State) (c : AttentionCause) : (s.raise c).mem = s.mem := rfl
@[simp] theorem State.raise_openSeq (s : State) (c : AttentionCause) : (s.raise c).openSeq = s.openSeq := rfl
@[simp] theorem State.raise_port_pageAddress (s : State) (c : AttentionCause) :
    (s.raise c).port.pageAddress = s.port.pageAddress := rfl
@[simp] theorem State.raise_port_enable (s : State) (c : AttentionCause) :
    (s.raise c).port.enable = s.port.enable := rfl
@[simp] theorem State.raise_port_scanTap (s : State) (c : AttentionCause) :
    (s.raise c).port.scanTap = s.port.scanTap := rfl
@[simp] theorem State.raise_port_masked (s : State) (c : AttentionCause) :
    (s.raise c).port.masked = s.port.masked := rfl
@[simp] theorem State.raise_port_scanTimer (s : State) (c : AttentionCause) :
    (s.raise c).port.scanTimer = s.port.scanTimer := rfl
@[simp] theorem State.raise_port_scanLeft (s : State) (c : AttentionCause) :
    (s.raise c).port.scanLeft = s.port.scanLeft := rfl
@[simp] theorem State.raise_port_readData (s : State) (c : AttentionCause) :
    (s.raise c).port.readData = s.port.readData := rfl

/-! ### updateRecord -/

@[simp] theorem State.updateRecord_pending (s : State) (p : PieceNo) (f : Record → Record) :
    (s.updateRecord p f).pending = s.pending := rfl
@[simp] theorem State.updateRecord_now (s : State) (p : PieceNo) (f : Record → Record) :
    (s.updateRecord p f).now = s.now := rfl
@[simp] theorem State.updateRecord_position (s : State) (p : PieceNo) (f : Record → Record) :
    (s.updateRecord p f).position = s.position := rfl
@[simp] theorem State.updateRecord_lastStep (s : State) (p : PieceNo) (f : Record → Record) :
    (s.updateRecord p f).lastStep = s.lastStep := rfl
@[simp] theorem State.updateRecord_samples (s : State) (p : PieceNo) (f : Record → Record) :
    (s.updateRecord p f).samples = s.samples := rfl
@[simp] theorem State.updateRecord_cellUnit (s : State) (p : PieceNo) (f : Record → Record) :
    (s.updateRecord p f).cellUnit = s.cellUnit := rfl
@[simp] theorem State.updateRecord_admission (s : State) (p : PieceNo) (f : Record → Record) :
    (s.updateRecord p f).admission = s.admission := rfl
@[simp] theorem State.updateRecord_scan (s : State) (p : PieceNo) (f : Record → Record) :
    (s.updateRecord p f).scan = s.scan := rfl
@[simp] theorem State.updateRecord_schedule (s : State) (p : PieceNo) (f : Record → Record) :
    (s.updateRecord p f).schedule = s.schedule := rfl
@[simp] theorem State.updateRecord_gates (s : State) (p : PieceNo) (f : Record → Record) :
    (s.updateRecord p f).gates = s.gates := rfl
@[simp] theorem State.updateRecord_pocket (s : State) (p : PieceNo) (f : Record → Record) :
    (s.updateRecord p f).pocket = s.pocket := rfl
@[simp] theorem State.updateRecord_printer (s : State) (p : PieceNo) (f : Record → Record) :
    (s.updateRecord p f).printer = s.printer := rfl
@[simp] theorem State.updateRecord_router (s : State) (p : PieceNo) (f : Record → Record) :
    (s.updateRecord p f).router = s.router := rfl
@[simp] theorem State.updateRecord_drive (s : State) (p : PieceNo) (f : Record → Record) :
    (s.updateRecord p f).drive = s.drive := rfl
@[simp] theorem State.updateRecord_run (s : State) (p : PieceNo) (f : Record → Record) :
    (s.updateRecord p f).run = s.run := rfl
@[simp] theorem State.updateRecord_protect (s : State) (p : PieceNo) (f : Record → Record) :
    (s.updateRecord p f).protect = s.protect := rfl
@[simp] theorem State.updateRecord_tally (s : State) (p : PieceNo) (f : Record → Record) :
    (s.updateRecord p f).tally = s.tally := rfl
@[simp] theorem State.updateRecord_reports (s : State) (p : PieceNo) (f : Record → Record) :
    (s.updateRecord p f).reports = s.reports := rfl
@[simp] theorem State.updateRecord_port (s : State) (p : PieceNo) (f : Record → Record) :
    (s.updateRecord p f).port = s.port := rfl
@[simp] theorem State.updateRecord_plan (s : State) (p : PieceNo) (f : Record → Record) :
    (s.updateRecord p f).plan = s.plan := rfl
@[simp] theorem State.updateRecord_planValid (s : State) (p : PieceNo) (f : Record → Record) :
    (s.updateRecord p f).planValid = s.planValid := rfl
@[simp] theorem State.updateRecord_mem (s : State) (p : PieceNo) (f : Record → Record) :
    (s.updateRecord p f).mem = s.mem := rfl
@[simp] theorem State.updateRecord_openSeq (s : State) (p : PieceNo) (f : Record → Record) :
    (s.updateRecord p f).openSeq = s.openSeq := rfl

/-! ### setCell -/

@[simp] theorem State.setCell_pending (s : State) (c : Cell) (x : CellState) :
    (s.setCell c x).pending = s.pending := rfl
@[simp] theorem State.setCell_now (s : State) (c : Cell) (x : CellState) : (s.setCell c x).now = s.now := rfl
@[simp] theorem State.setCell_position (s : State) (c : Cell) (x : CellState) :
    (s.setCell c x).position = s.position := rfl
@[simp] theorem State.setCell_lastStep (s : State) (c : Cell) (x : CellState) :
    (s.setCell c x).lastStep = s.lastStep := rfl
@[simp] theorem State.setCell_samples (s : State) (c : Cell) (x : CellState) :
    (s.setCell c x).samples = s.samples := rfl
@[simp] theorem State.setCell_admission (s : State) (c : Cell) (x : CellState) :
    (s.setCell c x).admission = s.admission := rfl
@[simp] theorem State.setCell_records (s : State) (c : Cell) (x : CellState) :
    (s.setCell c x).records = s.records := rfl
@[simp] theorem State.setCell_scan (s : State) (c : Cell) (x : CellState) : (s.setCell c x).scan = s.scan := rfl
@[simp] theorem State.setCell_schedule (s : State) (c : Cell) (x : CellState) :
    (s.setCell c x).schedule = s.schedule := rfl
@[simp] theorem State.setCell_gates (s : State) (c : Cell) (x : CellState) : (s.setCell c x).gates = s.gates := rfl
@[simp] theorem State.setCell_pocket (s : State) (c : Cell) (x : CellState) : (s.setCell c x).pocket = s.pocket := rfl
@[simp] theorem State.setCell_printer (s : State) (c : Cell) (x : CellState) :
    (s.setCell c x).printer = s.printer := rfl
@[simp] theorem State.setCell_router (s : State) (c : Cell) (x : CellState) : (s.setCell c x).router = s.router := rfl
@[simp] theorem State.setCell_drive (s : State) (c : Cell) (x : CellState) : (s.setCell c x).drive = s.drive := rfl
@[simp] theorem State.setCell_run (s : State) (c : Cell) (x : CellState) : (s.setCell c x).run = s.run := rfl
@[simp] theorem State.setCell_protect (s : State) (c : Cell) (x : CellState) :
    (s.setCell c x).protect = s.protect := rfl
@[simp] theorem State.setCell_tally (s : State) (c : Cell) (x : CellState) : (s.setCell c x).tally = s.tally := rfl
@[simp] theorem State.setCell_reports (s : State) (c : Cell) (x : CellState) :
    (s.setCell c x).reports = s.reports := rfl
@[simp] theorem State.setCell_port (s : State) (c : Cell) (x : CellState) : (s.setCell c x).port = s.port := rfl
@[simp] theorem State.setCell_plan (s : State) (c : Cell) (x : CellState) : (s.setCell c x).plan = s.plan := rfl
@[simp] theorem State.setCell_planValid (s : State) (c : Cell) (x : CellState) :
    (s.setCell c x).planValid = s.planValid := rfl
@[simp] theorem State.setCell_mem (s : State) (c : Cell) (x : CellState) : (s.setCell c x).mem = s.mem := rfl
@[simp] theorem State.setCell_openSeq (s : State) (c : Cell) (x : CellState) :
    (s.setCell c x).openSeq = s.openSeq := rfl
@[simp] theorem State.setCell_cellUnit_queues (s : State) (c : Cell) (x : CellState) :
    (s.setCell c x).cellUnit.queues = s.cellUnit.queues := rfl

/-! ### setOccupant -/

@[simp] theorem State.setOccupant_pending (s : State) (c : Cell) (o : Option Occupant) :
    (s.setOccupant c o).pending = s.pending := rfl
@[simp] theorem State.setOccupant_now (s : State) (c : Cell) (o : Option Occupant) :
    (s.setOccupant c o).now = s.now := rfl
@[simp] theorem State.setOccupant_position (s : State) (c : Cell) (o : Option Occupant) :
    (s.setOccupant c o).position = s.position := rfl
@[simp] theorem State.setOccupant_lastStep (s : State) (c : Cell) (o : Option Occupant) :
    (s.setOccupant c o).lastStep = s.lastStep := rfl
@[simp] theorem State.setOccupant_samples (s : State) (c : Cell) (o : Option Occupant) :
    (s.setOccupant c o).samples = s.samples := rfl
@[simp] theorem State.setOccupant_admission (s : State) (c : Cell) (o : Option Occupant) :
    (s.setOccupant c o).admission = s.admission := rfl
@[simp] theorem State.setOccupant_records (s : State) (c : Cell) (o : Option Occupant) :
    (s.setOccupant c o).records = s.records := rfl
@[simp] theorem State.setOccupant_scan (s : State) (c : Cell) (o : Option Occupant) :
    (s.setOccupant c o).scan = s.scan := rfl
@[simp] theorem State.setOccupant_schedule (s : State) (c : Cell) (o : Option Occupant) :
    (s.setOccupant c o).schedule = s.schedule := rfl
@[simp] theorem State.setOccupant_gates (s : State) (c : Cell) (o : Option Occupant) :
    (s.setOccupant c o).gates = s.gates := rfl
@[simp] theorem State.setOccupant_pocket (s : State) (c : Cell) (o : Option Occupant) :
    (s.setOccupant c o).pocket = s.pocket := rfl
@[simp] theorem State.setOccupant_printer (s : State) (c : Cell) (o : Option Occupant) :
    (s.setOccupant c o).printer = s.printer := rfl
@[simp] theorem State.setOccupant_router (s : State) (c : Cell) (o : Option Occupant) :
    (s.setOccupant c o).router = s.router := rfl
@[simp] theorem State.setOccupant_drive (s : State) (c : Cell) (o : Option Occupant) :
    (s.setOccupant c o).drive = s.drive := rfl
@[simp] theorem State.setOccupant_run (s : State) (c : Cell) (o : Option Occupant) :
    (s.setOccupant c o).run = s.run := rfl
@[simp] theorem State.setOccupant_protect (s : State) (c : Cell) (o : Option Occupant) :
    (s.setOccupant c o).protect = s.protect := rfl
@[simp] theorem State.setOccupant_tally (s : State) (c : Cell) (o : Option Occupant) :
    (s.setOccupant c o).tally = s.tally := rfl
@[simp] theorem State.setOccupant_reports (s : State) (c : Cell) (o : Option Occupant) :
    (s.setOccupant c o).reports = s.reports := rfl
@[simp] theorem State.setOccupant_port (s : State) (c : Cell) (o : Option Occupant) :
    (s.setOccupant c o).port = s.port := rfl
@[simp] theorem State.setOccupant_plan (s : State) (c : Cell) (o : Option Occupant) :
    (s.setOccupant c o).plan = s.plan := rfl
@[simp] theorem State.setOccupant_planValid (s : State) (c : Cell) (o : Option Occupant) :
    (s.setOccupant c o).planValid = s.planValid := rfl
@[simp] theorem State.setOccupant_mem (s : State) (c : Cell) (o : Option Occupant) :
    (s.setOccupant c o).mem = s.mem := rfl
@[simp] theorem State.setOccupant_openSeq (s : State) (c : Cell) (o : Option Occupant) :
    (s.setOccupant c o).openSeq = s.openSeq := rfl
@[simp] theorem State.setOccupant_cellUnit_queues (s : State) (c : Cell) (o : Option Occupant) :
    (s.setOccupant c o).cellUnit.queues = s.cellUnit.queues := rfl

/-! ### setQueue -/

@[simp] theorem State.setQueue_pending (s : State) (c : Cell) (q : List Expectation) :
    (s.setQueue c q).pending = s.pending := rfl
@[simp] theorem State.setQueue_now (s : State) (c : Cell) (q : List Expectation) : (s.setQueue c q).now = s.now := rfl
@[simp] theorem State.setQueue_position (s : State) (c : Cell) (q : List Expectation) :
    (s.setQueue c q).position = s.position := rfl
@[simp] theorem State.setQueue_lastStep (s : State) (c : Cell) (q : List Expectation) :
    (s.setQueue c q).lastStep = s.lastStep := rfl
@[simp] theorem State.setQueue_samples (s : State) (c : Cell) (q : List Expectation) :
    (s.setQueue c q).samples = s.samples := rfl
@[simp] theorem State.setQueue_admission (s : State) (c : Cell) (q : List Expectation) :
    (s.setQueue c q).admission = s.admission := rfl
@[simp] theorem State.setQueue_records (s : State) (c : Cell) (q : List Expectation) :
    (s.setQueue c q).records = s.records := rfl
@[simp] theorem State.setQueue_scan (s : State) (c : Cell) (q : List Expectation) :
    (s.setQueue c q).scan = s.scan := rfl
@[simp] theorem State.setQueue_schedule (s : State) (c : Cell) (q : List Expectation) :
    (s.setQueue c q).schedule = s.schedule := rfl
@[simp] theorem State.setQueue_gates (s : State) (c : Cell) (q : List Expectation) :
    (s.setQueue c q).gates = s.gates := rfl
@[simp] theorem State.setQueue_pocket (s : State) (c : Cell) (q : List Expectation) :
    (s.setQueue c q).pocket = s.pocket := rfl
@[simp] theorem State.setQueue_printer (s : State) (c : Cell) (q : List Expectation) :
    (s.setQueue c q).printer = s.printer := rfl
@[simp] theorem State.setQueue_router (s : State) (c : Cell) (q : List Expectation) :
    (s.setQueue c q).router = s.router := rfl
@[simp] theorem State.setQueue_drive (s : State) (c : Cell) (q : List Expectation) :
    (s.setQueue c q).drive = s.drive := rfl
@[simp] theorem State.setQueue_run (s : State) (c : Cell) (q : List Expectation) : (s.setQueue c q).run = s.run := rfl
@[simp] theorem State.setQueue_protect (s : State) (c : Cell) (q : List Expectation) :
    (s.setQueue c q).protect = s.protect := rfl
@[simp] theorem State.setQueue_tally (s : State) (c : Cell) (q : List Expectation) :
    (s.setQueue c q).tally = s.tally := rfl
@[simp] theorem State.setQueue_reports (s : State) (c : Cell) (q : List Expectation) :
    (s.setQueue c q).reports = s.reports := rfl
@[simp] theorem State.setQueue_port (s : State) (c : Cell) (q : List Expectation) :
    (s.setQueue c q).port = s.port := rfl
@[simp] theorem State.setQueue_plan (s : State) (c : Cell) (q : List Expectation) :
    (s.setQueue c q).plan = s.plan := rfl
@[simp] theorem State.setQueue_planValid (s : State) (c : Cell) (q : List Expectation) :
    (s.setQueue c q).planValid = s.planValid := rfl
@[simp] theorem State.setQueue_mem (s : State) (c : Cell) (q : List Expectation) : (s.setQueue c q).mem = s.mem := rfl
@[simp] theorem State.setQueue_openSeq (s : State) (c : Cell) (q : List Expectation) :
    (s.setQueue c q).openSeq = s.openSeq := rfl
@[simp] theorem State.setQueue_cellUnit_cells (s : State) (c : Cell) (q : List Expectation) :
    (s.setQueue c q).cellUnit.cells = s.cellUnit.cells := rfl

/-! ### filterQueues -/

@[simp] theorem State.filterQueues_pending (s : State) (keep : Expectation → Bool) :
    (s.filterQueues keep).pending = s.pending := rfl
@[simp] theorem State.filterQueues_now (s : State) (keep : Expectation → Bool) :
    (s.filterQueues keep).now = s.now := rfl
@[simp] theorem State.filterQueues_position (s : State) (keep : Expectation → Bool) :
    (s.filterQueues keep).position = s.position := rfl
@[simp] theorem State.filterQueues_lastStep (s : State) (keep : Expectation → Bool) :
    (s.filterQueues keep).lastStep = s.lastStep := rfl
@[simp] theorem State.filterQueues_samples (s : State) (keep : Expectation → Bool) :
    (s.filterQueues keep).samples = s.samples := rfl
@[simp] theorem State.filterQueues_admission (s : State) (keep : Expectation → Bool) :
    (s.filterQueues keep).admission = s.admission := rfl
@[simp] theorem State.filterQueues_records (s : State) (keep : Expectation → Bool) :
    (s.filterQueues keep).records = s.records := rfl
@[simp] theorem State.filterQueues_scan (s : State) (keep : Expectation → Bool) :
    (s.filterQueues keep).scan = s.scan := rfl
@[simp] theorem State.filterQueues_schedule (s : State) (keep : Expectation → Bool) :
    (s.filterQueues keep).schedule = s.schedule := rfl
@[simp] theorem State.filterQueues_gates (s : State) (keep : Expectation → Bool) :
    (s.filterQueues keep).gates = s.gates := rfl
@[simp] theorem State.filterQueues_pocket (s : State) (keep : Expectation → Bool) :
    (s.filterQueues keep).pocket = s.pocket := rfl
@[simp] theorem State.filterQueues_printer (s : State) (keep : Expectation → Bool) :
    (s.filterQueues keep).printer = s.printer := rfl
@[simp] theorem State.filterQueues_router (s : State) (keep : Expectation → Bool) :
    (s.filterQueues keep).router = s.router := rfl
@[simp] theorem State.filterQueues_drive (s : State) (keep : Expectation → Bool) :
    (s.filterQueues keep).drive = s.drive := rfl
@[simp] theorem State.filterQueues_run (s : State) (keep : Expectation → Bool) :
    (s.filterQueues keep).run = s.run := rfl
@[simp] theorem State.filterQueues_protect (s : State) (keep : Expectation → Bool) :
    (s.filterQueues keep).protect = s.protect := rfl
@[simp] theorem State.filterQueues_tally (s : State) (keep : Expectation → Bool) :
    (s.filterQueues keep).tally = s.tally := rfl
@[simp] theorem State.filterQueues_reports (s : State) (keep : Expectation → Bool) :
    (s.filterQueues keep).reports = s.reports := rfl
@[simp] theorem State.filterQueues_port (s : State) (keep : Expectation → Bool) :
    (s.filterQueues keep).port = s.port := rfl
@[simp] theorem State.filterQueues_plan (s : State) (keep : Expectation → Bool) :
    (s.filterQueues keep).plan = s.plan := rfl
@[simp] theorem State.filterQueues_planValid (s : State) (keep : Expectation → Bool) :
    (s.filterQueues keep).planValid = s.planValid := rfl
@[simp] theorem State.filterQueues_mem (s : State) (keep : Expectation → Bool) :
    (s.filterQueues keep).mem = s.mem := rfl
@[simp] theorem State.filterQueues_openSeq (s : State) (keep : Expectation → Bool) :
    (s.filterQueues keep).openSeq = s.openSeq := rfl
@[simp] theorem State.filterQueues_cellUnit_cells (s : State) (keep : Expectation → Bool) :
    (s.filterQueues keep).cellUnit.cells = s.cellUnit.cells := rfl

/-! ### setGate -/

@[simp] theorem State.setGate_pending (s : State) (g : Gate) (l : GateLevel) :
    (s.setGate g l).pending = s.pending := rfl
@[simp] theorem State.setGate_now (s : State) (g : Gate) (l : GateLevel) : (s.setGate g l).now = s.now := rfl
@[simp] theorem State.setGate_position (s : State) (g : Gate) (l : GateLevel) :
    (s.setGate g l).position = s.position := rfl
@[simp] theorem State.setGate_lastStep (s : State) (g : Gate) (l : GateLevel) :
    (s.setGate g l).lastStep = s.lastStep := rfl
@[simp] theorem State.setGate_samples (s : State) (g : Gate) (l : GateLevel) :
    (s.setGate g l).samples = s.samples := rfl
@[simp] theorem State.setGate_cellUnit (s : State) (g : Gate) (l : GateLevel) :
    (s.setGate g l).cellUnit = s.cellUnit := rfl
@[simp] theorem State.setGate_admission (s : State) (g : Gate) (l : GateLevel) :
    (s.setGate g l).admission = s.admission := rfl
@[simp] theorem State.setGate_records (s : State) (g : Gate) (l : GateLevel) :
    (s.setGate g l).records = s.records := rfl
@[simp] theorem State.setGate_scan (s : State) (g : Gate) (l : GateLevel) : (s.setGate g l).scan = s.scan := rfl
@[simp] theorem State.setGate_schedule (s : State) (g : Gate) (l : GateLevel) :
    (s.setGate g l).schedule = s.schedule := rfl
@[simp] theorem State.setGate_pocket (s : State) (g : Gate) (l : GateLevel) : (s.setGate g l).pocket = s.pocket := rfl
@[simp] theorem State.setGate_printer (s : State) (g : Gate) (l : GateLevel) :
    (s.setGate g l).printer = s.printer := rfl
@[simp] theorem State.setGate_router (s : State) (g : Gate) (l : GateLevel) : (s.setGate g l).router = s.router := rfl
@[simp] theorem State.setGate_drive (s : State) (g : Gate) (l : GateLevel) : (s.setGate g l).drive = s.drive := rfl
@[simp] theorem State.setGate_run (s : State) (g : Gate) (l : GateLevel) : (s.setGate g l).run = s.run := rfl
@[simp] theorem State.setGate_protect (s : State) (g : Gate) (l : GateLevel) :
    (s.setGate g l).protect = s.protect := rfl
@[simp] theorem State.setGate_tally (s : State) (g : Gate) (l : GateLevel) : (s.setGate g l).tally = s.tally := rfl
@[simp] theorem State.setGate_reports (s : State) (g : Gate) (l : GateLevel) :
    (s.setGate g l).reports = s.reports := rfl
@[simp] theorem State.setGate_port (s : State) (g : Gate) (l : GateLevel) : (s.setGate g l).port = s.port := rfl
@[simp] theorem State.setGate_plan (s : State) (g : Gate) (l : GateLevel) : (s.setGate g l).plan = s.plan := rfl
@[simp] theorem State.setGate_planValid (s : State) (g : Gate) (l : GateLevel) :
    (s.setGate g l).planValid = s.planValid := rfl
@[simp] theorem State.setGate_mem (s : State) (g : Gate) (l : GateLevel) : (s.setGate g l).mem = s.mem := rfl
@[simp] theorem State.setGate_openSeq (s : State) (g : Gate) (l : GateLevel) :
    (s.setGate g l).openSeq = s.openSeq := rfl

/-! ### closeAllGates -/

@[simp] theorem State.closeAllGates_pending (s : State) : s.closeAllGates.pending = s.pending := rfl
@[simp] theorem State.closeAllGates_now (s : State) : s.closeAllGates.now = s.now := rfl
@[simp] theorem State.closeAllGates_position (s : State) : s.closeAllGates.position = s.position := rfl
@[simp] theorem State.closeAllGates_lastStep (s : State) : s.closeAllGates.lastStep = s.lastStep := rfl
@[simp] theorem State.closeAllGates_samples (s : State) : s.closeAllGates.samples = s.samples := rfl
@[simp] theorem State.closeAllGates_cellUnit (s : State) : s.closeAllGates.cellUnit = s.cellUnit := rfl
@[simp] theorem State.closeAllGates_admission (s : State) : s.closeAllGates.admission = s.admission := rfl
@[simp] theorem State.closeAllGates_records (s : State) : s.closeAllGates.records = s.records := rfl
@[simp] theorem State.closeAllGates_scan (s : State) : s.closeAllGates.scan = s.scan := rfl
@[simp] theorem State.closeAllGates_schedule (s : State) : s.closeAllGates.schedule = s.schedule := rfl
@[simp] theorem State.closeAllGates_pocket (s : State) : s.closeAllGates.pocket = s.pocket := rfl
@[simp] theorem State.closeAllGates_printer (s : State) : s.closeAllGates.printer = s.printer := rfl
@[simp] theorem State.closeAllGates_router (s : State) : s.closeAllGates.router = s.router := rfl
@[simp] theorem State.closeAllGates_drive (s : State) : s.closeAllGates.drive = s.drive := rfl
@[simp] theorem State.closeAllGates_run (s : State) : s.closeAllGates.run = s.run := rfl
@[simp] theorem State.closeAllGates_protect (s : State) : s.closeAllGates.protect = s.protect := rfl
@[simp] theorem State.closeAllGates_tally (s : State) : s.closeAllGates.tally = s.tally := rfl
@[simp] theorem State.closeAllGates_reports (s : State) : s.closeAllGates.reports = s.reports := rfl
@[simp] theorem State.closeAllGates_port (s : State) : s.closeAllGates.port = s.port := rfl
@[simp] theorem State.closeAllGates_plan (s : State) : s.closeAllGates.plan = s.plan := rfl
@[simp] theorem State.closeAllGates_planValid (s : State) : s.closeAllGates.planValid = s.planValid := rfl
@[simp] theorem State.closeAllGates_mem (s : State) : s.closeAllGates.mem = s.mem := rfl
@[simp] theorem State.closeAllGates_openSeq (s : State) : s.closeAllGates.openSeq = s.openSeq := rfl

/-! ### setTarget -/

@[simp] theorem State.setTarget_pending (s : State) (v : Nat) : (s.setTarget v).pending = s.pending := rfl
@[simp] theorem State.setTarget_now (s : State) (v : Nat) : (s.setTarget v).now = s.now := rfl
@[simp] theorem State.setTarget_position (s : State) (v : Nat) : (s.setTarget v).position = s.position := rfl
@[simp] theorem State.setTarget_lastStep (s : State) (v : Nat) : (s.setTarget v).lastStep = s.lastStep := rfl
@[simp] theorem State.setTarget_samples (s : State) (v : Nat) : (s.setTarget v).samples = s.samples := rfl
@[simp] theorem State.setTarget_cellUnit (s : State) (v : Nat) : (s.setTarget v).cellUnit = s.cellUnit := rfl
@[simp] theorem State.setTarget_admission (s : State) (v : Nat) : (s.setTarget v).admission = s.admission := rfl
@[simp] theorem State.setTarget_records (s : State) (v : Nat) : (s.setTarget v).records = s.records := rfl
@[simp] theorem State.setTarget_scan (s : State) (v : Nat) : (s.setTarget v).scan = s.scan := rfl
@[simp] theorem State.setTarget_schedule (s : State) (v : Nat) : (s.setTarget v).schedule = s.schedule := rfl
@[simp] theorem State.setTarget_gates (s : State) (v : Nat) : (s.setTarget v).gates = s.gates := rfl
@[simp] theorem State.setTarget_pocket (s : State) (v : Nat) : (s.setTarget v).pocket = s.pocket := rfl
@[simp] theorem State.setTarget_printer (s : State) (v : Nat) : (s.setTarget v).printer = s.printer := rfl
@[simp] theorem State.setTarget_router (s : State) (v : Nat) : (s.setTarget v).router = s.router := rfl
@[simp] theorem State.setTarget_run (s : State) (v : Nat) : (s.setTarget v).run = s.run := rfl
@[simp] theorem State.setTarget_protect (s : State) (v : Nat) : (s.setTarget v).protect = s.protect := rfl
@[simp] theorem State.setTarget_tally (s : State) (v : Nat) : (s.setTarget v).tally = s.tally := rfl
@[simp] theorem State.setTarget_reports (s : State) (v : Nat) : (s.setTarget v).reports = s.reports := rfl
@[simp] theorem State.setTarget_port (s : State) (v : Nat) : (s.setTarget v).port = s.port := rfl
@[simp] theorem State.setTarget_plan (s : State) (v : Nat) : (s.setTarget v).plan = s.plan := rfl
@[simp] theorem State.setTarget_planValid (s : State) (v : Nat) : (s.setTarget v).planValid = s.planValid := rfl
@[simp] theorem State.setTarget_mem (s : State) (v : Nat) : (s.setTarget v).mem = s.mem := rfl
@[simp] theorem State.setTarget_openSeq (s : State) (v : Nat) : (s.setTarget v).openSeq = s.openSeq := rfl
@[simp] theorem State.setTarget_drive_code (s : State) (v : Nat) : (s.setTarget v).drive.code = s.drive.code := rfl
@[simp] theorem State.setTarget_drive_still (s : State) (v : Nat) : (s.setTarget v).drive.still = s.drive.still := rfl
@[simp] theorem State.setTarget_drive_stillTimer (s : State) (v : Nat) :
    (s.setTarget v).drive.stillTimer = s.drive.stillTimer := rfl
@[simp] theorem State.setTarget_drive_report (s : State) (v : Nat) :
    (s.setTarget v).drive.report = s.drive.report := rfl

/-! ### cut -/

@[simp] theorem State.cut_pending (s : State) : s.cut.pending = s.pending := rfl
@[simp] theorem State.cut_now (s : State) : s.cut.now = s.now := rfl
@[simp] theorem State.cut_position (s : State) : s.cut.position = s.position := rfl
@[simp] theorem State.cut_lastStep (s : State) : s.cut.lastStep = s.lastStep := rfl
@[simp] theorem State.cut_samples (s : State) : s.cut.samples = s.samples := rfl
@[simp] theorem State.cut_cellUnit (s : State) : s.cut.cellUnit = s.cellUnit := rfl
@[simp] theorem State.cut_admission (s : State) : s.cut.admission = s.admission := rfl
@[simp] theorem State.cut_records (s : State) : s.cut.records = s.records := rfl
@[simp] theorem State.cut_scan (s : State) : s.cut.scan = s.scan := rfl
@[simp] theorem State.cut_schedule (s : State) : s.cut.schedule = s.schedule := rfl
@[simp] theorem State.cut_gates (s : State) : s.cut.gates = s.gates := rfl
@[simp] theorem State.cut_pocket (s : State) : s.cut.pocket = s.pocket := rfl
@[simp] theorem State.cut_printer (s : State) : s.cut.printer = s.printer := rfl
@[simp] theorem State.cut_router (s : State) : s.cut.router = s.router := rfl
@[simp] theorem State.cut_run (s : State) : s.cut.run = s.run := rfl
@[simp] theorem State.cut_protect (s : State) : s.cut.protect = s.protect := rfl
@[simp] theorem State.cut_tally (s : State) : s.cut.tally = s.tally := rfl
@[simp] theorem State.cut_reports (s : State) : s.cut.reports = s.reports := rfl
@[simp] theorem State.cut_port (s : State) : s.cut.port = s.port := rfl
@[simp] theorem State.cut_plan (s : State) : s.cut.plan = s.plan := rfl
@[simp] theorem State.cut_planValid (s : State) : s.cut.planValid = s.planValid := rfl
@[simp] theorem State.cut_mem (s : State) : s.cut.mem = s.mem := rfl
@[simp] theorem State.cut_openSeq (s : State) : s.cut.openSeq = s.openSeq := rfl
@[simp] theorem State.cut_drive_still (s : State) : s.cut.drive.still = s.drive.still := rfl
@[simp] theorem State.cut_drive_stillTimer (s : State) : s.cut.drive.stillTimer = s.drive.stillTimer := rfl
@[simp] theorem State.cut_drive_report (s : State) : s.cut.drive.report = none := rfl

/-! ### setPocket -/

@[simp] theorem State.setPocket_pending (s : State) (st : PocketState) : (s.setPocket st).pending = s.pending := rfl
@[simp] theorem State.setPocket_now (s : State) (st : PocketState) : (s.setPocket st).now = s.now := rfl
@[simp] theorem State.setPocket_position (s : State) (st : PocketState) :
    (s.setPocket st).position = s.position := rfl
@[simp] theorem State.setPocket_lastStep (s : State) (st : PocketState) :
    (s.setPocket st).lastStep = s.lastStep := rfl
@[simp] theorem State.setPocket_samples (s : State) (st : PocketState) : (s.setPocket st).samples = s.samples := rfl
@[simp] theorem State.setPocket_cellUnit (s : State) (st : PocketState) :
    (s.setPocket st).cellUnit = s.cellUnit := rfl
@[simp] theorem State.setPocket_admission (s : State) (st : PocketState) :
    (s.setPocket st).admission = s.admission := rfl
@[simp] theorem State.setPocket_records (s : State) (st : PocketState) : (s.setPocket st).records = s.records := rfl
@[simp] theorem State.setPocket_scan (s : State) (st : PocketState) : (s.setPocket st).scan = s.scan := rfl
@[simp] theorem State.setPocket_schedule (s : State) (st : PocketState) :
    (s.setPocket st).schedule = s.schedule := rfl
@[simp] theorem State.setPocket_gates (s : State) (st : PocketState) : (s.setPocket st).gates = s.gates := rfl
@[simp] theorem State.setPocket_printer (s : State) (st : PocketState) : (s.setPocket st).printer = s.printer := rfl
@[simp] theorem State.setPocket_router (s : State) (st : PocketState) : (s.setPocket st).router = s.router := rfl
@[simp] theorem State.setPocket_drive (s : State) (st : PocketState) : (s.setPocket st).drive = s.drive := rfl
@[simp] theorem State.setPocket_run (s : State) (st : PocketState) : (s.setPocket st).run = s.run := rfl
@[simp] theorem State.setPocket_protect (s : State) (st : PocketState) : (s.setPocket st).protect = s.protect := rfl
@[simp] theorem State.setPocket_tally (s : State) (st : PocketState) : (s.setPocket st).tally = s.tally := rfl
@[simp] theorem State.setPocket_reports (s : State) (st : PocketState) : (s.setPocket st).reports = s.reports := rfl
@[simp] theorem State.setPocket_port (s : State) (st : PocketState) : (s.setPocket st).port = s.port := rfl
@[simp] theorem State.setPocket_plan (s : State) (st : PocketState) : (s.setPocket st).plan = s.plan := rfl
@[simp] theorem State.setPocket_planValid (s : State) (st : PocketState) :
    (s.setPocket st).planValid = s.planValid := rfl
@[simp] theorem State.setPocket_mem (s : State) (st : PocketState) : (s.setPocket st).mem = s.mem := rfl
@[simp] theorem State.setPocket_openSeq (s : State) (st : PocketState) : (s.setPocket st).openSeq = s.openSeq := rfl
@[simp] theorem State.setPocket_pocket_occupant (s : State) (st : PocketState) :
    (s.setPocket st).pocket.occupant = s.pocket.occupant := rfl
@[simp] theorem State.setPocket_pocket_mergeHold (s : State) (st : PocketState) :
    (s.setPocket st).pocket.mergeHold = s.pocket.mergeHold := rfl

/-! ### emptyPocket -/

@[simp] theorem State.emptyPocket_pending (s : State) : s.emptyPocket.pending = s.pending := rfl
@[simp] theorem State.emptyPocket_now (s : State) : s.emptyPocket.now = s.now := rfl
@[simp] theorem State.emptyPocket_position (s : State) : s.emptyPocket.position = s.position := rfl
@[simp] theorem State.emptyPocket_lastStep (s : State) : s.emptyPocket.lastStep = s.lastStep := rfl
@[simp] theorem State.emptyPocket_samples (s : State) : s.emptyPocket.samples = s.samples := rfl
@[simp] theorem State.emptyPocket_cellUnit (s : State) : s.emptyPocket.cellUnit = s.cellUnit := rfl
@[simp] theorem State.emptyPocket_admission (s : State) : s.emptyPocket.admission = s.admission := rfl
@[simp] theorem State.emptyPocket_records (s : State) : s.emptyPocket.records = s.records := rfl
@[simp] theorem State.emptyPocket_scan (s : State) : s.emptyPocket.scan = s.scan := rfl
@[simp] theorem State.emptyPocket_schedule (s : State) : s.emptyPocket.schedule = s.schedule := rfl
@[simp] theorem State.emptyPocket_gates (s : State) : s.emptyPocket.gates = s.gates := rfl
@[simp] theorem State.emptyPocket_printer (s : State) : s.emptyPocket.printer = s.printer := rfl
@[simp] theorem State.emptyPocket_router (s : State) : s.emptyPocket.router = s.router := rfl
@[simp] theorem State.emptyPocket_drive (s : State) : s.emptyPocket.drive = s.drive := rfl
@[simp] theorem State.emptyPocket_protect (s : State) : s.emptyPocket.protect = s.protect := rfl
@[simp] theorem State.emptyPocket_tally (s : State) : s.emptyPocket.tally = s.tally := rfl
@[simp] theorem State.emptyPocket_reports (s : State) : s.emptyPocket.reports = s.reports := rfl
@[simp] theorem State.emptyPocket_port (s : State) : s.emptyPocket.port = s.port := rfl
@[simp] theorem State.emptyPocket_plan (s : State) : s.emptyPocket.plan = s.plan := rfl
@[simp] theorem State.emptyPocket_planValid (s : State) : s.emptyPocket.planValid = s.planValid := rfl
@[simp] theorem State.emptyPocket_mem (s : State) : s.emptyPocket.mem = s.mem := rfl
@[simp] theorem State.emptyPocket_openSeq (s : State) : s.emptyPocket.openSeq = s.openSeq := rfl
@[simp] theorem State.emptyPocket_run_state (s : State) : s.emptyPocket.run.state = s.run.state := rfl
@[simp] theorem State.emptyPocket_run_request (s : State) : s.emptyPocket.run.request = s.run.request := rfl
@[simp] theorem State.emptyPocket_run_hold_endFull (s : State) :
    s.emptyPocket.run.hold.endFull = s.run.hold.endFull := rfl

/-! ### freezePocket -/

@[simp] theorem State.freezePocket_pending (s : State) : s.freezePocket.pending = s.pending := rfl
@[simp] theorem State.freezePocket_now (s : State) : s.freezePocket.now = s.now := rfl
@[simp] theorem State.freezePocket_position (s : State) : s.freezePocket.position = s.position := rfl
@[simp] theorem State.freezePocket_lastStep (s : State) : s.freezePocket.lastStep = s.lastStep := rfl
@[simp] theorem State.freezePocket_samples (s : State) : s.freezePocket.samples = s.samples := rfl
@[simp] theorem State.freezePocket_cellUnit (s : State) : s.freezePocket.cellUnit = s.cellUnit := rfl
@[simp] theorem State.freezePocket_admission (s : State) : s.freezePocket.admission = s.admission := rfl
@[simp] theorem State.freezePocket_records (s : State) : s.freezePocket.records = s.records := rfl
@[simp] theorem State.freezePocket_scan (s : State) : s.freezePocket.scan = s.scan := rfl
@[simp] theorem State.freezePocket_schedule (s : State) : s.freezePocket.schedule = s.schedule := rfl
@[simp] theorem State.freezePocket_gates (s : State) : s.freezePocket.gates = s.gates := rfl
@[simp] theorem State.freezePocket_printer (s : State) : s.freezePocket.printer = s.printer := rfl
@[simp] theorem State.freezePocket_router (s : State) : s.freezePocket.router = s.router := rfl
@[simp] theorem State.freezePocket_drive (s : State) : s.freezePocket.drive = s.drive := rfl
@[simp] theorem State.freezePocket_run (s : State) : s.freezePocket.run = s.run := rfl
@[simp] theorem State.freezePocket_protect (s : State) : s.freezePocket.protect = s.protect := rfl
@[simp] theorem State.freezePocket_tally (s : State) : s.freezePocket.tally = s.tally := rfl
@[simp] theorem State.freezePocket_reports (s : State) : s.freezePocket.reports = s.reports := rfl
@[simp] theorem State.freezePocket_port (s : State) : s.freezePocket.port = s.port := rfl
@[simp] theorem State.freezePocket_plan (s : State) : s.freezePocket.plan = s.plan := rfl
@[simp] theorem State.freezePocket_planValid (s : State) : s.freezePocket.planValid = s.planValid := rfl
@[simp] theorem State.freezePocket_mem (s : State) : s.freezePocket.mem = s.mem := rfl
@[simp] theorem State.freezePocket_openSeq (s : State) : s.freezePocket.openSeq = s.openSeq := rfl
@[simp] theorem State.freezePocket_pocket_state (s : State) : s.freezePocket.pocket.state = s.pocket.state := rfl
@[simp] theorem State.freezePocket_pocket_occupant (s : State) :
    s.freezePocket.pocket.occupant = s.pocket.occupant := rfl
@[simp] theorem State.freezePocket_pocket_mergeHold (s : State) :
    s.freezePocket.pocket.mergeHold = s.pocket.mergeHold := rfl

/-! ### setLatch -/

@[simp] theorem State.setLatch_pending (s : State) (cause : TripCause) (cell : Option Cell) (at' : Pos) (piece : Option PieceNo) :
    (s.setLatch cause cell at' piece).pending = s.pending := rfl
@[simp] theorem State.setLatch_now (s : State) (cause : TripCause) (cell : Option Cell) (at' : Pos) (piece : Option PieceNo) :
    (s.setLatch cause cell at' piece).now = s.now := rfl
@[simp] theorem State.setLatch_position (s : State) (cause : TripCause) (cell : Option Cell) (at' : Pos) (piece : Option PieceNo) :
    (s.setLatch cause cell at' piece).position = s.position := rfl
@[simp] theorem State.setLatch_lastStep (s : State) (cause : TripCause) (cell : Option Cell) (at' : Pos) (piece : Option PieceNo) :
    (s.setLatch cause cell at' piece).lastStep = s.lastStep := rfl
@[simp] theorem State.setLatch_samples (s : State) (cause : TripCause) (cell : Option Cell) (at' : Pos) (piece : Option PieceNo) :
    (s.setLatch cause cell at' piece).samples = s.samples := rfl
@[simp] theorem State.setLatch_cellUnit (s : State) (cause : TripCause) (cell : Option Cell) (at' : Pos) (piece : Option PieceNo) :
    (s.setLatch cause cell at' piece).cellUnit = s.cellUnit := rfl
@[simp] theorem State.setLatch_admission (s : State) (cause : TripCause) (cell : Option Cell) (at' : Pos) (piece : Option PieceNo) :
    (s.setLatch cause cell at' piece).admission = s.admission := rfl
@[simp] theorem State.setLatch_records (s : State) (cause : TripCause) (cell : Option Cell) (at' : Pos) (piece : Option PieceNo) :
    (s.setLatch cause cell at' piece).records = s.records := rfl
@[simp] theorem State.setLatch_scan (s : State) (cause : TripCause) (cell : Option Cell) (at' : Pos) (piece : Option PieceNo) :
    (s.setLatch cause cell at' piece).scan = s.scan := rfl
@[simp] theorem State.setLatch_schedule (s : State) (cause : TripCause) (cell : Option Cell) (at' : Pos) (piece : Option PieceNo) :
    (s.setLatch cause cell at' piece).schedule = s.schedule := rfl
@[simp] theorem State.setLatch_gates (s : State) (cause : TripCause) (cell : Option Cell) (at' : Pos) (piece : Option PieceNo) :
    (s.setLatch cause cell at' piece).gates = s.gates := rfl
@[simp] theorem State.setLatch_pocket (s : State) (cause : TripCause) (cell : Option Cell) (at' : Pos) (piece : Option PieceNo) :
    (s.setLatch cause cell at' piece).pocket = s.pocket := rfl
@[simp] theorem State.setLatch_printer (s : State) (cause : TripCause) (cell : Option Cell) (at' : Pos) (piece : Option PieceNo) :
    (s.setLatch cause cell at' piece).printer = s.printer := rfl
@[simp] theorem State.setLatch_router (s : State) (cause : TripCause) (cell : Option Cell) (at' : Pos) (piece : Option PieceNo) :
    (s.setLatch cause cell at' piece).router = s.router := rfl
@[simp] theorem State.setLatch_drive (s : State) (cause : TripCause) (cell : Option Cell) (at' : Pos) (piece : Option PieceNo) :
    (s.setLatch cause cell at' piece).drive = s.drive := rfl
@[simp] theorem State.setLatch_run (s : State) (cause : TripCause) (cell : Option Cell) (at' : Pos) (piece : Option PieceNo) :
    (s.setLatch cause cell at' piece).run = s.run := rfl
@[simp] theorem State.setLatch_tally (s : State) (cause : TripCause) (cell : Option Cell) (at' : Pos) (piece : Option PieceNo) :
    (s.setLatch cause cell at' piece).tally = s.tally := rfl
@[simp] theorem State.setLatch_reports (s : State) (cause : TripCause) (cell : Option Cell) (at' : Pos) (piece : Option PieceNo) :
    (s.setLatch cause cell at' piece).reports = s.reports := rfl
@[simp] theorem State.setLatch_port (s : State) (cause : TripCause) (cell : Option Cell) (at' : Pos) (piece : Option PieceNo) :
    (s.setLatch cause cell at' piece).port = s.port := rfl
@[simp] theorem State.setLatch_plan (s : State) (cause : TripCause) (cell : Option Cell) (at' : Pos) (piece : Option PieceNo) :
    (s.setLatch cause cell at' piece).plan = s.plan := rfl
@[simp] theorem State.setLatch_planValid (s : State) (cause : TripCause) (cell : Option Cell) (at' : Pos) (piece : Option PieceNo) :
    (s.setLatch cause cell at' piece).planValid = s.planValid := rfl
@[simp] theorem State.setLatch_mem (s : State) (cause : TripCause) (cell : Option Cell) (at' : Pos) (piece : Option PieceNo) :
    (s.setLatch cause cell at' piece).mem = s.mem := rfl
@[simp] theorem State.setLatch_openSeq (s : State) (cause : TripCause) (cell : Option Cell) (at' : Pos) (piece : Option PieceNo) :
    (s.setLatch cause cell at' piece).openSeq = s.openSeq := rfl
@[simp] theorem State.setLatch_protect_guardIsOpen (s : State) (cause : TripCause) (cell : Option Cell) (at' : Pos) (piece : Option PieceNo) :
    (s.setLatch cause cell at' piece).protect.guardIsOpen = s.protect.guardIsOpen := rfl

/-! ### removeEntries -/

@[simp] theorem State.removeEntries_pending (s : State) (p : PieceNo) (k : EntryKind) :
    (s.removeEntries p k).pending = s.pending := rfl
@[simp] theorem State.removeEntries_now (s : State) (p : PieceNo) (k : EntryKind) :
    (s.removeEntries p k).now = s.now := rfl
@[simp] theorem State.removeEntries_position (s : State) (p : PieceNo) (k : EntryKind) :
    (s.removeEntries p k).position = s.position := rfl
@[simp] theorem State.removeEntries_lastStep (s : State) (p : PieceNo) (k : EntryKind) :
    (s.removeEntries p k).lastStep = s.lastStep := rfl
@[simp] theorem State.removeEntries_samples (s : State) (p : PieceNo) (k : EntryKind) :
    (s.removeEntries p k).samples = s.samples := rfl
@[simp] theorem State.removeEntries_cellUnit (s : State) (p : PieceNo) (k : EntryKind) :
    (s.removeEntries p k).cellUnit = s.cellUnit := rfl
@[simp] theorem State.removeEntries_admission (s : State) (p : PieceNo) (k : EntryKind) :
    (s.removeEntries p k).admission = s.admission := rfl
@[simp] theorem State.removeEntries_records (s : State) (p : PieceNo) (k : EntryKind) :
    (s.removeEntries p k).records = s.records := rfl
@[simp] theorem State.removeEntries_scan (s : State) (p : PieceNo) (k : EntryKind) :
    (s.removeEntries p k).scan = s.scan := rfl
@[simp] theorem State.removeEntries_gates (s : State) (p : PieceNo) (k : EntryKind) :
    (s.removeEntries p k).gates = s.gates := rfl
@[simp] theorem State.removeEntries_pocket (s : State) (p : PieceNo) (k : EntryKind) :
    (s.removeEntries p k).pocket = s.pocket := rfl
@[simp] theorem State.removeEntries_printer (s : State) (p : PieceNo) (k : EntryKind) :
    (s.removeEntries p k).printer = s.printer := rfl
@[simp] theorem State.removeEntries_router (s : State) (p : PieceNo) (k : EntryKind) :
    (s.removeEntries p k).router = s.router := rfl
@[simp] theorem State.removeEntries_drive (s : State) (p : PieceNo) (k : EntryKind) :
    (s.removeEntries p k).drive = s.drive := rfl
@[simp] theorem State.removeEntries_run (s : State) (p : PieceNo) (k : EntryKind) :
    (s.removeEntries p k).run = s.run := rfl
@[simp] theorem State.removeEntries_protect (s : State) (p : PieceNo) (k : EntryKind) :
    (s.removeEntries p k).protect = s.protect := rfl
@[simp] theorem State.removeEntries_tally (s : State) (p : PieceNo) (k : EntryKind) :
    (s.removeEntries p k).tally = s.tally := rfl
@[simp] theorem State.removeEntries_reports (s : State) (p : PieceNo) (k : EntryKind) :
    (s.removeEntries p k).reports = s.reports := rfl
@[simp] theorem State.removeEntries_port (s : State) (p : PieceNo) (k : EntryKind) :
    (s.removeEntries p k).port = s.port := rfl
@[simp] theorem State.removeEntries_plan (s : State) (p : PieceNo) (k : EntryKind) :
    (s.removeEntries p k).plan = s.plan := rfl
@[simp] theorem State.removeEntries_planValid (s : State) (p : PieceNo) (k : EntryKind) :
    (s.removeEntries p k).planValid = s.planValid := rfl
@[simp] theorem State.removeEntries_mem (s : State) (p : PieceNo) (k : EntryKind) :
    (s.removeEntries p k).mem = s.mem := rfl
@[simp] theorem State.removeEntries_openSeq (s : State) (p : PieceNo) (k : EntryKind) :
    (s.removeEntries p k).openSeq = s.openSeq := rfl

/-! ### expectUntracked -/

@[simp] theorem State.expectUntracked_pending (s : State) (c : Cell) (lead : Pos) :
    (s.expectUntracked c lead).pending = s.pending := rfl
@[simp] theorem State.expectUntracked_now (s : State) (c : Cell) (lead : Pos) :
    (s.expectUntracked c lead).now = s.now := rfl
@[simp] theorem State.expectUntracked_position (s : State) (c : Cell) (lead : Pos) :
    (s.expectUntracked c lead).position = s.position := rfl
@[simp] theorem State.expectUntracked_lastStep (s : State) (c : Cell) (lead : Pos) :
    (s.expectUntracked c lead).lastStep = s.lastStep := rfl
@[simp] theorem State.expectUntracked_samples (s : State) (c : Cell) (lead : Pos) :
    (s.expectUntracked c lead).samples = s.samples := rfl
@[simp] theorem State.expectUntracked_admission (s : State) (c : Cell) (lead : Pos) :
    (s.expectUntracked c lead).admission = s.admission := rfl
@[simp] theorem State.expectUntracked_records (s : State) (c : Cell) (lead : Pos) :
    (s.expectUntracked c lead).records = s.records := rfl
@[simp] theorem State.expectUntracked_scan (s : State) (c : Cell) (lead : Pos) :
    (s.expectUntracked c lead).scan = s.scan := rfl
@[simp] theorem State.expectUntracked_schedule (s : State) (c : Cell) (lead : Pos) :
    (s.expectUntracked c lead).schedule = s.schedule := rfl
@[simp] theorem State.expectUntracked_gates (s : State) (c : Cell) (lead : Pos) :
    (s.expectUntracked c lead).gates = s.gates := rfl
@[simp] theorem State.expectUntracked_pocket (s : State) (c : Cell) (lead : Pos) :
    (s.expectUntracked c lead).pocket = s.pocket := rfl
@[simp] theorem State.expectUntracked_printer (s : State) (c : Cell) (lead : Pos) :
    (s.expectUntracked c lead).printer = s.printer := rfl
@[simp] theorem State.expectUntracked_router (s : State) (c : Cell) (lead : Pos) :
    (s.expectUntracked c lead).router = s.router := rfl
@[simp] theorem State.expectUntracked_drive (s : State) (c : Cell) (lead : Pos) :
    (s.expectUntracked c lead).drive = s.drive := rfl
@[simp] theorem State.expectUntracked_run (s : State) (c : Cell) (lead : Pos) :
    (s.expectUntracked c lead).run = s.run := rfl
@[simp] theorem State.expectUntracked_protect (s : State) (c : Cell) (lead : Pos) :
    (s.expectUntracked c lead).protect = s.protect := rfl
@[simp] theorem State.expectUntracked_tally (s : State) (c : Cell) (lead : Pos) :
    (s.expectUntracked c lead).tally = s.tally := rfl
@[simp] theorem State.expectUntracked_reports (s : State) (c : Cell) (lead : Pos) :
    (s.expectUntracked c lead).reports = s.reports := rfl
@[simp] theorem State.expectUntracked_port (s : State) (c : Cell) (lead : Pos) :
    (s.expectUntracked c lead).port = s.port := rfl
@[simp] theorem State.expectUntracked_plan (s : State) (c : Cell) (lead : Pos) :
    (s.expectUntracked c lead).plan = s.plan := rfl
@[simp] theorem State.expectUntracked_planValid (s : State) (c : Cell) (lead : Pos) :
    (s.expectUntracked c lead).planValid = s.planValid := rfl
@[simp] theorem State.expectUntracked_mem (s : State) (c : Cell) (lead : Pos) :
    (s.expectUntracked c lead).mem = s.mem := rfl
@[simp] theorem State.expectUntracked_openSeq (s : State) (c : Cell) (lead : Pos) :
    (s.expectUntracked c lead).openSeq = s.openSeq := rfl
@[simp] theorem State.expectUntracked_cellUnit_cells (s : State) (c : Cell) (lead : Pos) :
    (s.expectUntracked c lead).cellUnit.cells = s.cellUnit.cells := rfl

/-! ### clearOccupancies -/

@[simp] theorem State.clearOccupancies_pending (s : State) (p : PieceNo) :
    (s.clearOccupancies p).pending = s.pending := rfl
@[simp] theorem State.clearOccupancies_now (s : State) (p : PieceNo) : (s.clearOccupancies p).now = s.now := rfl
@[simp] theorem State.clearOccupancies_position (s : State) (p : PieceNo) :
    (s.clearOccupancies p).position = s.position := rfl
@[simp] theorem State.clearOccupancies_lastStep (s : State) (p : PieceNo) :
    (s.clearOccupancies p).lastStep = s.lastStep := rfl
@[simp] theorem State.clearOccupancies_samples (s : State) (p : PieceNo) :
    (s.clearOccupancies p).samples = s.samples := rfl
@[simp] theorem State.clearOccupancies_admission (s : State) (p : PieceNo) :
    (s.clearOccupancies p).admission = s.admission := rfl
@[simp] theorem State.clearOccupancies_records (s : State) (p : PieceNo) :
    (s.clearOccupancies p).records = s.records := rfl
@[simp] theorem State.clearOccupancies_scan (s : State) (p : PieceNo) : (s.clearOccupancies p).scan = s.scan := rfl
@[simp] theorem State.clearOccupancies_schedule (s : State) (p : PieceNo) :
    (s.clearOccupancies p).schedule = s.schedule := rfl
@[simp] theorem State.clearOccupancies_gates (s : State) (p : PieceNo) : (s.clearOccupancies p).gates = s.gates := rfl
@[simp] theorem State.clearOccupancies_pocket (s : State) (p : PieceNo) :
    (s.clearOccupancies p).pocket = s.pocket := rfl
@[simp] theorem State.clearOccupancies_printer (s : State) (p : PieceNo) :
    (s.clearOccupancies p).printer = s.printer := rfl
@[simp] theorem State.clearOccupancies_router (s : State) (p : PieceNo) :
    (s.clearOccupancies p).router = s.router := rfl
@[simp] theorem State.clearOccupancies_drive (s : State) (p : PieceNo) : (s.clearOccupancies p).drive = s.drive := rfl
@[simp] theorem State.clearOccupancies_run (s : State) (p : PieceNo) : (s.clearOccupancies p).run = s.run := rfl
@[simp] theorem State.clearOccupancies_protect (s : State) (p : PieceNo) :
    (s.clearOccupancies p).protect = s.protect := rfl
@[simp] theorem State.clearOccupancies_tally (s : State) (p : PieceNo) : (s.clearOccupancies p).tally = s.tally := rfl
@[simp] theorem State.clearOccupancies_reports (s : State) (p : PieceNo) :
    (s.clearOccupancies p).reports = s.reports := rfl
@[simp] theorem State.clearOccupancies_port (s : State) (p : PieceNo) : (s.clearOccupancies p).port = s.port := rfl
@[simp] theorem State.clearOccupancies_plan (s : State) (p : PieceNo) : (s.clearOccupancies p).plan = s.plan := rfl
@[simp] theorem State.clearOccupancies_planValid (s : State) (p : PieceNo) :
    (s.clearOccupancies p).planValid = s.planValid := rfl
@[simp] theorem State.clearOccupancies_mem (s : State) (p : PieceNo) : (s.clearOccupancies p).mem = s.mem := rfl
@[simp] theorem State.clearOccupancies_openSeq (s : State) (p : PieceNo) :
    (s.clearOccupancies p).openSeq = s.openSeq := rfl
@[simp] theorem State.clearOccupancies_cellUnit_queues (s : State) (p : PieceNo) :
    (s.clearOccupancies p).cellUnit.queues = s.cellUnit.queues := rfl

/-! ### releaseSlot -/

@[simp] theorem State.releaseSlot_pending (s : State) (i : Fin 2) : (s.releaseSlot i).pending = s.pending := rfl
@[simp] theorem State.releaseSlot_now (s : State) (i : Fin 2) : (s.releaseSlot i).now = s.now := rfl
@[simp] theorem State.releaseSlot_position (s : State) (i : Fin 2) : (s.releaseSlot i).position = s.position := rfl
@[simp] theorem State.releaseSlot_lastStep (s : State) (i : Fin 2) : (s.releaseSlot i).lastStep = s.lastStep := rfl
@[simp] theorem State.releaseSlot_samples (s : State) (i : Fin 2) : (s.releaseSlot i).samples = s.samples := rfl
@[simp] theorem State.releaseSlot_cellUnit (s : State) (i : Fin 2) : (s.releaseSlot i).cellUnit = s.cellUnit := rfl
@[simp] theorem State.releaseSlot_admission (s : State) (i : Fin 2) : (s.releaseSlot i).admission = s.admission := rfl
@[simp] theorem State.releaseSlot_records (s : State) (i : Fin 2) : (s.releaseSlot i).records = s.records := rfl
@[simp] theorem State.releaseSlot_scan (s : State) (i : Fin 2) : (s.releaseSlot i).scan = s.scan := rfl
@[simp] theorem State.releaseSlot_schedule (s : State) (i : Fin 2) : (s.releaseSlot i).schedule = s.schedule := rfl
@[simp] theorem State.releaseSlot_gates (s : State) (i : Fin 2) : (s.releaseSlot i).gates = s.gates := rfl
@[simp] theorem State.releaseSlot_pocket (s : State) (i : Fin 2) : (s.releaseSlot i).pocket = s.pocket := rfl
@[simp] theorem State.releaseSlot_router (s : State) (i : Fin 2) : (s.releaseSlot i).router = s.router := rfl
@[simp] theorem State.releaseSlot_drive (s : State) (i : Fin 2) : (s.releaseSlot i).drive = s.drive := rfl
@[simp] theorem State.releaseSlot_run (s : State) (i : Fin 2) : (s.releaseSlot i).run = s.run := rfl
@[simp] theorem State.releaseSlot_protect (s : State) (i : Fin 2) : (s.releaseSlot i).protect = s.protect := rfl
@[simp] theorem State.releaseSlot_tally (s : State) (i : Fin 2) : (s.releaseSlot i).tally = s.tally := rfl
@[simp] theorem State.releaseSlot_reports (s : State) (i : Fin 2) : (s.releaseSlot i).reports = s.reports := rfl
@[simp] theorem State.releaseSlot_port (s : State) (i : Fin 2) : (s.releaseSlot i).port = s.port := rfl
@[simp] theorem State.releaseSlot_plan (s : State) (i : Fin 2) : (s.releaseSlot i).plan = s.plan := rfl
@[simp] theorem State.releaseSlot_planValid (s : State) (i : Fin 2) : (s.releaseSlot i).planValid = s.planValid := rfl
@[simp] theorem State.releaseSlot_mem (s : State) (i : Fin 2) : (s.releaseSlot i).mem = s.mem := rfl
@[simp] theorem State.releaseSlot_openSeq (s : State) (i : Fin 2) : (s.releaseSlot i).openSeq = s.openSeq := rfl
@[simp] theorem State.releaseSlot_printer_active (s : State) (i : Fin 2) :
    (s.releaseSlot i).printer.active = s.printer.active := rfl
@[simp] theorem State.releaseSlot_printer_waiting (s : State) (i : Fin 2) :
    (s.releaseSlot i).printer.waiting = s.printer.waiting := rfl
@[simp] theorem State.releaseSlot_printer_banks (s : State) (i : Fin 2) :
    (s.releaseSlot i).printer.banks = s.printer.banks := rfl
@[simp] theorem State.releaseSlot_printer_job (s : State) (i : Fin 2) :
    (s.releaseSlot i).printer.job = s.printer.job := rfl
@[simp] theorem State.releaseSlot_printer_head (s : State) (i : Fin 2) :
    (s.releaseSlot i).printer.head = s.printer.head := rfl

/-! ### appendReport -/

@[simp] theorem State.appendReport_pending (s : State) (x : Report) : (s.appendReport x).pending = s.pending := rfl
@[simp] theorem State.appendReport_now (s : State) (x : Report) : (s.appendReport x).now = s.now := rfl
@[simp] theorem State.appendReport_position (s : State) (x : Report) : (s.appendReport x).position = s.position := rfl
@[simp] theorem State.appendReport_lastStep (s : State) (x : Report) : (s.appendReport x).lastStep = s.lastStep := rfl
@[simp] theorem State.appendReport_samples (s : State) (x : Report) : (s.appendReport x).samples = s.samples := rfl
@[simp] theorem State.appendReport_cellUnit (s : State) (x : Report) : (s.appendReport x).cellUnit = s.cellUnit := rfl
@[simp] theorem State.appendReport_admission (s : State) (x : Report) :
    (s.appendReport x).admission = s.admission := rfl
@[simp] theorem State.appendReport_records (s : State) (x : Report) : (s.appendReport x).records = s.records := rfl
@[simp] theorem State.appendReport_scan (s : State) (x : Report) : (s.appendReport x).scan = s.scan := rfl
@[simp] theorem State.appendReport_schedule (s : State) (x : Report) : (s.appendReport x).schedule = s.schedule := rfl
@[simp] theorem State.appendReport_gates (s : State) (x : Report) : (s.appendReport x).gates = s.gates := rfl
@[simp] theorem State.appendReport_pocket (s : State) (x : Report) : (s.appendReport x).pocket = s.pocket := rfl
@[simp] theorem State.appendReport_printer (s : State) (x : Report) : (s.appendReport x).printer = s.printer := rfl
@[simp] theorem State.appendReport_router (s : State) (x : Report) : (s.appendReport x).router = s.router := rfl
@[simp] theorem State.appendReport_drive (s : State) (x : Report) : (s.appendReport x).drive = s.drive := rfl
@[simp] theorem State.appendReport_run (s : State) (x : Report) : (s.appendReport x).run = s.run := rfl
@[simp] theorem State.appendReport_protect (s : State) (x : Report) : (s.appendReport x).protect = s.protect := rfl
@[simp] theorem State.appendReport_tally (s : State) (x : Report) : (s.appendReport x).tally = s.tally := rfl
@[simp] theorem State.appendReport_port (s : State) (x : Report) : (s.appendReport x).port = s.port := rfl
@[simp] theorem State.appendReport_plan (s : State) (x : Report) : (s.appendReport x).plan = s.plan := rfl
@[simp] theorem State.appendReport_planValid (s : State) (x : Report) :
    (s.appendReport x).planValid = s.planValid := rfl
@[simp] theorem State.appendReport_mem (s : State) (x : Report) : (s.appendReport x).mem = s.mem := rfl
@[simp] theorem State.appendReport_openSeq (s : State) (x : Report) : (s.appendReport x).openSeq = s.openSeq := rfl
@[simp] theorem State.appendReport_reports_tray (s : State) (x : Report) :
    (s.appendReport x).reports.tray = s.reports.tray := rfl
@[simp] theorem State.appendReport_reports_starved (s : State) (x : Report) :
    (s.appendReport x).reports.starved = s.reports.starved := rfl
@[simp] theorem State.appendReport_reports_closeDue (s : State) (x : Report) :
    (s.appendReport x).reports.closeDue = s.reports.closeDue := rfl

/-! ### takeTray -/

@[simp] theorem State.takeTray_pending (s : State) (i : Fin 16) : (s.takeTray i).pending = s.pending := rfl
@[simp] theorem State.takeTray_now (s : State) (i : Fin 16) : (s.takeTray i).now = s.now := rfl
@[simp] theorem State.takeTray_position (s : State) (i : Fin 16) : (s.takeTray i).position = s.position := rfl
@[simp] theorem State.takeTray_lastStep (s : State) (i : Fin 16) : (s.takeTray i).lastStep = s.lastStep := rfl
@[simp] theorem State.takeTray_samples (s : State) (i : Fin 16) : (s.takeTray i).samples = s.samples := rfl
@[simp] theorem State.takeTray_cellUnit (s : State) (i : Fin 16) : (s.takeTray i).cellUnit = s.cellUnit := rfl
@[simp] theorem State.takeTray_admission (s : State) (i : Fin 16) : (s.takeTray i).admission = s.admission := rfl
@[simp] theorem State.takeTray_records (s : State) (i : Fin 16) : (s.takeTray i).records = s.records := rfl
@[simp] theorem State.takeTray_scan (s : State) (i : Fin 16) : (s.takeTray i).scan = s.scan := rfl
@[simp] theorem State.takeTray_schedule (s : State) (i : Fin 16) : (s.takeTray i).schedule = s.schedule := rfl
@[simp] theorem State.takeTray_gates (s : State) (i : Fin 16) : (s.takeTray i).gates = s.gates := rfl
@[simp] theorem State.takeTray_pocket (s : State) (i : Fin 16) : (s.takeTray i).pocket = s.pocket := rfl
@[simp] theorem State.takeTray_printer (s : State) (i : Fin 16) : (s.takeTray i).printer = s.printer := rfl
@[simp] theorem State.takeTray_router (s : State) (i : Fin 16) : (s.takeTray i).router = s.router := rfl
@[simp] theorem State.takeTray_drive (s : State) (i : Fin 16) : (s.takeTray i).drive = s.drive := rfl
@[simp] theorem State.takeTray_run (s : State) (i : Fin 16) : (s.takeTray i).run = s.run := rfl
@[simp] theorem State.takeTray_protect (s : State) (i : Fin 16) : (s.takeTray i).protect = s.protect := rfl
@[simp] theorem State.takeTray_tally (s : State) (i : Fin 16) : (s.takeTray i).tally = s.tally := rfl
@[simp] theorem State.takeTray_port (s : State) (i : Fin 16) : (s.takeTray i).port = s.port := rfl
@[simp] theorem State.takeTray_plan (s : State) (i : Fin 16) : (s.takeTray i).plan = s.plan := rfl
@[simp] theorem State.takeTray_planValid (s : State) (i : Fin 16) : (s.takeTray i).planValid = s.planValid := rfl
@[simp] theorem State.takeTray_openSeq (s : State) (i : Fin 16) : (s.takeTray i).openSeq = s.openSeq := rfl
@[simp] theorem State.takeTray_reports_held (s : State) (i : Fin 16) :
    (s.takeTray i).reports.held = s.reports.held := rfl
@[simp] theorem State.takeTray_reports_closeDue (s : State) (i : Fin 16) :
    (s.takeTray i).reports.closeDue = s.reports.closeDue := rfl

/-! ### reachTime -/

@[simp] theorem State.reachTime_pending (s : State) (d : Nat) : (s.reachTime d).pending = s.pending := rfl
@[simp] theorem State.reachTime_position (s : State) (d : Nat) : (s.reachTime d).position = s.position := rfl
@[simp] theorem State.reachTime_lastStep (s : State) (d : Nat) : (s.reachTime d).lastStep = s.lastStep := rfl
@[simp] theorem State.reachTime_samples (s : State) (d : Nat) : (s.reachTime d).samples = s.samples := rfl
@[simp] theorem State.reachTime_cellUnit (s : State) (d : Nat) : (s.reachTime d).cellUnit = s.cellUnit := rfl
@[simp] theorem State.reachTime_admission (s : State) (d : Nat) : (s.reachTime d).admission = s.admission := rfl
@[simp] theorem State.reachTime_records (s : State) (d : Nat) : (s.reachTime d).records = s.records := rfl
@[simp] theorem State.reachTime_scan (s : State) (d : Nat) : (s.reachTime d).scan = s.scan := rfl
@[simp] theorem State.reachTime_schedule (s : State) (d : Nat) : (s.reachTime d).schedule = s.schedule := rfl
@[simp] theorem State.reachTime_gates (s : State) (d : Nat) : (s.reachTime d).gates = s.gates := rfl
@[simp] theorem State.reachTime_pocket (s : State) (d : Nat) : (s.reachTime d).pocket = s.pocket := rfl
@[simp] theorem State.reachTime_printer (s : State) (d : Nat) : (s.reachTime d).printer = s.printer := rfl
@[simp] theorem State.reachTime_router (s : State) (d : Nat) : (s.reachTime d).router = s.router := rfl
@[simp] theorem State.reachTime_drive (s : State) (d : Nat) : (s.reachTime d).drive = s.drive := rfl
@[simp] theorem State.reachTime_run (s : State) (d : Nat) : (s.reachTime d).run = s.run := rfl
@[simp] theorem State.reachTime_protect (s : State) (d : Nat) : (s.reachTime d).protect = s.protect := rfl
@[simp] theorem State.reachTime_tally (s : State) (d : Nat) : (s.reachTime d).tally = s.tally := rfl
@[simp] theorem State.reachTime_reports (s : State) (d : Nat) : (s.reachTime d).reports = s.reports := rfl
@[simp] theorem State.reachTime_port (s : State) (d : Nat) : (s.reachTime d).port = s.port := rfl
@[simp] theorem State.reachTime_plan (s : State) (d : Nat) : (s.reachTime d).plan = s.plan := rfl
@[simp] theorem State.reachTime_planValid (s : State) (d : Nat) : (s.reachTime d).planValid = s.planValid := rfl
@[simp] theorem State.reachTime_mem (s : State) (d : Nat) : (s.reachTime d).mem = s.mem := rfl
@[simp] theorem State.reachTime_openSeq (s : State) (d : Nat) : (s.reachTime d).openSeq = s.openSeq := rfl

/-! ### makePending -/

@[simp] theorem State.makePending_pending (s : State) (kind : RunKind) (cell : Fin 8) (tag : Word) :
    (s.makePending kind cell tag).pending = s.pending := rfl
@[simp] theorem State.makePending_now (s : State) (kind : RunKind) (cell : Fin 8) (tag : Word) :
    (s.makePending kind cell tag).now = s.now := rfl
@[simp] theorem State.makePending_position (s : State) (kind : RunKind) (cell : Fin 8) (tag : Word) :
    (s.makePending kind cell tag).position = s.position := rfl
@[simp] theorem State.makePending_lastStep (s : State) (kind : RunKind) (cell : Fin 8) (tag : Word) :
    (s.makePending kind cell tag).lastStep = s.lastStep := rfl
@[simp] theorem State.makePending_samples (s : State) (kind : RunKind) (cell : Fin 8) (tag : Word) :
    (s.makePending kind cell tag).samples = s.samples := rfl
@[simp] theorem State.makePending_cellUnit (s : State) (kind : RunKind) (cell : Fin 8) (tag : Word) :
    (s.makePending kind cell tag).cellUnit = s.cellUnit := rfl
@[simp] theorem State.makePending_admission (s : State) (kind : RunKind) (cell : Fin 8) (tag : Word) :
    (s.makePending kind cell tag).admission = s.admission := rfl
@[simp] theorem State.makePending_records (s : State) (kind : RunKind) (cell : Fin 8) (tag : Word) :
    (s.makePending kind cell tag).records = s.records := rfl
@[simp] theorem State.makePending_scan (s : State) (kind : RunKind) (cell : Fin 8) (tag : Word) :
    (s.makePending kind cell tag).scan = s.scan := rfl
@[simp] theorem State.makePending_schedule (s : State) (kind : RunKind) (cell : Fin 8) (tag : Word) :
    (s.makePending kind cell tag).schedule = s.schedule := rfl
@[simp] theorem State.makePending_gates (s : State) (kind : RunKind) (cell : Fin 8) (tag : Word) :
    (s.makePending kind cell tag).gates = s.gates := rfl
@[simp] theorem State.makePending_pocket (s : State) (kind : RunKind) (cell : Fin 8) (tag : Word) :
    (s.makePending kind cell tag).pocket = s.pocket := rfl
@[simp] theorem State.makePending_printer (s : State) (kind : RunKind) (cell : Fin 8) (tag : Word) :
    (s.makePending kind cell tag).printer = s.printer := rfl
@[simp] theorem State.makePending_router (s : State) (kind : RunKind) (cell : Fin 8) (tag : Word) :
    (s.makePending kind cell tag).router = s.router := rfl
@[simp] theorem State.makePending_drive (s : State) (kind : RunKind) (cell : Fin 8) (tag : Word) :
    (s.makePending kind cell tag).drive = s.drive := rfl
@[simp] theorem State.makePending_protect (s : State) (kind : RunKind) (cell : Fin 8) (tag : Word) :
    (s.makePending kind cell tag).protect = s.protect := rfl
@[simp] theorem State.makePending_tally (s : State) (kind : RunKind) (cell : Fin 8) (tag : Word) :
    (s.makePending kind cell tag).tally = s.tally := rfl
@[simp] theorem State.makePending_reports (s : State) (kind : RunKind) (cell : Fin 8) (tag : Word) :
    (s.makePending kind cell tag).reports = s.reports := rfl
@[simp] theorem State.makePending_port (s : State) (kind : RunKind) (cell : Fin 8) (tag : Word) :
    (s.makePending kind cell tag).port = s.port := rfl
@[simp] theorem State.makePending_plan (s : State) (kind : RunKind) (cell : Fin 8) (tag : Word) :
    (s.makePending kind cell tag).plan = s.plan := rfl
@[simp] theorem State.makePending_planValid (s : State) (kind : RunKind) (cell : Fin 8) (tag : Word) :
    (s.makePending kind cell tag).planValid = s.planValid := rfl
@[simp] theorem State.makePending_mem (s : State) (kind : RunKind) (cell : Fin 8) (tag : Word) :
    (s.makePending kind cell tag).mem = s.mem := rfl
@[simp] theorem State.makePending_openSeq (s : State) (kind : RunKind) (cell : Fin 8) (tag : Word) :
    (s.makePending kind cell tag).openSeq = s.openSeq := rfl
@[simp] theorem State.makePending_run_state (s : State) (kind : RunKind) (cell : Fin 8) (tag : Word) :
    (s.makePending kind cell tag).run.state = s.run.state := rfl
@[simp] theorem State.makePending_run_hold_endFull (s : State) (kind : RunKind) (cell : Fin 8) (tag : Word) :
    (s.makePending kind cell tag).run.hold.endFull = s.run.hold.endFull := rfl
@[simp] theorem State.makePending_run_hold_mergeGap (s : State) (kind : RunKind) (cell : Fin 8) (tag : Word) :
    (s.makePending kind cell tag).run.hold.mergeGap = s.run.hold.mergeGap := rfl

/-! ### reservePocket -/

@[simp] theorem State.reservePocket_pending (s : State) (p : PieceNo) : (s.reservePocket p).pending = s.pending := rfl
@[simp] theorem State.reservePocket_now (s : State) (p : PieceNo) : (s.reservePocket p).now = s.now := rfl
@[simp] theorem State.reservePocket_position (s : State) (p : PieceNo) :
    (s.reservePocket p).position = s.position := rfl
@[simp] theorem State.reservePocket_lastStep (s : State) (p : PieceNo) :
    (s.reservePocket p).lastStep = s.lastStep := rfl
@[simp] theorem State.reservePocket_samples (s : State) (p : PieceNo) : (s.reservePocket p).samples = s.samples := rfl
@[simp] theorem State.reservePocket_cellUnit (s : State) (p : PieceNo) :
    (s.reservePocket p).cellUnit = s.cellUnit := rfl
@[simp] theorem State.reservePocket_admission (s : State) (p : PieceNo) :
    (s.reservePocket p).admission = s.admission := rfl
@[simp] theorem State.reservePocket_records (s : State) (p : PieceNo) : (s.reservePocket p).records = s.records := rfl
@[simp] theorem State.reservePocket_scan (s : State) (p : PieceNo) : (s.reservePocket p).scan = s.scan := rfl
@[simp] theorem State.reservePocket_schedule (s : State) (p : PieceNo) :
    (s.reservePocket p).schedule = s.schedule := rfl
@[simp] theorem State.reservePocket_gates (s : State) (p : PieceNo) : (s.reservePocket p).gates = s.gates := rfl
@[simp] theorem State.reservePocket_printer (s : State) (p : PieceNo) : (s.reservePocket p).printer = s.printer := rfl
@[simp] theorem State.reservePocket_router (s : State) (p : PieceNo) : (s.reservePocket p).router = s.router := rfl
@[simp] theorem State.reservePocket_drive (s : State) (p : PieceNo) : (s.reservePocket p).drive = s.drive := rfl
@[simp] theorem State.reservePocket_run (s : State) (p : PieceNo) : (s.reservePocket p).run = s.run := rfl
@[simp] theorem State.reservePocket_protect (s : State) (p : PieceNo) : (s.reservePocket p).protect = s.protect := rfl
@[simp] theorem State.reservePocket_tally (s : State) (p : PieceNo) : (s.reservePocket p).tally = s.tally := rfl
@[simp] theorem State.reservePocket_reports (s : State) (p : PieceNo) : (s.reservePocket p).reports = s.reports := rfl
@[simp] theorem State.reservePocket_port (s : State) (p : PieceNo) : (s.reservePocket p).port = s.port := rfl
@[simp] theorem State.reservePocket_plan (s : State) (p : PieceNo) : (s.reservePocket p).plan = s.plan := rfl
@[simp] theorem State.reservePocket_planValid (s : State) (p : PieceNo) :
    (s.reservePocket p).planValid = s.planValid := rfl
@[simp] theorem State.reservePocket_mem (s : State) (p : PieceNo) : (s.reservePocket p).mem = s.mem := rfl
@[simp] theorem State.reservePocket_openSeq (s : State) (p : PieceNo) : (s.reservePocket p).openSeq = s.openSeq := rfl
@[simp] theorem State.reservePocket_pocket_mergeHold (s : State) (p : PieceNo) :
    (s.reservePocket p).pocket.mergeHold = s.pocket.mergeHold := rfl

/-! ### openWindow -/

@[simp] theorem State.openWindow_pending (s : State) (p : PieceNo) (at' : Pos) :
    (s.openWindow p at').pending = s.pending := rfl
@[simp] theorem State.openWindow_now (s : State) (p : PieceNo) (at' : Pos) : (s.openWindow p at').now = s.now := rfl
@[simp] theorem State.openWindow_position (s : State) (p : PieceNo) (at' : Pos) :
    (s.openWindow p at').position = s.position := rfl
@[simp] theorem State.openWindow_lastStep (s : State) (p : PieceNo) (at' : Pos) :
    (s.openWindow p at').lastStep = s.lastStep := rfl
@[simp] theorem State.openWindow_samples (s : State) (p : PieceNo) (at' : Pos) :
    (s.openWindow p at').samples = s.samples := rfl
@[simp] theorem State.openWindow_cellUnit (s : State) (p : PieceNo) (at' : Pos) :
    (s.openWindow p at').cellUnit = s.cellUnit := rfl
@[simp] theorem State.openWindow_admission (s : State) (p : PieceNo) (at' : Pos) :
    (s.openWindow p at').admission = s.admission := rfl
@[simp] theorem State.openWindow_records (s : State) (p : PieceNo) (at' : Pos) :
    (s.openWindow p at').records = s.records := rfl
@[simp] theorem State.openWindow_schedule (s : State) (p : PieceNo) (at' : Pos) :
    (s.openWindow p at').schedule = s.schedule := rfl
@[simp] theorem State.openWindow_gates (s : State) (p : PieceNo) (at' : Pos) :
    (s.openWindow p at').gates = s.gates := rfl
@[simp] theorem State.openWindow_pocket (s : State) (p : PieceNo) (at' : Pos) :
    (s.openWindow p at').pocket = s.pocket := rfl
@[simp] theorem State.openWindow_printer (s : State) (p : PieceNo) (at' : Pos) :
    (s.openWindow p at').printer = s.printer := rfl
@[simp] theorem State.openWindow_router (s : State) (p : PieceNo) (at' : Pos) :
    (s.openWindow p at').router = s.router := rfl
@[simp] theorem State.openWindow_drive (s : State) (p : PieceNo) (at' : Pos) :
    (s.openWindow p at').drive = s.drive := rfl
@[simp] theorem State.openWindow_run (s : State) (p : PieceNo) (at' : Pos) : (s.openWindow p at').run = s.run := rfl
@[simp] theorem State.openWindow_protect (s : State) (p : PieceNo) (at' : Pos) :
    (s.openWindow p at').protect = s.protect := rfl
@[simp] theorem State.openWindow_tally (s : State) (p : PieceNo) (at' : Pos) :
    (s.openWindow p at').tally = s.tally := rfl
@[simp] theorem State.openWindow_reports (s : State) (p : PieceNo) (at' : Pos) :
    (s.openWindow p at').reports = s.reports := rfl
@[simp] theorem State.openWindow_port (s : State) (p : PieceNo) (at' : Pos) :
    (s.openWindow p at').port = s.port := rfl
@[simp] theorem State.openWindow_plan (s : State) (p : PieceNo) (at' : Pos) :
    (s.openWindow p at').plan = s.plan := rfl
@[simp] theorem State.openWindow_planValid (s : State) (p : PieceNo) (at' : Pos) :
    (s.openWindow p at').planValid = s.planValid := rfl
@[simp] theorem State.openWindow_mem (s : State) (p : PieceNo) (at' : Pos) : (s.openWindow p at').mem = s.mem := rfl
@[simp] theorem State.openWindow_openSeq (s : State) (p : PieceNo) (at' : Pos) :
    (s.openWindow p at').openSeq = s.openSeq := rfl

/-! ### startDwell -/

@[simp] theorem State.startDwell_pending (s : State) : s.startDwell.pending = s.pending := rfl
@[simp] theorem State.startDwell_now (s : State) : s.startDwell.now = s.now := rfl
@[simp] theorem State.startDwell_position (s : State) : s.startDwell.position = s.position := rfl
@[simp] theorem State.startDwell_lastStep (s : State) : s.startDwell.lastStep = s.lastStep := rfl
@[simp] theorem State.startDwell_samples (s : State) : s.startDwell.samples = s.samples := rfl
@[simp] theorem State.startDwell_cellUnit (s : State) : s.startDwell.cellUnit = s.cellUnit := rfl
@[simp] theorem State.startDwell_admission (s : State) : s.startDwell.admission = s.admission := rfl
@[simp] theorem State.startDwell_records (s : State) : s.startDwell.records = s.records := rfl
@[simp] theorem State.startDwell_scan (s : State) : s.startDwell.scan = s.scan := rfl
@[simp] theorem State.startDwell_schedule (s : State) : s.startDwell.schedule = s.schedule := rfl
@[simp] theorem State.startDwell_gates (s : State) : s.startDwell.gates = s.gates := rfl
@[simp] theorem State.startDwell_printer (s : State) : s.startDwell.printer = s.printer := rfl
@[simp] theorem State.startDwell_router (s : State) : s.startDwell.router = s.router := rfl
@[simp] theorem State.startDwell_drive (s : State) : s.startDwell.drive = s.drive := rfl
@[simp] theorem State.startDwell_run (s : State) : s.startDwell.run = s.run := rfl
@[simp] theorem State.startDwell_protect (s : State) : s.startDwell.protect = s.protect := rfl
@[simp] theorem State.startDwell_tally (s : State) : s.startDwell.tally = s.tally := rfl
@[simp] theorem State.startDwell_reports (s : State) : s.startDwell.reports = s.reports := rfl
@[simp] theorem State.startDwell_port (s : State) : s.startDwell.port = s.port := rfl
@[simp] theorem State.startDwell_plan (s : State) : s.startDwell.plan = s.plan := rfl
@[simp] theorem State.startDwell_planValid (s : State) : s.startDwell.planValid = s.planValid := rfl
@[simp] theorem State.startDwell_mem (s : State) : s.startDwell.mem = s.mem := rfl
@[simp] theorem State.startDwell_openSeq (s : State) : s.startDwell.openSeq = s.openSeq := rfl
@[simp] theorem State.startDwell_pocket_occupant (s : State) : s.startDwell.pocket.occupant = s.pocket.occupant := rfl
@[simp] theorem State.startDwell_pocket_mergeHold (s : State) :
    s.startDwell.pocket.mergeHold = s.pocket.mergeHold := rfl

/-! ### openRecord -/

@[simp] theorem State.openRecord_pending (s : State) (at' : Pos) : (s.openRecord at').pending = s.pending := rfl
@[simp] theorem State.openRecord_now (s : State) (at' : Pos) : (s.openRecord at').now = s.now := rfl
@[simp] theorem State.openRecord_position (s : State) (at' : Pos) : (s.openRecord at').position = s.position := rfl
@[simp] theorem State.openRecord_lastStep (s : State) (at' : Pos) : (s.openRecord at').lastStep = s.lastStep := rfl
@[simp] theorem State.openRecord_samples (s : State) (at' : Pos) : (s.openRecord at').samples = s.samples := rfl
@[simp] theorem State.openRecord_cellUnit (s : State) (at' : Pos) : (s.openRecord at').cellUnit = s.cellUnit := rfl
@[simp] theorem State.openRecord_scan (s : State) (at' : Pos) : (s.openRecord at').scan = s.scan := rfl
@[simp] theorem State.openRecord_schedule (s : State) (at' : Pos) : (s.openRecord at').schedule = s.schedule := rfl
@[simp] theorem State.openRecord_gates (s : State) (at' : Pos) : (s.openRecord at').gates = s.gates := rfl
@[simp] theorem State.openRecord_pocket (s : State) (at' : Pos) : (s.openRecord at').pocket = s.pocket := rfl
@[simp] theorem State.openRecord_router (s : State) (at' : Pos) : (s.openRecord at').router = s.router := rfl
@[simp] theorem State.openRecord_drive (s : State) (at' : Pos) : (s.openRecord at').drive = s.drive := rfl
@[simp] theorem State.openRecord_run (s : State) (at' : Pos) : (s.openRecord at').run = s.run := rfl
@[simp] theorem State.openRecord_protect (s : State) (at' : Pos) : (s.openRecord at').protect = s.protect := rfl
@[simp] theorem State.openRecord_tally (s : State) (at' : Pos) : (s.openRecord at').tally = s.tally := rfl
@[simp] theorem State.openRecord_reports (s : State) (at' : Pos) : (s.openRecord at').reports = s.reports := rfl
@[simp] theorem State.openRecord_port (s : State) (at' : Pos) : (s.openRecord at').port = s.port := rfl
@[simp] theorem State.openRecord_plan (s : State) (at' : Pos) : (s.openRecord at').plan = s.plan := rfl
@[simp] theorem State.openRecord_planValid (s : State) (at' : Pos) : (s.openRecord at').planValid = s.planValid := rfl
@[simp] theorem State.openRecord_mem (s : State) (at' : Pos) : (s.openRecord at').mem = s.mem := rfl
@[simp] theorem State.openRecord_printer_active (s : State) (at' : Pos) :
    (s.openRecord at').printer.active = s.printer.active := rfl
@[simp] theorem State.openRecord_printer_waiting (s : State) (at' : Pos) :
    (s.openRecord at').printer.waiting = s.printer.waiting := rfl
@[simp] theorem State.openRecord_printer_banks (s : State) (at' : Pos) :
    (s.openRecord at').printer.banks = s.printer.banks := rfl
@[simp] theorem State.openRecord_printer_job (s : State) (at' : Pos) :
    (s.openRecord at').printer.job = s.printer.job := rfl
@[simp] theorem State.openRecord_printer_head (s : State) (at' : Pos) :
    (s.openRecord at').printer.head = s.printer.head := rfl

/-! ### countStep -/

@[simp] theorem State.countStep_pending (s : State) (x : SampleSet) : (s.countStep x).pending = s.pending := rfl
@[simp] theorem State.countStep_now (s : State) (x : SampleSet) : (s.countStep x).now = s.now := rfl
@[simp] theorem State.countStep_cellUnit (s : State) (x : SampleSet) : (s.countStep x).cellUnit = s.cellUnit := rfl
@[simp] theorem State.countStep_admission (s : State) (x : SampleSet) : (s.countStep x).admission = s.admission := rfl
@[simp] theorem State.countStep_records (s : State) (x : SampleSet) : (s.countStep x).records = s.records := rfl
@[simp] theorem State.countStep_scan (s : State) (x : SampleSet) : (s.countStep x).scan = s.scan := rfl
@[simp] theorem State.countStep_schedule (s : State) (x : SampleSet) : (s.countStep x).schedule = s.schedule := rfl
@[simp] theorem State.countStep_gates (s : State) (x : SampleSet) : (s.countStep x).gates = s.gates := rfl
@[simp] theorem State.countStep_pocket (s : State) (x : SampleSet) : (s.countStep x).pocket = s.pocket := rfl
@[simp] theorem State.countStep_printer (s : State) (x : SampleSet) :
    (s.countStep x).printer = { s.printer with head := 0 } := rfl
@[simp] theorem State.countStep_router (s : State) (x : SampleSet) : (s.countStep x).router = s.router := rfl
@[simp] theorem State.countStep_drive (s : State) (x : SampleSet) : (s.countStep x).drive = s.drive := rfl
@[simp] theorem State.countStep_run (s : State) (x : SampleSet) : (s.countStep x).run = s.run := rfl
@[simp] theorem State.countStep_protect (s : State) (x : SampleSet) : (s.countStep x).protect = s.protect := rfl
@[simp] theorem State.countStep_tally (s : State) (x : SampleSet) : (s.countStep x).tally = s.tally := rfl
@[simp] theorem State.countStep_reports (s : State) (x : SampleSet) : (s.countStep x).reports = s.reports := rfl
@[simp] theorem State.countStep_port (s : State) (x : SampleSet) : (s.countStep x).port = s.port := rfl
@[simp] theorem State.countStep_plan (s : State) (x : SampleSet) : (s.countStep x).plan = s.plan := rfl
@[simp] theorem State.countStep_planValid (s : State) (x : SampleSet) : (s.countStep x).planValid = s.planValid := rfl
@[simp] theorem State.countStep_mem (s : State) (x : SampleSet) : (s.countStep x).mem = s.mem := rfl
@[simp] theorem State.countStep_openSeq (s : State) (x : SampleSet) : (s.countStep x).openSeq = s.openSeq := rfl

/-! ### countTravel -/

@[simp] theorem State.countTravel_pending (s : State) : s.countTravel.pending = s.pending := rfl
@[simp] theorem State.countTravel_now (s : State) : s.countTravel.now = s.now := rfl
@[simp] theorem State.countTravel_position (s : State) : s.countTravel.position = s.position := rfl
@[simp] theorem State.countTravel_lastStep (s : State) : s.countTravel.lastStep = s.lastStep := rfl
@[simp] theorem State.countTravel_samples (s : State) : s.countTravel.samples = s.samples := rfl
@[simp] theorem State.countTravel_cellUnit (s : State) : s.countTravel.cellUnit = s.cellUnit := rfl
@[simp] theorem State.countTravel_records (s : State) : s.countTravel.records = s.records := rfl
@[simp] theorem State.countTravel_scan (s : State) : s.countTravel.scan = s.scan := rfl
@[simp] theorem State.countTravel_schedule (s : State) : s.countTravel.schedule = s.schedule := rfl
@[simp] theorem State.countTravel_gates (s : State) : s.countTravel.gates = s.gates := rfl
@[simp] theorem State.countTravel_pocket (s : State) : s.countTravel.pocket = s.pocket := rfl
@[simp] theorem State.countTravel_printer (s : State) : s.countTravel.printer = s.printer := rfl
@[simp] theorem State.countTravel_router (s : State) : s.countTravel.router = s.router := rfl
@[simp] theorem State.countTravel_drive (s : State) : s.countTravel.drive = s.drive := rfl
@[simp] theorem State.countTravel_run (s : State) : s.countTravel.run = s.run := rfl
@[simp] theorem State.countTravel_protect (s : State) : s.countTravel.protect = s.protect := rfl
@[simp] theorem State.countTravel_tally (s : State) : s.countTravel.tally = s.tally := rfl
@[simp] theorem State.countTravel_reports (s : State) : s.countTravel.reports = s.reports := rfl
@[simp] theorem State.countTravel_port (s : State) : s.countTravel.port = s.port := rfl
@[simp] theorem State.countTravel_plan (s : State) : s.countTravel.plan = s.plan := rfl
@[simp] theorem State.countTravel_planValid (s : State) : s.countTravel.planValid = s.planValid := rfl
@[simp] theorem State.countTravel_mem (s : State) : s.countTravel.mem = s.mem := rfl
@[simp] theorem State.countTravel_openSeq (s : State) : s.countTravel.openSeq = s.openSeq := rfl
@[simp] theorem State.countTravel_admission_nextPiece (s : State) :
    s.countTravel.admission.nextPiece = s.admission.nextPiece := rfl

/-! ### restartStill -/

@[simp] theorem State.restartStill_pending (s : State) : s.restartStill.pending = s.pending := rfl
@[simp] theorem State.restartStill_now (s : State) : s.restartStill.now = s.now := rfl
@[simp] theorem State.restartStill_position (s : State) : s.restartStill.position = s.position := rfl
@[simp] theorem State.restartStill_lastStep (s : State) : s.restartStill.lastStep = s.lastStep := rfl
@[simp] theorem State.restartStill_samples (s : State) : s.restartStill.samples = s.samples := rfl
@[simp] theorem State.restartStill_cellUnit (s : State) : s.restartStill.cellUnit = s.cellUnit := rfl
@[simp] theorem State.restartStill_admission (s : State) : s.restartStill.admission = s.admission := rfl
@[simp] theorem State.restartStill_records (s : State) : s.restartStill.records = s.records := rfl
@[simp] theorem State.restartStill_scan (s : State) : s.restartStill.scan = s.scan := rfl
@[simp] theorem State.restartStill_schedule (s : State) : s.restartStill.schedule = s.schedule := rfl
@[simp] theorem State.restartStill_gates (s : State) : s.restartStill.gates = s.gates := rfl
@[simp] theorem State.restartStill_pocket (s : State) : s.restartStill.pocket = s.pocket := rfl
@[simp] theorem State.restartStill_printer (s : State) : s.restartStill.printer = s.printer := rfl
@[simp] theorem State.restartStill_router (s : State) : s.restartStill.router = s.router := rfl
@[simp] theorem State.restartStill_run (s : State) : s.restartStill.run = s.run := rfl
@[simp] theorem State.restartStill_protect (s : State) : s.restartStill.protect = s.protect := rfl
@[simp] theorem State.restartStill_tally (s : State) : s.restartStill.tally = s.tally := rfl
@[simp] theorem State.restartStill_reports (s : State) : s.restartStill.reports = s.reports := rfl
@[simp] theorem State.restartStill_port (s : State) : s.restartStill.port = s.port := rfl
@[simp] theorem State.restartStill_plan (s : State) : s.restartStill.plan = s.plan := rfl
@[simp] theorem State.restartStill_planValid (s : State) : s.restartStill.planValid = s.planValid := rfl
@[simp] theorem State.restartStill_mem (s : State) : s.restartStill.mem = s.mem := rfl
@[simp] theorem State.restartStill_openSeq (s : State) : s.restartStill.openSeq = s.openSeq := rfl
@[simp] theorem State.restartStill_drive_code (s : State) : s.restartStill.drive.code = s.drive.code := rfl
@[simp] theorem State.restartStill_drive_target (s : State) : s.restartStill.drive.target = s.drive.target := rfl
@[simp] theorem State.restartStill_drive_rampTimer (s : State) :
    s.restartStill.drive.rampTimer = s.drive.rampTimer := rfl

/-! ### clearLatch -/

@[simp] theorem State.clearLatch_pending (s : State) : s.clearLatch.pending = s.pending := rfl
@[simp] theorem State.clearLatch_now (s : State) : s.clearLatch.now = s.now := rfl
@[simp] theorem State.clearLatch_position (s : State) : s.clearLatch.position = s.position := rfl
@[simp] theorem State.clearLatch_lastStep (s : State) : s.clearLatch.lastStep = s.lastStep := rfl
@[simp] theorem State.clearLatch_samples (s : State) : s.clearLatch.samples = s.samples := rfl
@[simp] theorem State.clearLatch_admission (s : State) : s.clearLatch.admission = s.admission := rfl
@[simp] theorem State.clearLatch_records (s : State) : s.clearLatch.records = s.records := rfl
@[simp] theorem State.clearLatch_scan (s : State) : s.clearLatch.scan = s.scan := rfl
@[simp] theorem State.clearLatch_gates (s : State) : s.clearLatch.gates = s.gates := rfl
@[simp] theorem State.clearLatch_printer (s : State) : s.clearLatch.printer = s.printer := rfl
@[simp] theorem State.clearLatch_router (s : State) : s.clearLatch.router = s.router := rfl
@[simp] theorem State.clearLatch_drive (s : State) : s.clearLatch.drive = s.drive := rfl
@[simp] theorem State.clearLatch_run (s : State) : s.clearLatch.run = s.run := rfl
@[simp] theorem State.clearLatch_tally (s : State) : s.clearLatch.tally = s.tally := rfl
@[simp] theorem State.clearLatch_reports (s : State) : s.clearLatch.reports = s.reports := rfl
@[simp] theorem State.clearLatch_port (s : State) : s.clearLatch.port = s.port := rfl
@[simp] theorem State.clearLatch_plan (s : State) : s.clearLatch.plan = s.plan := rfl
@[simp] theorem State.clearLatch_planValid (s : State) : s.clearLatch.planValid = s.planValid := rfl
@[simp] theorem State.clearLatch_mem (s : State) : s.clearLatch.mem = s.mem := rfl
@[simp] theorem State.clearLatch_openSeq (s : State) : s.clearLatch.openSeq = s.openSeq := rfl
@[simp] theorem State.clearLatch_protect_guardIsOpen (s : State) :
    s.clearLatch.protect.guardIsOpen = s.protect.guardIsOpen := rfl
@[simp] theorem State.clearLatch_pocket_state (s : State) : s.clearLatch.pocket.state = s.pocket.state := rfl
@[simp] theorem State.clearLatch_pocket_occupant (s : State) : s.clearLatch.pocket.occupant = s.pocket.occupant := rfl
@[simp] theorem State.clearLatch_pocket_mergeHold (s : State) :
    s.clearLatch.pocket.mergeHold = s.pocket.mergeHold := rfl
@[simp] theorem State.clearLatch_cellUnit_cells (s : State) : s.clearLatch.cellUnit.cells = s.cellUnit.cells := rfl

/-! ### readAttention -/

@[simp] theorem State.readAttention_pending (s : State) : s.readAttention.pending = s.pending := rfl
@[simp] theorem State.readAttention_now (s : State) : s.readAttention.now = s.now := rfl
@[simp] theorem State.readAttention_position (s : State) : s.readAttention.position = s.position := rfl
@[simp] theorem State.readAttention_lastStep (s : State) : s.readAttention.lastStep = s.lastStep := rfl
@[simp] theorem State.readAttention_samples (s : State) : s.readAttention.samples = s.samples := rfl
@[simp] theorem State.readAttention_cellUnit (s : State) : s.readAttention.cellUnit = s.cellUnit := rfl
@[simp] theorem State.readAttention_admission (s : State) : s.readAttention.admission = s.admission := rfl
@[simp] theorem State.readAttention_records (s : State) : s.readAttention.records = s.records := rfl
@[simp] theorem State.readAttention_scan (s : State) : s.readAttention.scan = s.scan := rfl
@[simp] theorem State.readAttention_schedule (s : State) : s.readAttention.schedule = s.schedule := rfl
@[simp] theorem State.readAttention_gates (s : State) : s.readAttention.gates = s.gates := rfl
@[simp] theorem State.readAttention_pocket (s : State) : s.readAttention.pocket = s.pocket := rfl
@[simp] theorem State.readAttention_printer (s : State) : s.readAttention.printer = s.printer := rfl
@[simp] theorem State.readAttention_router (s : State) : s.readAttention.router = s.router := rfl
@[simp] theorem State.readAttention_drive (s : State) : s.readAttention.drive = s.drive := rfl
@[simp] theorem State.readAttention_run (s : State) : s.readAttention.run = s.run := rfl
@[simp] theorem State.readAttention_protect (s : State) : s.readAttention.protect = s.protect := rfl
@[simp] theorem State.readAttention_tally (s : State) : s.readAttention.tally = s.tally := rfl
@[simp] theorem State.readAttention_reports (s : State) : s.readAttention.reports = s.reports := rfl
@[simp] theorem State.readAttention_plan (s : State) : s.readAttention.plan = s.plan := rfl
@[simp] theorem State.readAttention_planValid (s : State) : s.readAttention.planValid = s.planValid := rfl
@[simp] theorem State.readAttention_mem (s : State) : s.readAttention.mem = s.mem := rfl
@[simp] theorem State.readAttention_openSeq (s : State) : s.readAttention.openSeq = s.openSeq := rfl
@[simp] theorem State.readAttention_port_pageAddress (s : State) :
    s.readAttention.port.pageAddress = s.port.pageAddress := rfl
@[simp] theorem State.readAttention_port_enable (s : State) : s.readAttention.port.enable = s.port.enable := rfl
@[simp] theorem State.readAttention_port_scanTap (s : State) : s.readAttention.port.scanTap = s.port.scanTap := rfl
@[simp] theorem State.readAttention_port_masked (s : State) : s.readAttention.port.masked = s.port.masked := rfl
@[simp] theorem State.readAttention_port_scanTimer (s : State) :
    s.readAttention.port.scanTimer = s.port.scanTimer := rfl
@[simp] theorem State.readAttention_port_scanLeft (s : State) :
    s.readAttention.port.scanLeft = s.port.scanLeft := rfl
/-! ### writeAttention -/

@[simp] theorem State.writeAttention_pending (s : State) (v : Word) : (s.writeAttention v).pending = s.pending := rfl
@[simp] theorem State.writeAttention_now (s : State) (v : Word) : (s.writeAttention v).now = s.now := rfl
@[simp] theorem State.writeAttention_position (s : State) (v : Word) :
    (s.writeAttention v).position = s.position := rfl
@[simp] theorem State.writeAttention_lastStep (s : State) (v : Word) :
    (s.writeAttention v).lastStep = s.lastStep := rfl
@[simp] theorem State.writeAttention_samples (s : State) (v : Word) : (s.writeAttention v).samples = s.samples := rfl
@[simp] theorem State.writeAttention_cellUnit (s : State) (v : Word) :
    (s.writeAttention v).cellUnit = s.cellUnit := rfl
@[simp] theorem State.writeAttention_admission (s : State) (v : Word) :
    (s.writeAttention v).admission = s.admission := rfl
@[simp] theorem State.writeAttention_records (s : State) (v : Word) : (s.writeAttention v).records = s.records := rfl
@[simp] theorem State.writeAttention_scan (s : State) (v : Word) : (s.writeAttention v).scan = s.scan := rfl
@[simp] theorem State.writeAttention_schedule (s : State) (v : Word) :
    (s.writeAttention v).schedule = s.schedule := rfl
@[simp] theorem State.writeAttention_gates (s : State) (v : Word) : (s.writeAttention v).gates = s.gates := rfl
@[simp] theorem State.writeAttention_pocket (s : State) (v : Word) : (s.writeAttention v).pocket = s.pocket := rfl
@[simp] theorem State.writeAttention_printer (s : State) (v : Word) : (s.writeAttention v).printer = s.printer := rfl
@[simp] theorem State.writeAttention_router (s : State) (v : Word) : (s.writeAttention v).router = s.router := rfl
@[simp] theorem State.writeAttention_drive (s : State) (v : Word) : (s.writeAttention v).drive = s.drive := rfl
@[simp] theorem State.writeAttention_run (s : State) (v : Word) : (s.writeAttention v).run = s.run := rfl
@[simp] theorem State.writeAttention_protect (s : State) (v : Word) : (s.writeAttention v).protect = s.protect := rfl
@[simp] theorem State.writeAttention_tally (s : State) (v : Word) : (s.writeAttention v).tally = s.tally := rfl
@[simp] theorem State.writeAttention_reports (s : State) (v : Word) : (s.writeAttention v).reports = s.reports := rfl
@[simp] theorem State.writeAttention_plan (s : State) (v : Word) : (s.writeAttention v).plan = s.plan := rfl
@[simp] theorem State.writeAttention_planValid (s : State) (v : Word) :
    (s.writeAttention v).planValid = s.planValid := rfl
@[simp] theorem State.writeAttention_mem (s : State) (v : Word) : (s.writeAttention v).mem = s.mem := rfl
@[simp] theorem State.writeAttention_openSeq (s : State) (v : Word) : (s.writeAttention v).openSeq = s.openSeq := rfl
@[simp] theorem State.writeAttention_port_pageAddress (s : State) (v : Word) :
    (s.writeAttention v).port.pageAddress = s.port.pageAddress := rfl
@[simp] theorem State.writeAttention_port_enable (s : State) (v : Word) :
    (s.writeAttention v).port.enable = s.port.enable := rfl
@[simp] theorem State.writeAttention_port_scanTap (s : State) (v : Word) :
    (s.writeAttention v).port.scanTap = s.port.scanTap := rfl
@[simp] theorem State.writeAttention_port_masked (s : State) (v : Word) :
    (s.writeAttention v).port.masked = s.port.masked := rfl
@[simp] theorem State.writeAttention_port_scanTimer (s : State) (v : Word) :
    (s.writeAttention v).port.scanTimer = s.port.scanTimer := rfl
@[simp] theorem State.writeAttention_port_scanLeft (s : State) (v : Word) :
    (s.writeAttention v).port.scanLeft = s.port.scanLeft := rfl
@[simp] theorem State.writeAttention_port_readData (s : State) (v : Word) :
    (s.writeAttention v).port.readData = s.port.readData := rfl

end Sys2Proof.Machine
end

