-- ==== Sys2Proof/Laws/Frames.lean ====
section
/-! SUPPORT. For each shared operation that works through others, one lemma that names every part of the state it leaves alone; simp
uses each part of it as a rewrite. -/

namespace Sys2Proof.Machine

/-- What every round of a fold keeps, the fold keeps. -/
theorem foldl_keep {σ α β : Type} (f : σ → α → σ) (g : σ → β) (h : ∀ s a, g (f s a) = g s) (l : List α) (s : σ) :
    g (l.foldl f s) = g s := by
  induction l generalizing s with
  | nil => rfl
  | cons a t ih => rw [List.foldl_cons, ih, h]

@[simp] theorem State.raiseCarry_frame (s : State) (wrapped masked : Bool) :
    (s.raiseCarry wrapped masked).pending = s.pending ∧ (s.raiseCarry wrapped masked).now = s.now ∧ (s.raiseCarry
    wrapped masked).position = s.position ∧ (s.raiseCarry wrapped masked).lastStep = s.lastStep ∧ (s.raiseCarry
    wrapped masked).samples = s.samples ∧ (s.raiseCarry wrapped masked).cellUnit = s.cellUnit ∧ (s.raiseCarry
    wrapped masked).admission = s.admission ∧ (s.raiseCarry wrapped masked).records = s.records ∧ (s.raiseCarry
    wrapped masked).scan = s.scan ∧ (s.raiseCarry wrapped masked).schedule = s.schedule ∧ (s.raiseCarry wrapped
    masked).gates = s.gates ∧ (s.raiseCarry wrapped masked).pocket = s.pocket ∧ (s.raiseCarry wrapped
    masked).printer = s.printer ∧ (s.raiseCarry wrapped masked).router = s.router ∧ (s.raiseCarry wrapped
    masked).drive = s.drive ∧ (s.raiseCarry wrapped masked).run = s.run ∧ (s.raiseCarry wrapped masked).protect =
    s.protect ∧ (s.raiseCarry wrapped masked).tally = s.tally ∧ (s.raiseCarry wrapped masked).reports = s.reports ∧
    (s.raiseCarry wrapped masked).plan = s.plan ∧ (s.raiseCarry wrapped masked).planValid = s.planValid ∧
    (s.raiseCarry wrapped masked).mem = s.mem ∧ (s.raiseCarry wrapped masked).openSeq = s.openSeq ∧ (s.raiseCarry
    wrapped masked).port.pageAddress = s.port.pageAddress ∧ (s.raiseCarry wrapped masked).port.enable =
    s.port.enable ∧ (s.raiseCarry wrapped masked).port.scanTap = s.port.scanTap ∧ (s.raiseCarry wrapped
    masked).port.masked = s.port.masked ∧ (s.raiseCarry wrapped masked).port.scanTimer = s.port.scanTimer ∧
    (s.raiseCarry wrapped masked).port.scanLeft = s.port.scanLeft ∧
    (s.raiseCarry wrapped masked).port.readData =
    s.port.readData := by
  simp only [State.raiseCarry]
  (repeat' split) <;> simp

@[simp] theorem State.countPiece_frame (s : State) (c : PieceCounter) :
    (s.countPiece c).pending = s.pending ∧ (s.countPiece c).now = s.now ∧ (s.countPiece c).position = s.position ∧
    (s.countPiece c).lastStep = s.lastStep ∧ (s.countPiece c).samples = s.samples ∧ (s.countPiece c).cellUnit =
    s.cellUnit ∧ (s.countPiece c).admission = s.admission ∧ (s.countPiece c).records = s.records ∧ (s.countPiece
    c).scan = s.scan ∧ (s.countPiece c).schedule = s.schedule ∧ (s.countPiece c).gates = s.gates ∧ (s.countPiece
    c).pocket = s.pocket ∧ (s.countPiece c).printer = s.printer ∧ (s.countPiece c).router = s.router ∧ (s.countPiece
    c).drive = s.drive ∧ (s.countPiece c).run = s.run ∧ (s.countPiece c).protect = s.protect ∧ (s.countPiece
    c).reports = s.reports ∧ (s.countPiece c).plan = s.plan ∧ (s.countPiece c).planValid = s.planValid ∧
    (s.countPiece c).mem = s.mem ∧ (s.countPiece c).openSeq = s.openSeq ∧ (s.countPiece c).port.pageAddress =
    s.port.pageAddress ∧ (s.countPiece c).port.enable = s.port.enable ∧ (s.countPiece c).port.scanTap =
    s.port.scanTap ∧ (s.countPiece c).port.masked = s.port.masked ∧ (s.countPiece c).port.scanTimer =
    s.port.scanTimer ∧
    (s.countPiece c).port.scanLeft = s.port.scanLeft ∧ (s.countPiece c).port.readData =
    s.port.readData ∧ (s.countPiece c).tally.snapshot = s.tally.snapshot := by
  simp only [State.countPiece]
  simp

@[simp] theorem State.countEvent_frame (s : State) (c : EventCounter) :
    (s.countEvent c).pending = s.pending ∧ (s.countEvent c).now = s.now ∧ (s.countEvent c).position = s.position ∧
    (s.countEvent c).lastStep = s.lastStep ∧ (s.countEvent c).samples = s.samples ∧ (s.countEvent c).cellUnit =
    s.cellUnit ∧ (s.countEvent c).admission = s.admission ∧ (s.countEvent c).records = s.records ∧ (s.countEvent
    c).scan = s.scan ∧ (s.countEvent c).schedule = s.schedule ∧ (s.countEvent c).gates = s.gates ∧ (s.countEvent
    c).pocket = s.pocket ∧ (s.countEvent c).printer = s.printer ∧ (s.countEvent c).router = s.router ∧ (s.countEvent
    c).drive = s.drive ∧ (s.countEvent c).run = s.run ∧ (s.countEvent c).protect = s.protect ∧ (s.countEvent
    c).reports = s.reports ∧ (s.countEvent c).plan = s.plan ∧ (s.countEvent c).planValid = s.planValid ∧
    (s.countEvent c).mem = s.mem ∧ (s.countEvent c).openSeq = s.openSeq ∧ (s.countEvent c).port.pageAddress =
    s.port.pageAddress ∧ (s.countEvent c).port.enable = s.port.enable ∧ (s.countEvent c).port.scanTap =
    s.port.scanTap ∧ (s.countEvent c).port.masked = s.port.masked ∧ (s.countEvent c).port.scanTimer =
    s.port.scanTimer ∧
    (s.countEvent c).port.scanLeft = s.port.scanLeft ∧ (s.countEvent c).port.readData =
    s.port.readData ∧ (s.countEvent c).tally.pieces = s.tally.pieces ∧ (s.countEvent c).tally.snapshot =
    s.tally.snapshot := by
  simp only [State.countEvent]
  simp

@[simp] theorem State.countDots_frame (s : State) (n : Nat) :
    (s.countDots n).pending = s.pending ∧ (s.countDots n).now = s.now ∧ (s.countDots n).position = s.position ∧
    (s.countDots n).lastStep = s.lastStep ∧ (s.countDots n).samples = s.samples ∧ (s.countDots n).cellUnit =
    s.cellUnit ∧ (s.countDots n).admission = s.admission ∧ (s.countDots n).records = s.records ∧ (s.countDots
    n).scan = s.scan ∧ (s.countDots n).schedule = s.schedule ∧ (s.countDots n).gates = s.gates ∧ (s.countDots
    n).pocket = s.pocket ∧ (s.countDots n).printer = s.printer ∧ (s.countDots n).router = s.router ∧ (s.countDots
    n).drive = s.drive ∧ (s.countDots n).run = s.run ∧ (s.countDots n).protect = s.protect ∧ (s.countDots n).reports
    = s.reports ∧ (s.countDots n).plan = s.plan ∧ (s.countDots n).planValid = s.planValid ∧ (s.countDots n).mem =
    s.mem ∧ (s.countDots n).openSeq = s.openSeq ∧ (s.countDots n).port.pageAddress = s.port.pageAddress ∧
    (s.countDots n).port.enable = s.port.enable ∧ (s.countDots n).port.scanTap = s.port.scanTap ∧ (s.countDots
    n).port.masked = s.port.masked ∧ (s.countDots n).port.scanTimer = s.port.scanTimer ∧
    (s.countDots n).port.scanLeft = s.port.scanLeft ∧ (s.countDots n).port.readData = s.port.readData ∧ (s.countDots n).tally.pieces =
    s.tally.pieces ∧ (s.countDots n).tally.snapshot = s.tally.snapshot := by
  simp only [State.countDots]
  simp

@[simp] theorem State.completeRequest_frame (s : State) (cell : Fin 8) (tag : Word) (r : ResultCode) (value : Word) :
    (s.completeRequest cell tag r value).pending = s.pending ∧ (s.completeRequest cell tag r value).now = s.now ∧
    (s.completeRequest cell tag r value).position = s.position ∧ (s.completeRequest cell tag r value).lastStep =
    s.lastStep ∧ (s.completeRequest cell tag r value).samples = s.samples ∧ (s.completeRequest cell tag r
    value).cellUnit = s.cellUnit ∧ (s.completeRequest cell tag r value).admission = s.admission ∧ (s.completeRequest
    cell tag r value).records = s.records ∧ (s.completeRequest cell tag r value).scan = s.scan ∧ (s.completeRequest
    cell tag r value).schedule = s.schedule ∧ (s.completeRequest cell tag r value).gates = s.gates ∧
    (s.completeRequest cell tag r value).pocket = s.pocket ∧ (s.completeRequest cell tag r value).printer =
    s.printer ∧ (s.completeRequest cell tag r value).router = s.router ∧ (s.completeRequest cell tag r value).drive
    = s.drive ∧ (s.completeRequest cell tag r value).run = s.run ∧ (s.completeRequest cell tag r value).protect =
    s.protect ∧ (s.completeRequest cell tag r value).tally = s.tally ∧ (s.completeRequest cell tag r value).reports
    = s.reports ∧ (s.completeRequest cell tag r value).plan = s.plan ∧ (s.completeRequest cell tag r
    value).planValid = s.planValid ∧ (s.completeRequest cell tag r value).openSeq = s.openSeq ∧ (s.completeRequest
    cell tag r value).port.pageAddress = s.port.pageAddress ∧ (s.completeRequest cell tag r value).port.enable =
    s.port.enable ∧ (s.completeRequest cell tag r value).port.scanTap = s.port.scanTap ∧ (s.completeRequest cell tag
    r value).port.masked = s.port.masked ∧ (s.completeRequest cell tag r value).port.scanTimer = s.port.scanTimer ∧
    (s.completeRequest cell tag r value).port.scanLeft = s.port.scanLeft ∧
    (s.completeRequest cell tag r
    value).port.readData = s.port.readData := by
  simp only [State.completeRequest]
  simp

@[simp] theorem State.completeRun_frame (s : State) (r : ResultCode) (value : Word) :
    (s.completeRun r value).pending = s.pending ∧ (s.completeRun r value).now = s.now ∧ (s.completeRun r
    value).position = s.position ∧ (s.completeRun r value).lastStep = s.lastStep ∧ (s.completeRun r value).samples =
    s.samples ∧ (s.completeRun r value).cellUnit = s.cellUnit ∧ (s.completeRun r value).admission = s.admission ∧
    (s.completeRun r value).records = s.records ∧ (s.completeRun r value).scan = s.scan ∧ (s.completeRun r
    value).schedule = s.schedule ∧ (s.completeRun r value).gates = s.gates ∧ (s.completeRun r value).pocket =
    s.pocket ∧ (s.completeRun r value).printer = s.printer ∧ (s.completeRun r value).router = s.router ∧
    (s.completeRun r value).drive = s.drive ∧ (s.completeRun r value).protect = s.protect ∧ (s.completeRun r
    value).tally = s.tally ∧ (s.completeRun r value).reports = s.reports ∧ (s.completeRun r value).plan = s.plan ∧
    (s.completeRun r value).planValid = s.planValid ∧ (s.completeRun r value).openSeq = s.openSeq ∧ (s.completeRun r
    value).run.state = s.run.state ∧ (s.completeRun r value).run.hold.endFull = s.run.hold.endFull ∧ (s.completeRun
    r value).run.hold.mergeGap = s.run.hold.mergeGap ∧ (s.completeRun r value).port.pageAddress = s.port.pageAddress
    ∧ (s.completeRun r value).port.enable = s.port.enable ∧ (s.completeRun r value).port.scanTap = s.port.scanTap ∧
    (s.completeRun r value).port.masked = s.port.masked ∧ (s.completeRun r value).port.scanTimer = s.port.scanTimer ∧
    (s.completeRun r value).port.scanLeft = s.port.scanLeft
    ∧ (s.completeRun r value).port.readData = s.port.readData := by
  simp only [State.completeRun]
  (repeat' split) <;> simp

@[simp] theorem State.endImpression_frame (s : State) (j : Impression) :
    (s.endImpression j).pending = s.pending ∧ (s.endImpression j).now = s.now ∧ (s.endImpression j).position =
    s.position ∧ (s.endImpression j).lastStep = s.lastStep ∧ (s.endImpression j).samples = s.samples ∧
    (s.endImpression j).cellUnit = s.cellUnit ∧ (s.endImpression j).admission = s.admission ∧ (s.endImpression
    j).scan = s.scan ∧ (s.endImpression j).schedule = s.schedule ∧ (s.endImpression j).gates = s.gates ∧
    (s.endImpression j).pocket = s.pocket ∧ (s.endImpression j).router = s.router ∧ (s.endImpression j).drive =
    s.drive ∧ (s.endImpression j).run = s.run ∧ (s.endImpression j).protect = s.protect ∧ (s.endImpression j).tally
    = s.tally ∧ (s.endImpression j).reports = s.reports ∧ (s.endImpression j).port = s.port ∧ (s.endImpression
    j).plan = s.plan ∧ (s.endImpression j).planValid = s.planValid ∧ (s.endImpression j).mem = s.mem ∧
    (s.endImpression j).openSeq = s.openSeq ∧ (s.endImpression j).printer.slots = s.printer.slots ∧ (s.endImpression
    j).printer.active = s.printer.active ∧ (s.endImpression j).printer.waiting = s.printer.waiting ∧
    (s.endImpression j).printer.banks = s.printer.banks ∧ (s.endImpression j).printer.head = s.printer.head := by
  simp only [State.endImpression]
  simp

@[simp] theorem State.endImpressionPartial_frame (s : State) :
    s.endImpressionPartial.pending = s.pending ∧ s.endImpressionPartial.now = s.now ∧
    s.endImpressionPartial.position = s.position ∧ s.endImpressionPartial.lastStep = s.lastStep ∧
    s.endImpressionPartial.samples = s.samples ∧ s.endImpressionPartial.cellUnit = s.cellUnit ∧
    s.endImpressionPartial.admission = s.admission ∧ s.endImpressionPartial.scan = s.scan ∧
    s.endImpressionPartial.schedule = s.schedule ∧ s.endImpressionPartial.gates = s.gates ∧
    s.endImpressionPartial.pocket = s.pocket ∧ s.endImpressionPartial.router = s.router ∧
    s.endImpressionPartial.drive = s.drive ∧ s.endImpressionPartial.run = s.run ∧ s.endImpressionPartial.protect =
    s.protect ∧ s.endImpressionPartial.tally = s.tally ∧ s.endImpressionPartial.reports = s.reports ∧
    s.endImpressionPartial.port = s.port ∧ s.endImpressionPartial.plan = s.plan ∧ s.endImpressionPartial.planValid =
    s.planValid ∧ s.endImpressionPartial.mem = s.mem ∧ s.endImpressionPartial.openSeq = s.openSeq ∧
    s.endImpressionPartial.printer.slots = s.printer.slots ∧ s.endImpressionPartial.printer.active =
    s.printer.active ∧ s.endImpressionPartial.printer.waiting = s.printer.waiting ∧
    s.endImpressionPartial.printer.banks = s.printer.banks ∧ s.endImpressionPartial.printer.head = s.printer.head := by
  simp only [State.endImpressionPartial]
  (repeat' split) <;> simp

@[simp] theorem State.fireColumn_frame (s : State) (j : Impression) :
    (s.fireColumn j).pending = s.pending ∧ (s.fireColumn j).now = s.now ∧ (s.fireColumn j).position = s.position ∧
    (s.fireColumn j).lastStep = s.lastStep ∧ (s.fireColumn j).samples = s.samples ∧ (s.fireColumn j).cellUnit =
    s.cellUnit ∧ (s.fireColumn j).admission = s.admission ∧ (s.fireColumn j).scan = s.scan ∧ (s.fireColumn
    j).schedule = s.schedule ∧ (s.fireColumn j).gates = s.gates ∧ (s.fireColumn j).pocket = s.pocket ∧ (s.fireColumn
    j).router = s.router ∧ (s.fireColumn j).drive = s.drive ∧ (s.fireColumn j).run = s.run ∧ (s.fireColumn
    j).protect = s.protect ∧ (s.fireColumn j).reports = s.reports ∧ (s.fireColumn j).plan = s.plan ∧ (s.fireColumn
    j).planValid = s.planValid ∧ (s.fireColumn j).mem = s.mem ∧ (s.fireColumn j).openSeq = s.openSeq ∧ (s.fireColumn
    j).printer.slots = s.printer.slots ∧ (s.fireColumn j).printer.active = s.printer.active ∧ (s.fireColumn
    j).printer.waiting = s.printer.waiting ∧ (s.fireColumn j).printer.banks = s.printer.banks ∧ (s.fireColumn
    j).port.pageAddress = s.port.pageAddress ∧ (s.fireColumn j).port.enable = s.port.enable ∧ (s.fireColumn
    j).port.scanTap = s.port.scanTap ∧ (s.fireColumn j).port.masked = s.port.masked ∧ (s.fireColumn
    j).port.scanTimer = s.port.scanTimer ∧
    (s.fireColumn j).port.scanLeft = s.port.scanLeft ∧ (s.fireColumn
    j).port.readData = s.port.readData ∧ (s.fireColumn j).tally.pieces = s.tally.pieces ∧ (s.fireColumn
    j).tally.snapshot = s.tally.snapshot := by
  simp only [State.fireColumn]
  (repeat' split) <;> simp

@[simp] theorem State.startImpression_frame (s : State) (p : PieceNo) (base : Pos) :
    (s.startImpression p base).pending = s.pending ∧ (s.startImpression p base).now = s.now ∧ (s.startImpression p
    base).position = s.position ∧ (s.startImpression p base).lastStep = s.lastStep ∧ (s.startImpression p
    base).samples = s.samples ∧ (s.startImpression p base).cellUnit = s.cellUnit ∧ (s.startImpression p
    base).admission = s.admission ∧ (s.startImpression p base).scan = s.scan ∧ (s.startImpression p base).schedule =
    s.schedule ∧ (s.startImpression p base).gates = s.gates ∧ (s.startImpression p base).pocket = s.pocket ∧
    (s.startImpression p base).router = s.router ∧ (s.startImpression p base).drive = s.drive ∧ (s.startImpression p
    base).run = s.run ∧ (s.startImpression p base).protect = s.protect ∧ (s.startImpression p base).reports =
    s.reports ∧ (s.startImpression p base).plan = s.plan ∧ (s.startImpression p base).planValid = s.planValid ∧
    (s.startImpression p base).mem = s.mem ∧ (s.startImpression p base).openSeq = s.openSeq ∧ (s.startImpression p
    base).printer.slots = s.printer.slots ∧ (s.startImpression p base).printer.active = s.printer.active ∧
    (s.startImpression p base).printer.waiting = s.printer.waiting ∧ (s.startImpression p base).printer.banks =
    s.printer.banks ∧ (s.startImpression p base).port.pageAddress = s.port.pageAddress ∧ (s.startImpression p
    base).port.enable = s.port.enable ∧ (s.startImpression p base).port.scanTap = s.port.scanTap ∧
    (s.startImpression p base).port.masked = s.port.masked ∧ (s.startImpression p base).port.scanTimer =
    s.port.scanTimer ∧
    (s.startImpression p base).port.scanLeft = s.port.scanLeft ∧ (s.startImpression p
    base).port.readData = s.port.readData ∧ (s.startImpression p base).tally.pieces = s.tally.pieces ∧
    (s.startImpression p base).tally.snapshot = s.tally.snapshot := by
  simp only [State.startImpression]
  (repeat' split) <;> simp

@[simp] theorem State.protectAction_frame (s : State) :
    s.protectAction.pending = s.pending ∧ s.protectAction.now = s.now ∧ s.protectAction.position = s.position ∧
    s.protectAction.lastStep = s.lastStep ∧ s.protectAction.samples = s.samples ∧ s.protectAction.cellUnit =
    s.cellUnit ∧ s.protectAction.admission = s.admission ∧ s.protectAction.records = s.records ∧
    s.protectAction.scan = s.scan ∧ s.protectAction.schedule = s.schedule ∧ s.protectAction.gates = s.gates ∧
    s.protectAction.pocket = s.pocket ∧ s.protectAction.printer = s.printer ∧ s.protectAction.router = s.router ∧
    s.protectAction.run = s.run ∧ s.protectAction.tally = s.tally ∧ s.protectAction.reports = s.reports ∧
    s.protectAction.port = s.port ∧ s.protectAction.plan = s.plan ∧ s.protectAction.planValid = s.planValid ∧
    s.protectAction.mem = s.mem ∧ s.protectAction.openSeq = s.openSeq ∧ s.protectAction.protect.latch =
    s.protect.latch ∧ s.protectAction.protect.guardIsOpen = s.protect.guardIsOpen ∧ s.protectAction.protect.cause =
    s.protect.cause ∧ s.protectAction.drive.still = s.drive.still ∧ s.protectAction.drive.stillTimer =
    s.drive.stillTimer := by
  simp only [State.protectAction]
  (repeat' split) <;> simp

@[simp] theorem State.safeOutputs_frame (s : State) :
    s.safeOutputs.pending = s.pending ∧ s.safeOutputs.now = s.now ∧ s.safeOutputs.position = s.position ∧
    s.safeOutputs.lastStep = s.lastStep ∧ s.safeOutputs.samples = s.samples ∧ s.safeOutputs.cellUnit = s.cellUnit ∧
    s.safeOutputs.admission = s.admission ∧ s.safeOutputs.scan = s.scan ∧ s.safeOutputs.schedule = s.schedule ∧
    s.safeOutputs.pocket = s.pocket ∧ s.safeOutputs.router = s.router ∧ s.safeOutputs.drive = s.drive ∧
    s.safeOutputs.run = s.run ∧ s.safeOutputs.protect = s.protect ∧ s.safeOutputs.tally = s.tally ∧
    s.safeOutputs.reports = s.reports ∧ s.safeOutputs.port = s.port ∧ s.safeOutputs.plan = s.plan ∧
    s.safeOutputs.planValid = s.planValid ∧ s.safeOutputs.mem = s.mem ∧ s.safeOutputs.openSeq = s.openSeq ∧
    s.safeOutputs.printer.slots = s.printer.slots ∧ s.safeOutputs.printer.active = s.printer.active ∧
    s.safeOutputs.printer.waiting = s.printer.waiting ∧ s.safeOutputs.printer.banks = s.printer.banks := by
  simp only [State.safeOutputs]
  simp

@[simp] theorem State.jamRun_frame (s : State) :
    s.jamRun.pending = s.pending ∧ s.jamRun.now = s.now ∧ s.jamRun.position = s.position ∧ s.jamRun.lastStep =
    s.lastStep ∧ s.jamRun.samples = s.samples ∧ s.jamRun.cellUnit = s.cellUnit ∧ s.jamRun.admission = s.admission ∧
    s.jamRun.records = s.records ∧ s.jamRun.scan = s.scan ∧ s.jamRun.schedule = s.schedule ∧ s.jamRun.gates =
    s.gates ∧ s.jamRun.pocket = s.pocket ∧ s.jamRun.printer = s.printer ∧ s.jamRun.router = s.router ∧
    s.jamRun.drive = s.drive ∧ s.jamRun.protect = s.protect ∧ s.jamRun.tally = s.tally ∧ s.jamRun.reports =
    s.reports ∧ s.jamRun.plan = s.plan ∧ s.jamRun.planValid = s.planValid ∧ s.jamRun.openSeq = s.openSeq ∧
    s.jamRun.run.hold.endFull = s.run.hold.endFull ∧ s.jamRun.run.hold.mergeGap = s.run.hold.mergeGap ∧
    s.jamRun.port.pageAddress = s.port.pageAddress ∧ s.jamRun.port.enable = s.port.enable ∧ s.jamRun.port.scanTap =
    s.port.scanTap ∧ s.jamRun.port.masked = s.port.masked ∧ s.jamRun.port.scanTimer = s.port.scanTimer ∧
    s.jamRun.port.scanLeft = s.port.scanLeft ∧
    s.jamRun.port.readData = s.port.readData := by
  simp only [State.jamRun]
  simp

@[simp] theorem State.abandonScan_frame (s : State) :
    s.abandonScan.pending = s.pending ∧ s.abandonScan.now = s.now ∧ s.abandonScan.position = s.position ∧
    s.abandonScan.lastStep = s.lastStep ∧ s.abandonScan.samples = s.samples ∧ s.abandonScan.cellUnit = s.cellUnit ∧
    s.abandonScan.admission = s.admission ∧ s.abandonScan.records = s.records ∧ s.abandonScan.schedule = s.schedule
    ∧ s.abandonScan.gates = s.gates ∧ s.abandonScan.pocket = s.pocket ∧ s.abandonScan.printer = s.printer ∧
    s.abandonScan.router = s.router ∧ s.abandonScan.drive = s.drive ∧ s.abandonScan.run = s.run ∧
    s.abandonScan.protect = s.protect ∧ s.abandonScan.tally = s.tally ∧ s.abandonScan.reports = s.reports ∧
    s.abandonScan.port = s.port ∧ s.abandonScan.plan = s.plan ∧ s.abandonScan.planValid = s.planValid ∧
    s.abandonScan.mem = s.mem ∧ s.abandonScan.openSeq = s.openSeq := by
  simp only [State.abandonScan]
  split <;> simp

@[simp] theorem State.abandonWork_frame (s : State) :
    s.abandonWork.pending = s.pending ∧ s.abandonWork.now = s.now ∧ s.abandonWork.position = s.position ∧
    s.abandonWork.lastStep = s.lastStep ∧ s.abandonWork.samples = s.samples ∧ s.abandonWork.cellUnit = s.cellUnit ∧
    s.abandonWork.admission = s.admission ∧ s.abandonWork.records = s.records ∧ s.abandonWork.schedule = s.schedule
    ∧ s.abandonWork.gates = s.gates ∧ s.abandonWork.printer = s.printer ∧ s.abandonWork.router = s.router ∧
    s.abandonWork.drive = s.drive ∧ s.abandonWork.run = s.run ∧ s.abandonWork.protect = s.protect ∧
    s.abandonWork.tally = s.tally ∧ s.abandonWork.reports = s.reports ∧ s.abandonWork.port = s.port ∧
    s.abandonWork.plan = s.plan ∧ s.abandonWork.planValid = s.planValid ∧ s.abandonWork.mem = s.mem ∧
    s.abandonWork.openSeq = s.openSeq ∧ s.abandonWork.pocket.state = s.pocket.state ∧ s.abandonWork.pocket.occupant
    = s.pocket.occupant ∧ s.abandonWork.pocket.mergeHold = s.pocket.mergeHold := by
  simp only [State.abandonWork]
  simp

@[simp] theorem State.trip_frame (s : State) (cause : TripCause) (cell : Option Cell) (at' : Pos) (piece : Option PieceNo) :
    (s.trip cause cell at' piece).pending = s.pending ∧ (s.trip cause cell at' piece).now = s.now ∧ (s.trip cause
    cell at' piece).position = s.position ∧ (s.trip cause cell at' piece).lastStep = s.lastStep ∧ (s.trip cause cell
    at' piece).samples = s.samples ∧ (s.trip cause cell at' piece).cellUnit = s.cellUnit ∧ (s.trip cause cell at'
    piece).admission = s.admission ∧ (s.trip cause cell at' piece).schedule = s.schedule ∧ (s.trip cause cell at'
    piece).router = s.router ∧ (s.trip cause cell at' piece).reports = s.reports ∧ (s.trip cause cell at'
    piece).plan = s.plan ∧ (s.trip cause cell at' piece).planValid = s.planValid ∧ (s.trip cause cell at'
    piece).openSeq = s.openSeq ∧ (s.trip cause cell at' piece).run.hold.endFull = s.run.hold.endFull ∧ (s.trip cause
    cell at' piece).run.hold.mergeGap = s.run.hold.mergeGap ∧ (s.trip cause cell at' piece).protect.guardIsOpen =
    s.protect.guardIsOpen ∧ (s.trip cause cell at' piece).pocket.state = s.pocket.state ∧ (s.trip cause cell at'
    piece).pocket.occupant = s.pocket.occupant ∧ (s.trip cause cell at' piece).pocket.mergeHold = s.pocket.mergeHold
    ∧ (s.trip cause cell at' piece).printer.slots = s.printer.slots ∧ (s.trip cause cell at' piece).printer.active =
    s.printer.active ∧ (s.trip cause cell at' piece).printer.waiting = s.printer.waiting ∧ (s.trip cause cell at'
    piece).printer.banks = s.printer.banks ∧ (s.trip cause cell at' piece).drive.still = s.drive.still ∧ (s.trip
    cause cell at' piece).drive.stillTimer = s.drive.stillTimer ∧ (s.trip cause cell at' piece).port.pageAddress =
    s.port.pageAddress ∧ (s.trip cause cell at' piece).port.enable = s.port.enable ∧ (s.trip cause cell at'
    piece).port.scanTap = s.port.scanTap ∧ (s.trip cause cell at' piece).port.masked = s.port.masked ∧ (s.trip cause
    cell at' piece).port.scanTimer = s.port.scanTimer ∧
    (s.trip cause cell at' piece).port.scanLeft = s.port.scanLeft ∧ (s.trip cause cell at' piece).port.readData = s.port.readData ∧ (s.trip cause cell at' piece).tally.pieces =
    s.tally.pieces ∧ (s.trip cause cell at' piece).tally.snapshot = s.tally.snapshot := by
  simp only [State.trip]
  (repeat' split) <;> simp

@[simp] theorem State.takeEntry_frame (s : State) (e : Entry) :
    (s.takeEntry e).pending = s.pending ∧ (s.takeEntry e).now = s.now ∧ (s.takeEntry e).position = s.position ∧
    (s.takeEntry e).lastStep = s.lastStep ∧ (s.takeEntry e).samples = s.samples ∧ (s.takeEntry e).cellUnit =
    s.cellUnit ∧ (s.takeEntry e).admission = s.admission ∧ (s.takeEntry e).schedule = s.schedule ∧ (s.takeEntry
    e).router = s.router ∧ (s.takeEntry e).reports = s.reports ∧ (s.takeEntry e).plan = s.plan ∧ (s.takeEntry
    e).planValid = s.planValid ∧ (s.takeEntry e).openSeq = s.openSeq ∧ (s.takeEntry e).run.hold.endFull =
    s.run.hold.endFull ∧ (s.takeEntry e).run.hold.mergeGap = s.run.hold.mergeGap ∧ (s.takeEntry
    e).protect.guardIsOpen = s.protect.guardIsOpen ∧ (s.takeEntry e).pocket.state = s.pocket.state ∧ (s.takeEntry
    e).pocket.occupant = s.pocket.occupant ∧ (s.takeEntry e).pocket.mergeHold = s.pocket.mergeHold ∧ (s.takeEntry
    e).printer.slots = s.printer.slots ∧ (s.takeEntry e).printer.active = s.printer.active ∧ (s.takeEntry
    e).printer.waiting = s.printer.waiting ∧ (s.takeEntry e).printer.banks = s.printer.banks ∧ (s.takeEntry
    e).drive.still = s.drive.still ∧ (s.takeEntry e).drive.stillTimer = s.drive.stillTimer ∧ (s.takeEntry
    e).port.pageAddress = s.port.pageAddress ∧ (s.takeEntry e).port.enable = s.port.enable ∧ (s.takeEntry
    e).port.scanTap = s.port.scanTap ∧ (s.takeEntry e).port.masked = s.port.masked ∧ (s.takeEntry e).port.scanTimer
    = s.port.scanTimer ∧
    (s.takeEntry e).port.scanLeft = s.port.scanLeft ∧ (s.takeEntry e).port.readData =
    s.port.readData ∧ (s.takeEntry e).tally.pieces = s.tally.pieces ∧ (s.takeEntry e).tally.snapshot =
    s.tally.snapshot := by
  simp only [State.takeEntry]
  (repeat' split) <;> simp

@[simp] theorem State.insertEntry_frame (s : State) (e : Entry) :
    (s.insertEntry e).pending = s.pending ∧ (s.insertEntry e).now = s.now ∧ (s.insertEntry e).position = s.position
    ∧ (s.insertEntry e).lastStep = s.lastStep ∧ (s.insertEntry e).samples = s.samples ∧ (s.insertEntry e).cellUnit =
    s.cellUnit ∧ (s.insertEntry e).admission = s.admission ∧ (s.insertEntry e).router = s.router ∧ (s.insertEntry
    e).reports = s.reports ∧ (s.insertEntry e).plan = s.plan ∧ (s.insertEntry e).planValid = s.planValid ∧
    (s.insertEntry e).openSeq = s.openSeq ∧ (s.insertEntry e).run.hold.endFull = s.run.hold.endFull ∧ (s.insertEntry
    e).run.hold.mergeGap = s.run.hold.mergeGap ∧ (s.insertEntry e).protect.guardIsOpen = s.protect.guardIsOpen ∧
    (s.insertEntry e).pocket.state = s.pocket.state ∧ (s.insertEntry e).pocket.occupant = s.pocket.occupant ∧
    (s.insertEntry e).pocket.mergeHold = s.pocket.mergeHold ∧ (s.insertEntry e).printer.slots = s.printer.slots ∧
    (s.insertEntry e).printer.active = s.printer.active ∧ (s.insertEntry e).printer.waiting = s.printer.waiting ∧
    (s.insertEntry e).printer.banks = s.printer.banks ∧ (s.insertEntry e).drive.still = s.drive.still ∧
    (s.insertEntry e).drive.stillTimer = s.drive.stillTimer ∧ (s.insertEntry e).port.pageAddress =
    s.port.pageAddress ∧ (s.insertEntry e).port.enable = s.port.enable ∧ (s.insertEntry e).port.scanTap =
    s.port.scanTap ∧ (s.insertEntry e).port.masked = s.port.masked ∧ (s.insertEntry e).port.scanTimer =
    s.port.scanTimer ∧
    (s.insertEntry e).port.scanLeft = s.port.scanLeft ∧ (s.insertEntry e).port.readData =
    s.port.readData ∧ (s.insertEntry e).tally.pieces = s.tally.pieces ∧ (s.insertEntry e).tally.snapshot =
    s.tally.snapshot := by
  simp only [State.insertEntry]
  (repeat' split) <;> simp

@[simp] theorem State.takeDue_frame (s : State) :
    s.takeDue.pending = s.pending ∧ s.takeDue.now = s.now ∧ s.takeDue.position = s.position ∧ s.takeDue.lastStep =
    s.lastStep ∧ s.takeDue.samples = s.samples ∧ s.takeDue.cellUnit = s.cellUnit ∧ s.takeDue.admission = s.admission
    ∧ s.takeDue.router = s.router ∧ s.takeDue.reports = s.reports ∧ s.takeDue.plan = s.plan ∧ s.takeDue.planValid =
    s.planValid ∧ s.takeDue.openSeq = s.openSeq ∧ s.takeDue.run.hold.endFull = s.run.hold.endFull ∧
    s.takeDue.run.hold.mergeGap = s.run.hold.mergeGap ∧ s.takeDue.protect.guardIsOpen = s.protect.guardIsOpen ∧
    s.takeDue.pocket.state = s.pocket.state ∧ s.takeDue.pocket.occupant = s.pocket.occupant ∧
    s.takeDue.pocket.mergeHold = s.pocket.mergeHold ∧ s.takeDue.printer.slots = s.printer.slots ∧
    s.takeDue.printer.active = s.printer.active ∧ s.takeDue.printer.waiting = s.printer.waiting ∧
    s.takeDue.printer.banks = s.printer.banks ∧ s.takeDue.drive.still = s.drive.still ∧ s.takeDue.drive.stillTimer =
    s.drive.stillTimer ∧ s.takeDue.port.pageAddress = s.port.pageAddress ∧ s.takeDue.port.enable = s.port.enable ∧
    s.takeDue.port.scanTap = s.port.scanTap ∧ s.takeDue.port.masked = s.port.masked ∧ s.takeDue.port.scanTimer =
    s.port.scanTimer ∧
    s.takeDue.port.scanLeft = s.port.scanLeft ∧ s.takeDue.port.readData = s.port.readData ∧
    s.takeDue.tally.pieces = s.tally.pieces ∧ s.takeDue.tally.snapshot = s.tally.snapshot := by
  simp only [State.takeDue]
  (repeat' split) <;> simp

@[simp] theorem State.takeAllDue_frame (s : State) (n : Nat) :
    (State.takeAllDue n s).pending = s.pending ∧ (State.takeAllDue n s).now = s.now ∧ (State.takeAllDue n
    s).position = s.position ∧ (State.takeAllDue n s).lastStep = s.lastStep ∧ (State.takeAllDue n s).samples =
    s.samples ∧ (State.takeAllDue n s).cellUnit = s.cellUnit ∧ (State.takeAllDue n s).admission = s.admission ∧
    (State.takeAllDue n s).router = s.router ∧ (State.takeAllDue n s).reports = s.reports ∧ (State.takeAllDue n
    s).plan = s.plan ∧ (State.takeAllDue n s).planValid = s.planValid ∧ (State.takeAllDue n s).openSeq = s.openSeq ∧
    (State.takeAllDue n s).run.hold.endFull = s.run.hold.endFull ∧ (State.takeAllDue n s).run.hold.mergeGap =
    s.run.hold.mergeGap ∧ (State.takeAllDue n s).protect.guardIsOpen = s.protect.guardIsOpen ∧ (State.takeAllDue n
    s).pocket.state = s.pocket.state ∧ (State.takeAllDue n s).pocket.occupant = s.pocket.occupant ∧
    (State.takeAllDue n s).pocket.mergeHold = s.pocket.mergeHold ∧ (State.takeAllDue n s).printer.slots =
    s.printer.slots ∧ (State.takeAllDue n s).printer.active = s.printer.active ∧ (State.takeAllDue n
    s).printer.waiting = s.printer.waiting ∧ (State.takeAllDue n s).printer.banks = s.printer.banks ∧
    (State.takeAllDue n s).drive.still = s.drive.still ∧ (State.takeAllDue n s).drive.stillTimer =
    s.drive.stillTimer ∧ (State.takeAllDue n s).port.pageAddress = s.port.pageAddress ∧ (State.takeAllDue n
    s).port.enable = s.port.enable ∧ (State.takeAllDue n s).port.scanTap = s.port.scanTap ∧ (State.takeAllDue n
    s).port.masked = s.port.masked ∧ (State.takeAllDue n s).port.scanTimer = s.port.scanTimer ∧
    (State.takeAllDue n s).port.scanLeft = s.port.scanLeft ∧ (State.takeAllDue n s).port.readData = s.port.readData ∧ (State.takeAllDue n
    s).tally.pieces = s.tally.pieces ∧ (State.takeAllDue n s).tally.snapshot = s.tally.snapshot := by
  induction n generalizing s with
  | zero => simp [State.takeAllDue]
  | succ n ih => simp only [State.takeAllDue]; (repeat' split) <;> simp [ih]

@[simp] theorem State.dropExpectation_frame (s : State) (p : PieceNo) :
    (s.dropExpectation p).pending = s.pending ∧ (s.dropExpectation p).now = s.now ∧ (s.dropExpectation p).position =
    s.position ∧ (s.dropExpectation p).lastStep = s.lastStep ∧ (s.dropExpectation p).samples = s.samples ∧
    (s.dropExpectation p).admission = s.admission ∧ (s.dropExpectation p).scan = s.scan ∧ (s.dropExpectation
    p).gates = s.gates ∧ (s.dropExpectation p).pocket = s.pocket ∧ (s.dropExpectation p).printer = s.printer ∧
    (s.dropExpectation p).router = s.router ∧ (s.dropExpectation p).drive = s.drive ∧ (s.dropExpectation p).run =
    s.run ∧ (s.dropExpectation p).protect = s.protect ∧ (s.dropExpectation p).tally = s.tally ∧ (s.dropExpectation
    p).reports = s.reports ∧ (s.dropExpectation p).port = s.port ∧ (s.dropExpectation p).plan = s.plan ∧
    (s.dropExpectation p).planValid = s.planValid ∧ (s.dropExpectation p).mem = s.mem ∧ (s.dropExpectation
    p).openSeq = s.openSeq ∧ (s.dropExpectation p).cellUnit.cells = s.cellUnit.cells := by
  simp only [State.dropExpectation]
  simp

@[simp] theorem State.expect_frame (s : State) (p : PieceNo) (c : Cell) (lead : Pos) :
    (s.expect p c lead).pending = s.pending ∧ (s.expect p c lead).now = s.now ∧ (s.expect p c lead).position =
    s.position ∧ (s.expect p c lead).lastStep = s.lastStep ∧ (s.expect p c lead).samples = s.samples ∧ (s.expect p c
    lead).admission = s.admission ∧ (s.expect p c lead).router = s.router ∧ (s.expect p c lead).reports = s.reports
    ∧ (s.expect p c lead).plan = s.plan ∧ (s.expect p c lead).planValid = s.planValid ∧ (s.expect p c lead).openSeq
    = s.openSeq ∧ (s.expect p c lead).run.hold.endFull = s.run.hold.endFull ∧ (s.expect p c lead).run.hold.mergeGap
    = s.run.hold.mergeGap ∧ (s.expect p c lead).protect.guardIsOpen = s.protect.guardIsOpen ∧ (s.expect p c
    lead).pocket.state = s.pocket.state ∧ (s.expect p c lead).pocket.occupant = s.pocket.occupant ∧ (s.expect p c
    lead).pocket.mergeHold = s.pocket.mergeHold ∧ (s.expect p c lead).printer.slots = s.printer.slots ∧ (s.expect p
    c lead).printer.active = s.printer.active ∧ (s.expect p c lead).printer.waiting = s.printer.waiting ∧ (s.expect
    p c lead).printer.banks = s.printer.banks ∧ (s.expect p c lead).drive.still = s.drive.still ∧ (s.expect p c
    lead).drive.stillTimer = s.drive.stillTimer ∧ (s.expect p c lead).port.pageAddress = s.port.pageAddress ∧
    (s.expect p c lead).port.enable = s.port.enable ∧ (s.expect p c lead).port.scanTap = s.port.scanTap ∧ (s.expect
    p c lead).port.masked = s.port.masked ∧ (s.expect p c lead).port.scanTimer = s.port.scanTimer ∧
    (s.expect p c lead).port.scanLeft = s.port.scanLeft ∧ (s.expect p c lead).port.readData = s.port.readData ∧ (s.expect p c
    lead).cellUnit.cells = s.cellUnit.cells ∧ (s.expect p c lead).tally.pieces = s.tally.pieces ∧ (s.expect p c
    lead).tally.snapshot = s.tally.snapshot := by
  simp only [State.expect]
  simp

@[simp] theorem State.takeCloses_frame (s : State) (p : PieceNo) :
    (s.takeCloses p).pending = s.pending ∧ (s.takeCloses p).now = s.now ∧ (s.takeCloses p).position = s.position ∧
    (s.takeCloses p).lastStep = s.lastStep ∧ (s.takeCloses p).samples = s.samples ∧ (s.takeCloses p).cellUnit =
    s.cellUnit ∧ (s.takeCloses p).admission = s.admission ∧ (s.takeCloses p).records = s.records ∧ (s.takeCloses
    p).scan = s.scan ∧ (s.takeCloses p).schedule = s.schedule ∧ (s.takeCloses p).pocket = s.pocket ∧ (s.takeCloses
    p).printer = s.printer ∧ (s.takeCloses p).router = s.router ∧ (s.takeCloses p).drive = s.drive ∧ (s.takeCloses
    p).run = s.run ∧ (s.takeCloses p).protect = s.protect ∧ (s.takeCloses p).tally = s.tally ∧ (s.takeCloses
    p).reports = s.reports ∧ (s.takeCloses p).port = s.port ∧ (s.takeCloses p).plan = s.plan ∧ (s.takeCloses
    p).planValid = s.planValid ∧ (s.takeCloses p).mem = s.mem ∧ (s.takeCloses p).openSeq = s.openSeq := by
  simp only [State.takeCloses]
  exact ⟨foldl_keep _ (fun t : State => t.pending) (by intros; (repeat' split) <;> simp) _ _,
    foldl_keep _ (fun t : State => t.now) (by intros; (repeat' split) <;> simp) _ _,
    foldl_keep _ (fun t : State => t.position) (by intros; (repeat' split) <;> simp) _ _,
    foldl_keep _ (fun t : State => t.lastStep) (by intros; (repeat' split) <;> simp) _ _,
    foldl_keep _ (fun t : State => t.samples) (by intros; (repeat' split) <;> simp) _ _,
    foldl_keep _ (fun t : State => t.cellUnit) (by intros; (repeat' split) <;> simp) _ _,
    foldl_keep _ (fun t : State => t.admission) (by intros; (repeat' split) <;> simp) _ _,
    foldl_keep _ (fun t : State => t.records) (by intros; (repeat' split) <;> simp) _ _,
    foldl_keep _ (fun t : State => t.scan) (by intros; (repeat' split) <;> simp) _ _,
    foldl_keep _ (fun t : State => t.schedule) (by intros; (repeat' split) <;> simp) _ _,
    foldl_keep _ (fun t : State => t.pocket) (by intros; (repeat' split) <;> simp) _ _,
    foldl_keep _ (fun t : State => t.printer) (by intros; (repeat' split) <;> simp) _ _,
    foldl_keep _ (fun t : State => t.router) (by intros; (repeat' split) <;> simp) _ _,
    foldl_keep _ (fun t : State => t.drive) (by intros; (repeat' split) <;> simp) _ _,
    foldl_keep _ (fun t : State => t.run) (by intros; (repeat' split) <;> simp) _ _,
    foldl_keep _ (fun t : State => t.protect) (by intros; (repeat' split) <;> simp) _ _,
    foldl_keep _ (fun t : State => t.tally) (by intros; (repeat' split) <;> simp) _ _,
    foldl_keep _ (fun t : State => t.reports) (by intros; (repeat' split) <;> simp) _ _,
    foldl_keep _ (fun t : State => t.port) (by intros; (repeat' split) <;> simp) _ _,
    foldl_keep _ (fun t : State => t.plan) (by intros; (repeat' split) <;> simp) _ _,
    foldl_keep _ (fun t : State => t.planValid) (by intros; (repeat' split) <;> simp) _ _,
    foldl_keep _ (fun t : State => t.mem) (by intros; (repeat' split) <;> simp) _ _,
    foldl_keep _ (fun t : State => t.openSeq) (by intros; (repeat' split) <;> simp) _ _⟩

@[simp] theorem State.freeRecord_frame (s : State) (r : Record) :
    (s.freeRecord r).pending = s.pending ∧ (s.freeRecord r).now = s.now ∧ (s.freeRecord r).position = s.position ∧
    (s.freeRecord r).lastStep = s.lastStep ∧ (s.freeRecord r).samples = s.samples ∧ (s.freeRecord r).admission =
    s.admission ∧ (s.freeRecord r).router = s.router ∧ (s.freeRecord r).drive = s.drive ∧ (s.freeRecord r).protect =
    s.protect ∧ (s.freeRecord r).tally = s.tally ∧ (s.freeRecord r).reports = s.reports ∧ (s.freeRecord r).port =
    s.port ∧ (s.freeRecord r).plan = s.plan ∧ (s.freeRecord r).planValid = s.planValid ∧ (s.freeRecord r).mem =
    s.mem ∧ (s.freeRecord r).openSeq = s.openSeq ∧ (s.freeRecord r).run.state = s.run.state ∧ (s.freeRecord
    r).run.request = s.run.request ∧ (s.freeRecord r).run.hold.endFull = s.run.hold.endFull ∧ (s.freeRecord
    r).printer.active = s.printer.active ∧ (s.freeRecord r).printer.waiting = s.printer.waiting ∧ (s.freeRecord
    r).printer.banks = s.printer.banks ∧ (s.freeRecord r).printer.job = s.printer.job ∧ (s.freeRecord
    r).printer.head = s.printer.head := by
  simp only [State.freeRecord]
  (repeat' split) <;> simp

@[simp] theorem State.countReport_frame (s : State) (x : Report) :
    (s.countReport x).pending = s.pending ∧ (s.countReport x).now = s.now ∧ (s.countReport x).position = s.position
    ∧ (s.countReport x).lastStep = s.lastStep ∧ (s.countReport x).samples = s.samples ∧ (s.countReport x).cellUnit =
    s.cellUnit ∧ (s.countReport x).admission = s.admission ∧ (s.countReport x).records = s.records ∧ (s.countReport
    x).scan = s.scan ∧ (s.countReport x).schedule = s.schedule ∧ (s.countReport x).gates = s.gates ∧ (s.countReport
    x).pocket = s.pocket ∧ (s.countReport x).printer = s.printer ∧ (s.countReport x).router = s.router ∧
    (s.countReport x).drive = s.drive ∧ (s.countReport x).run = s.run ∧ (s.countReport x).protect = s.protect ∧
    (s.countReport x).reports = s.reports ∧ (s.countReport x).plan = s.plan ∧ (s.countReport x).planValid =
    s.planValid ∧ (s.countReport x).mem = s.mem ∧ (s.countReport x).openSeq = s.openSeq ∧ (s.countReport
    x).port.pageAddress = s.port.pageAddress ∧ (s.countReport x).port.enable = s.port.enable ∧ (s.countReport
    x).port.scanTap = s.port.scanTap ∧ (s.countReport x).port.masked = s.port.masked ∧ (s.countReport
    x).port.scanTimer = s.port.scanTimer ∧
    (s.countReport x).port.scanLeft = s.port.scanLeft ∧ (s.countReport
    x).port.readData = s.port.readData ∧ (s.countReport x).tally.snapshot = s.tally.snapshot := by
  simp only [State.countReport]
  (repeat' split) <;> simp

@[simp] theorem State.endPiece_frame (s : State) (p : PieceNo) (outcome : Record → PieceOutcome) :
    (s.endPiece p outcome).pending = s.pending ∧ (s.endPiece p outcome).now = s.now ∧ (s.endPiece p
    outcome).position = s.position ∧ (s.endPiece p outcome).lastStep = s.lastStep ∧ (s.endPiece p outcome).samples =
    s.samples ∧ (s.endPiece p outcome).admission = s.admission ∧ (s.endPiece p outcome).router = s.router ∧
    (s.endPiece p outcome).drive = s.drive ∧ (s.endPiece p outcome).protect = s.protect ∧ (s.endPiece p
    outcome).plan = s.plan ∧ (s.endPiece p outcome).planValid = s.planValid ∧ (s.endPiece p outcome).mem = s.mem ∧
    (s.endPiece p outcome).openSeq = s.openSeq ∧ (s.endPiece p outcome).run.state = s.run.state ∧ (s.endPiece p
    outcome).run.request = s.run.request ∧ (s.endPiece p outcome).run.hold.endFull = s.run.hold.endFull ∧
    (s.endPiece p outcome).printer.active = s.printer.active ∧ (s.endPiece p outcome).printer.waiting =
    s.printer.waiting ∧ (s.endPiece p outcome).printer.banks = s.printer.banks ∧ (s.endPiece p outcome).printer.head
    = s.printer.head ∧ (s.endPiece p outcome).reports.tray = s.reports.tray ∧ (s.endPiece p outcome).reports.starved
    = s.reports.starved ∧ (s.endPiece p outcome).reports.closeDue = s.reports.closeDue ∧ (s.endPiece p
    outcome).port.pageAddress = s.port.pageAddress ∧ (s.endPiece p outcome).port.enable = s.port.enable ∧
    (s.endPiece p outcome).port.scanTap = s.port.scanTap ∧ (s.endPiece p outcome).port.masked = s.port.masked ∧
    (s.endPiece p outcome).port.scanTimer = s.port.scanTimer ∧
    (s.endPiece p outcome).port.scanLeft = s.port.scanLeft ∧ (s.endPiece p outcome).port.readData = s.port.readData ∧ (s.endPiece p outcome).tally.snapshot =
    s.tally.snapshot := by
  simp only [State.endPiece]
  (repeat' split) <;> simp

@[simp] theorem State.searchRack_frame (s : State) :
    s.searchRack.pending = s.pending ∧ s.searchRack.now = s.now ∧ s.searchRack.position = s.position ∧
    s.searchRack.lastStep = s.lastStep ∧ s.searchRack.samples = s.samples ∧ s.searchRack.cellUnit = s.cellUnit ∧
    s.searchRack.admission = s.admission ∧ s.searchRack.records = s.records ∧ s.searchRack.scan = s.scan ∧
    s.searchRack.schedule = s.schedule ∧ s.searchRack.gates = s.gates ∧ s.searchRack.pocket = s.pocket ∧
    s.searchRack.printer = s.printer ∧ s.searchRack.router = s.router ∧ s.searchRack.drive = s.drive ∧
    s.searchRack.run = s.run ∧ s.searchRack.protect = s.protect ∧ s.searchRack.tally = s.tally ∧ s.searchRack.plan =
    s.plan ∧ s.searchRack.planValid = s.planValid ∧ s.searchRack.openSeq = s.openSeq ∧ s.searchRack.reports.held =
    s.reports.held ∧ s.searchRack.reports.closeDue = s.reports.closeDue ∧ s.searchRack.port.pageAddress =
    s.port.pageAddress ∧ s.searchRack.port.enable = s.port.enable ∧ s.searchRack.port.scanTap = s.port.scanTap ∧
    s.searchRack.port.masked = s.port.masked ∧ s.searchRack.port.scanTimer = s.port.scanTimer ∧
    s.searchRack.port.scanLeft = s.port.scanLeft ∧
    s.searchRack.port.readData = s.port.readData := by
  simp only [State.searchRack]
  (repeat' split) <;> simp

@[simp] theorem State.closeTray_frame (s : State) (cause : CloseCause) :
    (s.closeTray cause).pending = s.pending ∧ (s.closeTray cause).now = s.now ∧ (s.closeTray cause).position =
    s.position ∧ (s.closeTray cause).lastStep = s.lastStep ∧ (s.closeTray cause).samples = s.samples ∧ (s.closeTray
    cause).cellUnit = s.cellUnit ∧ (s.closeTray cause).admission = s.admission ∧ (s.closeTray cause).records =
    s.records ∧ (s.closeTray cause).scan = s.scan ∧ (s.closeTray cause).schedule = s.schedule ∧ (s.closeTray
    cause).gates = s.gates ∧ (s.closeTray cause).pocket = s.pocket ∧ (s.closeTray cause).printer = s.printer ∧
    (s.closeTray cause).router = s.router ∧ (s.closeTray cause).drive = s.drive ∧ (s.closeTray cause).run = s.run ∧
    (s.closeTray cause).protect = s.protect ∧ (s.closeTray cause).tally = s.tally ∧ (s.closeTray cause).plan =
    s.plan ∧ (s.closeTray cause).planValid = s.planValid ∧ (s.closeTray cause).openSeq = s.openSeq ∧ (s.closeTray
    cause).reports.held = s.reports.held ∧ (s.closeTray cause).reports.starved = s.reports.starved ∧ (s.closeTray
    cause).port.pageAddress = s.port.pageAddress ∧ (s.closeTray cause).port.enable = s.port.enable ∧ (s.closeTray
    cause).port.scanTap = s.port.scanTap ∧ (s.closeTray cause).port.masked = s.port.masked ∧ (s.closeTray
    cause).port.scanTimer = s.port.scanTimer ∧
    (s.closeTray cause).port.scanLeft = s.port.scanLeft ∧ (s.closeTray
    cause).port.readData = s.port.readData := by
  simp only [State.closeTray]
  (repeat' split) <;> simp

@[simp] theorem State.moveOne_frame (s : State) :
    s.moveOne.pending = s.pending ∧ s.moveOne.now = s.now ∧ s.moveOne.position = s.position ∧ s.moveOne.lastStep =
    s.lastStep ∧ s.moveOne.samples = s.samples ∧ s.moveOne.cellUnit = s.cellUnit ∧ s.moveOne.admission = s.admission
    ∧ s.moveOne.records = s.records ∧ s.moveOne.scan = s.scan ∧ s.moveOne.schedule = s.schedule ∧ s.moveOne.gates =
    s.gates ∧ s.moveOne.pocket = s.pocket ∧ s.moveOne.printer = s.printer ∧ s.moveOne.router = s.router ∧
    s.moveOne.drive = s.drive ∧ s.moveOne.protect = s.protect ∧ s.moveOne.tally = s.tally ∧ s.moveOne.plan = s.plan
    ∧ s.moveOne.planValid = s.planValid ∧ s.moveOne.openSeq = s.openSeq ∧ s.moveOne.run.state = s.run.state ∧
    s.moveOne.run.request = s.run.request ∧ s.moveOne.run.hold.endFull = s.run.hold.endFull ∧
    s.moveOne.run.hold.mergeGap = s.run.hold.mergeGap ∧ s.moveOne.reports.starved = s.reports.starved ∧
    s.moveOne.port.pageAddress = s.port.pageAddress ∧ s.moveOne.port.enable = s.port.enable ∧ s.moveOne.port.scanTap
    = s.port.scanTap ∧ s.moveOne.port.masked = s.port.masked ∧ s.moveOne.port.scanTimer = s.port.scanTimer ∧
    s.moveOne.port.scanLeft = s.port.scanLeft ∧
    s.moveOne.port.readData = s.port.readData := by
  simp only [State.moveOne]
  (repeat' split) <;> simp

@[simp] theorem State.needTray_frame (s : State) :
    s.needTray.pending = s.pending ∧ s.needTray.now = s.now ∧ s.needTray.position = s.position ∧ s.needTray.lastStep
    = s.lastStep ∧ s.needTray.samples = s.samples ∧ s.needTray.cellUnit = s.cellUnit ∧ s.needTray.admission =
    s.admission ∧ s.needTray.records = s.records ∧ s.needTray.scan = s.scan ∧ s.needTray.schedule = s.schedule ∧
    s.needTray.gates = s.gates ∧ s.needTray.pocket = s.pocket ∧ s.needTray.printer = s.printer ∧ s.needTray.router =
    s.router ∧ s.needTray.drive = s.drive ∧ s.needTray.run = s.run ∧ s.needTray.protect = s.protect ∧
    s.needTray.tally = s.tally ∧ s.needTray.plan = s.plan ∧ s.needTray.planValid = s.planValid ∧ s.needTray.openSeq
    = s.openSeq ∧ s.needTray.reports.held = s.reports.held ∧ s.needTray.reports.closeDue = s.reports.closeDue ∧
    s.needTray.port.pageAddress = s.port.pageAddress ∧ s.needTray.port.enable = s.port.enable ∧
    s.needTray.port.scanTap = s.port.scanTap ∧ s.needTray.port.masked = s.port.masked ∧ s.needTray.port.scanTimer =
    s.port.scanTimer ∧
    s.needTray.port.scanLeft = s.port.scanLeft ∧ s.needTray.port.readData = s.port.readData := by
  simp only [State.needTray]
  (repeat' split) <;> simp

@[simp] theorem State.fileLoop_frame (s : State) (n : Nat) :
    (State.fileLoop n s).pending = s.pending ∧ (State.fileLoop n s).now = s.now ∧ (State.fileLoop n s).position =
    s.position ∧ (State.fileLoop n s).lastStep = s.lastStep ∧ (State.fileLoop n s).samples = s.samples ∧
    (State.fileLoop n s).cellUnit = s.cellUnit ∧ (State.fileLoop n s).admission = s.admission ∧ (State.fileLoop n
    s).records = s.records ∧ (State.fileLoop n s).scan = s.scan ∧ (State.fileLoop n s).schedule = s.schedule ∧
    (State.fileLoop n s).gates = s.gates ∧ (State.fileLoop n s).pocket = s.pocket ∧ (State.fileLoop n s).printer =
    s.printer ∧ (State.fileLoop n s).router = s.router ∧ (State.fileLoop n s).drive = s.drive ∧ (State.fileLoop n
    s).protect = s.protect ∧ (State.fileLoop n s).tally = s.tally ∧ (State.fileLoop n s).plan = s.plan ∧
    (State.fileLoop n s).planValid = s.planValid ∧ (State.fileLoop n s).openSeq = s.openSeq ∧ (State.fileLoop n
    s).run.state = s.run.state ∧ (State.fileLoop n s).run.request = s.run.request ∧ (State.fileLoop n
    s).run.hold.endFull = s.run.hold.endFull ∧ (State.fileLoop n s).run.hold.mergeGap = s.run.hold.mergeGap ∧
    (State.fileLoop n s).port.pageAddress = s.port.pageAddress ∧ (State.fileLoop n s).port.enable = s.port.enable ∧
    (State.fileLoop n s).port.scanTap = s.port.scanTap ∧ (State.fileLoop n s).port.masked = s.port.masked ∧
    (State.fileLoop n s).port.scanTimer = s.port.scanTimer ∧
    (State.fileLoop n s).port.scanLeft = s.port.scanLeft ∧ (State.fileLoop n s).port.readData = s.port.readData := by
  induction n generalizing s with
  | zero => simp [State.fileLoop]
  | succ n ih => simp only [State.fileLoop]; (repeat' split) <;> simp [ih]

@[simp] theorem State.fileReports_frame (s : State) :
    s.fileReports.pending = s.pending ∧ s.fileReports.now = s.now ∧ s.fileReports.position = s.position ∧
    s.fileReports.lastStep = s.lastStep ∧ s.fileReports.samples = s.samples ∧ s.fileReports.cellUnit = s.cellUnit ∧
    s.fileReports.admission = s.admission ∧ s.fileReports.records = s.records ∧ s.fileReports.scan = s.scan ∧
    s.fileReports.schedule = s.schedule ∧ s.fileReports.gates = s.gates ∧ s.fileReports.pocket = s.pocket ∧
    s.fileReports.printer = s.printer ∧ s.fileReports.router = s.router ∧ s.fileReports.drive = s.drive ∧
    s.fileReports.protect = s.protect ∧ s.fileReports.tally = s.tally ∧ s.fileReports.plan = s.plan ∧
    s.fileReports.planValid = s.planValid ∧ s.fileReports.openSeq = s.openSeq ∧ s.fileReports.run.state =
    s.run.state ∧ s.fileReports.run.request = s.run.request ∧ s.fileReports.run.hold.endFull = s.run.hold.endFull ∧
    s.fileReports.run.hold.mergeGap = s.run.hold.mergeGap ∧ s.fileReports.port.pageAddress = s.port.pageAddress ∧
    s.fileReports.port.enable = s.port.enable ∧ s.fileReports.port.scanTap = s.port.scanTap ∧
    s.fileReports.port.masked = s.port.masked ∧ s.fileReports.port.scanTimer = s.port.scanTimer ∧
    s.fileReports.port.scanLeft = s.port.scanLeft ∧
    s.fileReports.port.readData = s.port.readData := by
  simp only [State.fileReports]
  simp

@[simp] theorem State.searchAndFile_frame (s : State) :
    s.searchAndFile.pending = s.pending ∧ s.searchAndFile.now = s.now ∧ s.searchAndFile.position = s.position ∧
    s.searchAndFile.lastStep = s.lastStep ∧ s.searchAndFile.samples = s.samples ∧ s.searchAndFile.cellUnit =
    s.cellUnit ∧ s.searchAndFile.admission = s.admission ∧ s.searchAndFile.records = s.records ∧
    s.searchAndFile.scan = s.scan ∧ s.searchAndFile.schedule = s.schedule ∧ s.searchAndFile.gates = s.gates ∧
    s.searchAndFile.pocket = s.pocket ∧ s.searchAndFile.printer = s.printer ∧ s.searchAndFile.router = s.router ∧
    s.searchAndFile.drive = s.drive ∧ s.searchAndFile.protect = s.protect ∧ s.searchAndFile.tally = s.tally ∧
    s.searchAndFile.plan = s.plan ∧ s.searchAndFile.planValid = s.planValid ∧ s.searchAndFile.openSeq = s.openSeq ∧
    s.searchAndFile.run.state = s.run.state ∧ s.searchAndFile.run.request = s.run.request ∧
    s.searchAndFile.run.hold.endFull = s.run.hold.endFull ∧ s.searchAndFile.run.hold.mergeGap = s.run.hold.mergeGap
    ∧ s.searchAndFile.port.pageAddress = s.port.pageAddress ∧ s.searchAndFile.port.enable = s.port.enable ∧
    s.searchAndFile.port.scanTap = s.port.scanTap ∧ s.searchAndFile.port.masked = s.port.masked ∧
    s.searchAndFile.port.scanTimer = s.port.scanTimer ∧
    s.searchAndFile.port.scanLeft = s.port.scanLeft ∧ s.searchAndFile.port.readData = s.port.readData := by
  simp only [State.searchAndFile]
  (repeat' split) <;> simp

@[simp] theorem State.fileAtIdle_frame (s : State) (cause : CloseCause) :
    (s.fileAtIdle cause).pending = s.pending ∧ (s.fileAtIdle cause).now = s.now ∧ (s.fileAtIdle cause).position =
    s.position ∧ (s.fileAtIdle cause).lastStep = s.lastStep ∧ (s.fileAtIdle cause).samples = s.samples ∧
    (s.fileAtIdle cause).cellUnit = s.cellUnit ∧ (s.fileAtIdle cause).admission = s.admission ∧ (s.fileAtIdle
    cause).records = s.records ∧ (s.fileAtIdle cause).scan = s.scan ∧ (s.fileAtIdle cause).schedule = s.schedule ∧
    (s.fileAtIdle cause).gates = s.gates ∧ (s.fileAtIdle cause).pocket = s.pocket ∧ (s.fileAtIdle cause).printer =
    s.printer ∧ (s.fileAtIdle cause).router = s.router ∧ (s.fileAtIdle cause).drive = s.drive ∧ (s.fileAtIdle
    cause).protect = s.protect ∧ (s.fileAtIdle cause).tally = s.tally ∧ (s.fileAtIdle cause).plan = s.plan ∧
    (s.fileAtIdle cause).planValid = s.planValid ∧ (s.fileAtIdle cause).openSeq = s.openSeq ∧ (s.fileAtIdle
    cause).run.state = s.run.state ∧ (s.fileAtIdle cause).run.request = s.run.request ∧ (s.fileAtIdle
    cause).run.hold.endFull = s.run.hold.endFull ∧ (s.fileAtIdle cause).run.hold.mergeGap = s.run.hold.mergeGap ∧
    (s.fileAtIdle cause).port.pageAddress = s.port.pageAddress ∧ (s.fileAtIdle cause).port.enable = s.port.enable ∧
    (s.fileAtIdle cause).port.scanTap = s.port.scanTap ∧ (s.fileAtIdle cause).port.masked = s.port.masked ∧
    (s.fileAtIdle cause).port.scanTimer = s.port.scanTimer ∧
    (s.fileAtIdle cause).port.scanLeft = s.port.scanLeft ∧ (s.fileAtIdle cause).port.readData = s.port.readData := by
  simp only [State.fileAtIdle]
  (repeat' split) <;> simp

@[simp] theorem State.writeJamRecord_frame (s : State) :
    s.writeJamRecord.pending = s.pending ∧ s.writeJamRecord.now = s.now ∧ s.writeJamRecord.position = s.position ∧
    s.writeJamRecord.lastStep = s.lastStep ∧ s.writeJamRecord.samples = s.samples ∧ s.writeJamRecord.cellUnit =
    s.cellUnit ∧ s.writeJamRecord.admission = s.admission ∧ s.writeJamRecord.records = s.records ∧
    s.writeJamRecord.scan = s.scan ∧ s.writeJamRecord.schedule = s.schedule ∧ s.writeJamRecord.gates = s.gates ∧
    s.writeJamRecord.pocket = s.pocket ∧ s.writeJamRecord.printer = s.printer ∧ s.writeJamRecord.router = s.router ∧
    s.writeJamRecord.drive = s.drive ∧ s.writeJamRecord.run = s.run ∧ s.writeJamRecord.tally = s.tally ∧
    s.writeJamRecord.reports = s.reports ∧ s.writeJamRecord.port = s.port ∧ s.writeJamRecord.plan = s.plan ∧
    s.writeJamRecord.planValid = s.planValid ∧ s.writeJamRecord.openSeq = s.openSeq ∧ s.writeJamRecord.protect.latch
    = s.protect.latch ∧ s.writeJamRecord.protect.guardIsOpen = s.protect.guardIsOpen ∧
    s.writeJamRecord.protect.cause = s.protect.cause := by
  simp only [State.writeJamRecord]
  simp

@[simp] theorem State.writeRecordIfDue_frame (s : State) :
    s.writeRecordIfDue.pending = s.pending ∧ s.writeRecordIfDue.now = s.now ∧ s.writeRecordIfDue.position =
    s.position ∧ s.writeRecordIfDue.lastStep = s.lastStep ∧ s.writeRecordIfDue.samples = s.samples ∧
    s.writeRecordIfDue.cellUnit = s.cellUnit ∧ s.writeRecordIfDue.admission = s.admission ∧
    s.writeRecordIfDue.records = s.records ∧ s.writeRecordIfDue.scan = s.scan ∧ s.writeRecordIfDue.schedule =
    s.schedule ∧ s.writeRecordIfDue.gates = s.gates ∧ s.writeRecordIfDue.pocket = s.pocket ∧
    s.writeRecordIfDue.printer = s.printer ∧ s.writeRecordIfDue.router = s.router ∧ s.writeRecordIfDue.drive =
    s.drive ∧ s.writeRecordIfDue.run = s.run ∧ s.writeRecordIfDue.tally = s.tally ∧ s.writeRecordIfDue.reports =
    s.reports ∧ s.writeRecordIfDue.port = s.port ∧ s.writeRecordIfDue.plan = s.plan ∧ s.writeRecordIfDue.planValid =
    s.planValid ∧ s.writeRecordIfDue.openSeq = s.openSeq ∧ s.writeRecordIfDue.protect.latch = s.protect.latch ∧
    s.writeRecordIfDue.protect.guardIsOpen = s.protect.guardIsOpen ∧ s.writeRecordIfDue.protect.cause =
    s.protect.cause := by
  simp only [State.writeRecordIfDue]
  (repeat' split) <;> simp

@[simp] theorem State.rewriteRecordIfDue_frame (s : State) :
    s.rewriteRecordIfDue.pending = s.pending ∧ s.rewriteRecordIfDue.now = s.now ∧ s.rewriteRecordIfDue.position =
    s.position ∧ s.rewriteRecordIfDue.lastStep = s.lastStep ∧ s.rewriteRecordIfDue.samples = s.samples ∧
    s.rewriteRecordIfDue.cellUnit = s.cellUnit ∧ s.rewriteRecordIfDue.admission = s.admission ∧
    s.rewriteRecordIfDue.records = s.records ∧ s.rewriteRecordIfDue.scan = s.scan ∧ s.rewriteRecordIfDue.schedule =
    s.schedule ∧ s.rewriteRecordIfDue.gates = s.gates ∧ s.rewriteRecordIfDue.pocket = s.pocket ∧
    s.rewriteRecordIfDue.printer = s.printer ∧ s.rewriteRecordIfDue.router = s.router ∧ s.rewriteRecordIfDue.drive =
    s.drive ∧ s.rewriteRecordIfDue.run = s.run ∧ s.rewriteRecordIfDue.tally = s.tally ∧ s.rewriteRecordIfDue.reports
    = s.reports ∧ s.rewriteRecordIfDue.port = s.port ∧ s.rewriteRecordIfDue.plan = s.plan ∧
    s.rewriteRecordIfDue.planValid = s.planValid ∧ s.rewriteRecordIfDue.openSeq = s.openSeq ∧
    s.rewriteRecordIfDue.protect.latch = s.protect.latch ∧ s.rewriteRecordIfDue.protect.guardIsOpen =
    s.protect.guardIsOpen ∧ s.rewriteRecordIfDue.protect.cause = s.protect.cause := by
  simp only [State.rewriteRecordIfDue]
  (repeat' split) <;> simp

@[simp] theorem State.furtherTrip_frame (s : State) :
    s.furtherTrip.pending = s.pending ∧ s.furtherTrip.now = s.now ∧ s.furtherTrip.position = s.position ∧
    s.furtherTrip.lastStep = s.lastStep ∧ s.furtherTrip.samples = s.samples ∧ s.furtherTrip.cellUnit = s.cellUnit ∧
    s.furtherTrip.admission = s.admission ∧ s.furtherTrip.records = s.records ∧ s.furtherTrip.scan = s.scan ∧
    s.furtherTrip.schedule = s.schedule ∧ s.furtherTrip.gates = s.gates ∧ s.furtherTrip.pocket = s.pocket ∧
    s.furtherTrip.printer = s.printer ∧ s.furtherTrip.router = s.router ∧ s.furtherTrip.run = s.run ∧
    s.furtherTrip.tally = s.tally ∧ s.furtherTrip.reports = s.reports ∧ s.furtherTrip.plan = s.plan ∧
    s.furtherTrip.planValid = s.planValid ∧ s.furtherTrip.openSeq = s.openSeq ∧ s.furtherTrip.protect.latch =
    s.protect.latch ∧ s.furtherTrip.protect.guardIsOpen = s.protect.guardIsOpen ∧ s.furtherTrip.protect.cause =
    s.protect.cause ∧ s.furtherTrip.drive.still = s.drive.still ∧ s.furtherTrip.drive.stillTimer =
    s.drive.stillTimer ∧ s.furtherTrip.port.pageAddress = s.port.pageAddress ∧ s.furtherTrip.port.enable =
    s.port.enable ∧ s.furtherTrip.port.scanTap = s.port.scanTap ∧ s.furtherTrip.port.masked = s.port.masked ∧
    s.furtherTrip.port.scanTimer = s.port.scanTimer ∧
    s.furtherTrip.port.scanLeft = s.port.scanLeft ∧ s.furtherTrip.port.readData = s.port.readData := by
  simp only [State.furtherTrip]
  simp

@[simp] theorem State.openGuard_frame (s : State) :
    s.openGuard.pending = s.pending ∧ s.openGuard.now = s.now ∧ s.openGuard.position = s.position ∧
    s.openGuard.lastStep = s.lastStep ∧ s.openGuard.samples = s.samples ∧ s.openGuard.cellUnit = s.cellUnit ∧
    s.openGuard.admission = s.admission ∧ s.openGuard.schedule = s.schedule ∧ s.openGuard.router = s.router ∧
    s.openGuard.reports = s.reports ∧ s.openGuard.plan = s.plan ∧ s.openGuard.planValid = s.planValid ∧
    s.openGuard.openSeq = s.openSeq ∧ s.openGuard.run.hold.endFull = s.run.hold.endFull ∧
    s.openGuard.run.hold.mergeGap = s.run.hold.mergeGap ∧ s.openGuard.pocket.state = s.pocket.state ∧
    s.openGuard.pocket.occupant = s.pocket.occupant ∧ s.openGuard.pocket.mergeHold = s.pocket.mergeHold ∧
    s.openGuard.printer.slots = s.printer.slots ∧ s.openGuard.printer.active = s.printer.active ∧
    s.openGuard.printer.waiting = s.printer.waiting ∧ s.openGuard.printer.banks = s.printer.banks ∧
    s.openGuard.drive.still = s.drive.still ∧ s.openGuard.drive.stillTimer = s.drive.stillTimer ∧
    s.openGuard.port.pageAddress = s.port.pageAddress ∧ s.openGuard.port.enable = s.port.enable ∧
    s.openGuard.port.scanTap = s.port.scanTap ∧ s.openGuard.port.masked = s.port.masked ∧ s.openGuard.port.scanTimer
    = s.port.scanTimer ∧
    s.openGuard.port.scanLeft = s.port.scanLeft ∧ s.openGuard.port.readData = s.port.readData ∧
    s.openGuard.tally.pieces = s.tally.pieces ∧ s.openGuard.tally.snapshot = s.tally.snapshot := by
  simp only [State.openGuard]
  (repeat' split) <;> simp

@[simp] theorem State.endCrawl_frame (s : State) :
    s.endCrawl.pending = s.pending ∧ s.endCrawl.now = s.now ∧ s.endCrawl.position = s.position ∧ s.endCrawl.lastStep
    = s.lastStep ∧ s.endCrawl.samples = s.samples ∧ s.endCrawl.cellUnit = s.cellUnit ∧ s.endCrawl.admission =
    s.admission ∧ s.endCrawl.records = s.records ∧ s.endCrawl.scan = s.scan ∧ s.endCrawl.schedule = s.schedule ∧
    s.endCrawl.gates = s.gates ∧ s.endCrawl.pocket = s.pocket ∧ s.endCrawl.printer = s.printer ∧ s.endCrawl.router =
    s.router ∧ s.endCrawl.run = s.run ∧ s.endCrawl.tally = s.tally ∧ s.endCrawl.reports = s.reports ∧
    s.endCrawl.port = s.port ∧ s.endCrawl.plan = s.plan ∧ s.endCrawl.planValid = s.planValid ∧ s.endCrawl.mem =
    s.mem ∧ s.endCrawl.openSeq = s.openSeq ∧ s.endCrawl.protect.latch = s.protect.latch ∧
    s.endCrawl.protect.guardIsOpen = s.protect.guardIsOpen ∧ s.endCrawl.protect.cause = s.protect.cause ∧
    s.endCrawl.drive.still = s.drive.still ∧ s.endCrawl.drive.stillTimer = s.drive.stillTimer := by
  simp only [State.endCrawl]
  (repeat' split) <;> simp

@[simp] theorem State.takeCell_frame (s : State) (cell : Fin 8) :
    (s.takeCell cell).pending = s.pending ∧ (s.takeCell cell).now = s.now ∧ (s.takeCell cell).position = s.position
    ∧ (s.takeCell cell).lastStep = s.lastStep ∧ (s.takeCell cell).samples = s.samples ∧ (s.takeCell cell).cellUnit =
    s.cellUnit ∧ (s.takeCell cell).admission = s.admission ∧ (s.takeCell cell).records = s.records ∧ (s.takeCell
    cell).scan = s.scan ∧ (s.takeCell cell).schedule = s.schedule ∧ (s.takeCell cell).gates = s.gates ∧ (s.takeCell
    cell).pocket = s.pocket ∧ (s.takeCell cell).printer = s.printer ∧ (s.takeCell cell).router = s.router ∧
    (s.takeCell cell).drive = s.drive ∧ (s.takeCell cell).run = s.run ∧ (s.takeCell cell).protect = s.protect ∧
    (s.takeCell cell).tally = s.tally ∧ (s.takeCell cell).reports = s.reports ∧ (s.takeCell cell).plan = s.plan ∧
    (s.takeCell cell).planValid = s.planValid ∧ (s.takeCell cell).openSeq = s.openSeq ∧ (s.takeCell
    cell).port.pageAddress = s.port.pageAddress ∧ (s.takeCell cell).port.enable = s.port.enable ∧ (s.takeCell
    cell).port.scanTap = s.port.scanTap ∧ (s.takeCell cell).port.masked = s.port.masked ∧ (s.takeCell
    cell).port.scanTimer = s.port.scanTimer ∧
    (s.takeCell cell).port.scanLeft = s.port.scanLeft ∧ (s.takeCell cell).port.readData = s.port.readData := by
  simp only [State.takeCell]
  simp

@[simp] theorem State.strandAll_frame (s : State) :
    s.strandAll.pending = s.pending ∧ s.strandAll.now = s.now ∧ s.strandAll.position = s.position ∧
    s.strandAll.lastStep = s.lastStep ∧ s.strandAll.samples = s.samples ∧ s.strandAll.admission = s.admission ∧
    s.strandAll.router = s.router ∧ s.strandAll.drive = s.drive ∧ s.strandAll.protect = s.protect ∧ s.strandAll.plan
    = s.plan ∧ s.strandAll.planValid = s.planValid ∧ s.strandAll.mem = s.mem ∧ s.strandAll.openSeq = s.openSeq ∧
    s.strandAll.run.state = s.run.state ∧ s.strandAll.run.request = s.run.request ∧ s.strandAll.run.hold.endFull =
    s.run.hold.endFull ∧ s.strandAll.printer.active = s.printer.active ∧ s.strandAll.printer.waiting =
    s.printer.waiting ∧ s.strandAll.printer.banks = s.printer.banks ∧ s.strandAll.printer.head = s.printer.head ∧
    s.strandAll.reports.tray = s.reports.tray ∧ s.strandAll.reports.starved = s.reports.starved ∧
    s.strandAll.reports.closeDue = s.reports.closeDue ∧ s.strandAll.port.pageAddress = s.port.pageAddress ∧
    s.strandAll.port.enable = s.port.enable ∧ s.strandAll.port.scanTap = s.port.scanTap ∧ s.strandAll.port.masked =
    s.port.masked ∧ s.strandAll.port.scanTimer = s.port.scanTimer ∧
    s.strandAll.port.scanLeft = s.port.scanLeft ∧ s.strandAll.port.readData = s.port.readData ∧ s.strandAll.tally.snapshot = s.tally.snapshot := by
  simp only [State.strandAll]
  exact ⟨foldl_keep _ (fun t : State => t.pending) (by intros; simp) _ _,
    foldl_keep _ (fun t : State => t.now) (by intros; simp) _ _,
    foldl_keep _ (fun t : State => t.position) (by intros; simp) _ _,
    foldl_keep _ (fun t : State => t.lastStep) (by intros; simp) _ _,
    foldl_keep _ (fun t : State => t.samples) (by intros; simp) _ _,
    foldl_keep _ (fun t : State => t.admission) (by intros; simp) _ _,
    foldl_keep _ (fun t : State => t.router) (by intros; simp) _ _,
    foldl_keep _ (fun t : State => t.drive) (by intros; simp) _ _,
    foldl_keep _ (fun t : State => t.protect) (by intros; simp) _ _,
    foldl_keep _ (fun t : State => t.plan) (by intros; simp) _ _,
    foldl_keep _ (fun t : State => t.planValid) (by intros; simp) _ _,
    foldl_keep _ (fun t : State => t.mem) (by intros; simp) _ _,
    foldl_keep _ (fun t : State => t.openSeq) (by intros; simp) _ _,
    foldl_keep _ (fun t : State => t.run.state) (by intros; simp) _ _,
    foldl_keep _ (fun t : State => t.run.request) (by intros; simp) _ _,
    foldl_keep _ (fun t : State => t.run.hold.endFull) (by intros; simp) _ _,
    foldl_keep _ (fun t : State => t.printer.active) (by intros; simp) _ _,
    foldl_keep _ (fun t : State => t.printer.waiting) (by intros; simp) _ _,
    foldl_keep _ (fun t : State => t.printer.banks) (by intros; simp) _ _,
    foldl_keep _ (fun t : State => t.printer.head) (by intros; simp) _ _,
    foldl_keep _ (fun t : State => t.reports.tray) (by intros; simp) _ _,
    foldl_keep _ (fun t : State => t.reports.starved) (by intros; simp) _ _,
    foldl_keep _ (fun t : State => t.reports.closeDue) (by intros; simp) _ _,
    foldl_keep _ (fun t : State => t.port.pageAddress) (by intros; simp) _ _,
    foldl_keep _ (fun t : State => t.port.enable) (by intros; simp) _ _,
    foldl_keep _ (fun t : State => t.port.scanTap) (by intros; simp) _ _,
    foldl_keep _ (fun t : State => t.port.masked) (by intros; simp) _ _,
    foldl_keep _ (fun t : State => t.port.scanTimer) (by intros; simp) _ _,
    foldl_keep _ (fun t : State => t.port.scanLeft) (by intros; simp) _ _,
    foldl_keep _ (fun t : State => t.port.readData) (by intros; simp) _ _,
    foldl_keep _ (fun t : State => t.tally.snapshot) (by intros; simp) _ _⟩

@[simp] theorem State.settleIdle_frame (s : State) (stranded : Nat) (cause : CloseCause) :
    (s.settleIdle stranded cause).pending = s.pending ∧ (s.settleIdle stranded cause).now = s.now ∧ (s.settleIdle
    stranded cause).position = s.position ∧ (s.settleIdle stranded cause).lastStep = s.lastStep ∧ (s.settleIdle
    stranded cause).samples = s.samples ∧ (s.settleIdle stranded cause).admission = s.admission ∧ (s.settleIdle
    stranded cause).records = s.records ∧ (s.settleIdle stranded cause).scan = s.scan ∧ (s.settleIdle stranded
    cause).schedule = s.schedule ∧ (s.settleIdle stranded cause).gates = s.gates ∧ (s.settleIdle stranded
    cause).pocket = s.pocket ∧ (s.settleIdle stranded cause).printer = s.printer ∧ (s.settleIdle stranded
    cause).router = s.router ∧ (s.settleIdle stranded cause).protect = s.protect ∧ (s.settleIdle stranded
    cause).tally = s.tally ∧ (s.settleIdle stranded cause).plan = s.plan ∧ (s.settleIdle stranded cause).planValid =
    s.planValid ∧ (s.settleIdle stranded cause).openSeq = s.openSeq ∧ (s.settleIdle stranded cause).run.state =
    s.run.state ∧ (s.settleIdle stranded cause).run.hold.endFull = s.run.hold.endFull ∧ (s.settleIdle stranded
    cause).run.hold.mergeGap = s.run.hold.mergeGap ∧ (s.settleIdle stranded cause).drive.still = s.drive.still ∧
    (s.settleIdle stranded cause).drive.stillTimer = s.drive.stillTimer ∧ (s.settleIdle stranded
    cause).port.pageAddress = s.port.pageAddress ∧ (s.settleIdle stranded cause).port.enable = s.port.enable ∧
    (s.settleIdle stranded cause).port.scanTap = s.port.scanTap ∧ (s.settleIdle stranded cause).port.masked =
    s.port.masked ∧ (s.settleIdle stranded cause).port.scanTimer = s.port.scanTimer ∧
    (s.settleIdle stranded cause).port.scanLeft = s.port.scanLeft ∧ (s.settleIdle stranded cause).port.readData = s.port.readData ∧
    (s.settleIdle stranded cause).cellUnit.cells = s.cellUnit.cells := by
  simp only [State.settleIdle]
  simp

@[simp] theorem State.enterIdle_frame (s : State) :
    s.enterIdle.pending = s.pending ∧ s.enterIdle.now = s.now ∧ s.enterIdle.position = s.position ∧
    s.enterIdle.lastStep = s.lastStep ∧ s.enterIdle.samples = s.samples ∧ s.enterIdle.admission = s.admission ∧
    s.enterIdle.router = s.router ∧ s.enterIdle.protect = s.protect ∧ s.enterIdle.plan = s.plan ∧
    s.enterIdle.planValid = s.planValid ∧ s.enterIdle.openSeq = s.openSeq ∧ s.enterIdle.run.hold.endFull =
    s.run.hold.endFull ∧ s.enterIdle.printer.active = s.printer.active ∧ s.enterIdle.printer.waiting =
    s.printer.waiting ∧ s.enterIdle.printer.banks = s.printer.banks ∧ s.enterIdle.printer.head = s.printer.head ∧
    s.enterIdle.drive.still = s.drive.still ∧ s.enterIdle.drive.stillTimer = s.drive.stillTimer ∧
    s.enterIdle.port.pageAddress = s.port.pageAddress ∧ s.enterIdle.port.enable = s.port.enable ∧
    s.enterIdle.port.scanTap = s.port.scanTap ∧ s.enterIdle.port.masked = s.port.masked ∧ s.enterIdle.port.scanTimer
    = s.port.scanTimer ∧
    s.enterIdle.port.scanLeft = s.port.scanLeft ∧ s.enterIdle.port.readData = s.port.readData ∧
    s.enterIdle.tally.snapshot = s.tally.snapshot := by
  simp only [State.enterIdle]
  simp

@[simp] theorem State.stoppingTest_frame (s : State) :
    s.stoppingTest.pending = s.pending ∧ s.stoppingTest.now = s.now ∧ s.stoppingTest.position = s.position ∧
    s.stoppingTest.lastStep = s.lastStep ∧ s.stoppingTest.samples = s.samples ∧ s.stoppingTest.admission =
    s.admission ∧ s.stoppingTest.router = s.router ∧ s.stoppingTest.protect = s.protect ∧ s.stoppingTest.plan =
    s.plan ∧ s.stoppingTest.planValid = s.planValid ∧ s.stoppingTest.openSeq = s.openSeq ∧
    s.stoppingTest.run.hold.endFull = s.run.hold.endFull ∧ s.stoppingTest.printer.active = s.printer.active ∧
    s.stoppingTest.printer.waiting = s.printer.waiting ∧ s.stoppingTest.printer.banks = s.printer.banks ∧
    s.stoppingTest.printer.head = s.printer.head ∧ s.stoppingTest.drive.still = s.drive.still ∧
    s.stoppingTest.drive.stillTimer = s.drive.stillTimer ∧ s.stoppingTest.port.pageAddress = s.port.pageAddress ∧
    s.stoppingTest.port.enable = s.port.enable ∧ s.stoppingTest.port.scanTap = s.port.scanTap ∧
    s.stoppingTest.port.masked = s.port.masked ∧ s.stoppingTest.port.scanTimer = s.port.scanTimer ∧
    s.stoppingTest.port.scanLeft = s.port.scanLeft ∧
    s.stoppingTest.port.readData = s.port.readData ∧
    s.stoppingTest.tally.snapshot = s.tally.snapshot := by
  simp only [State.stoppingTest]
  (repeat' split) <;> simp

@[simp] theorem State.enterStopping_frame (s : State) :
    s.enterStopping.pending = s.pending ∧ s.enterStopping.now = s.now ∧ s.enterStopping.position = s.position ∧
    s.enterStopping.lastStep = s.lastStep ∧ s.enterStopping.samples = s.samples ∧ s.enterStopping.admission =
    s.admission ∧ s.enterStopping.router = s.router ∧ s.enterStopping.protect = s.protect ∧ s.enterStopping.plan =
    s.plan ∧ s.enterStopping.planValid = s.planValid ∧ s.enterStopping.openSeq = s.openSeq ∧
    s.enterStopping.run.hold.endFull = s.run.hold.endFull ∧ s.enterStopping.printer.active = s.printer.active ∧
    s.enterStopping.printer.waiting = s.printer.waiting ∧ s.enterStopping.printer.banks = s.printer.banks ∧
    s.enterStopping.printer.head = s.printer.head ∧ s.enterStopping.drive.still = s.drive.still ∧
    s.enterStopping.drive.stillTimer = s.drive.stillTimer ∧ s.enterStopping.port.pageAddress = s.port.pageAddress ∧
    s.enterStopping.port.enable = s.port.enable ∧ s.enterStopping.port.scanTap = s.port.scanTap ∧
    s.enterStopping.port.masked = s.port.masked ∧ s.enterStopping.port.scanTimer = s.port.scanTimer ∧
    s.enterStopping.port.scanLeft = s.port.scanLeft ∧
    s.enterStopping.port.readData = s.port.readData ∧
    s.enterStopping.tally.snapshot = s.tally.snapshot := by
  simp only [State.enterStopping]
  simp

@[simp] theorem State.drainTest_frame (s : State) :
    s.drainTest.pending = s.pending ∧ s.drainTest.now = s.now ∧ s.drainTest.position = s.position ∧
    s.drainTest.lastStep = s.lastStep ∧ s.drainTest.samples = s.samples ∧ s.drainTest.admission = s.admission ∧
    s.drainTest.router = s.router ∧ s.drainTest.protect = s.protect ∧ s.drainTest.plan = s.plan ∧
    s.drainTest.planValid = s.planValid ∧ s.drainTest.openSeq = s.openSeq ∧ s.drainTest.run.hold.endFull =
    s.run.hold.endFull ∧ s.drainTest.printer.active = s.printer.active ∧ s.drainTest.printer.waiting =
    s.printer.waiting ∧ s.drainTest.printer.banks = s.printer.banks ∧ s.drainTest.printer.head = s.printer.head ∧
    s.drainTest.drive.still = s.drive.still ∧ s.drainTest.drive.stillTimer = s.drive.stillTimer ∧
    s.drainTest.port.pageAddress = s.port.pageAddress ∧ s.drainTest.port.enable = s.port.enable ∧
    s.drainTest.port.scanTap = s.port.scanTap ∧ s.drainTest.port.masked = s.port.masked ∧ s.drainTest.port.scanTimer
    = s.port.scanTimer ∧
    s.drainTest.port.scanLeft = s.port.scanLeft ∧ s.drainTest.port.readData = s.port.readData ∧
    s.drainTest.tally.snapshot = s.tally.snapshot := by
  simp only [State.drainTest]
  (repeat' split) <;> simp

@[simp] theorem State.targetReached_frame (s : State) (v : Nat) :
    (s.targetReached v).pending = s.pending ∧ (s.targetReached v).now = s.now ∧ (s.targetReached v).position =
    s.position ∧ (s.targetReached v).lastStep = s.lastStep ∧ (s.targetReached v).samples = s.samples ∧
    (s.targetReached v).admission = s.admission ∧ (s.targetReached v).router = s.router ∧ (s.targetReached
    v).protect = s.protect ∧ (s.targetReached v).plan = s.plan ∧ (s.targetReached v).planValid = s.planValid ∧
    (s.targetReached v).openSeq = s.openSeq ∧ (s.targetReached v).run.hold.endFull = s.run.hold.endFull ∧
    (s.targetReached v).printer.active = s.printer.active ∧ (s.targetReached v).printer.waiting = s.printer.waiting
    ∧ (s.targetReached v).printer.banks = s.printer.banks ∧ (s.targetReached v).printer.head = s.printer.head ∧
    (s.targetReached v).drive.still = s.drive.still ∧ (s.targetReached v).drive.stillTimer = s.drive.stillTimer ∧
    (s.targetReached v).port.pageAddress = s.port.pageAddress ∧ (s.targetReached v).port.enable = s.port.enable ∧
    (s.targetReached v).port.scanTap = s.port.scanTap ∧ (s.targetReached v).port.masked = s.port.masked ∧
    (s.targetReached v).port.scanTimer = s.port.scanTimer ∧
    (s.targetReached v).port.scanLeft = s.port.scanLeft ∧ (s.targetReached v).port.readData = s.port.readData ∧ (s.targetReached v).tally.snapshot = s.tally.snapshot := by
  simp only [State.targetReached]
  (repeat' split) <;> simp

/-- A ramp tick moves the drive reference and nothing else (R122). -/
@[simp] theorem State.tickRamp_frame (s : State) :
    s.tickRamp.pending = s.pending ∧ s.tickRamp.now = s.now ∧ s.tickRamp.position = s.position ∧
    s.tickRamp.lastStep = s.lastStep ∧ s.tickRamp.samples = s.samples ∧ s.tickRamp.cellUnit = s.cellUnit ∧
    s.tickRamp.admission = s.admission ∧ s.tickRamp.records = s.records ∧ s.tickRamp.scan = s.scan ∧
    s.tickRamp.schedule = s.schedule ∧ s.tickRamp.gates = s.gates ∧ s.tickRamp.pocket = s.pocket ∧
    s.tickRamp.printer = s.printer ∧ s.tickRamp.router = s.router ∧ s.tickRamp.run = s.run ∧ s.tickRamp.protect = s.protect ∧
    s.tickRamp.tally = s.tally ∧ s.tickRamp.reports = s.reports ∧ s.tickRamp.port = s.port ∧ s.tickRamp.plan = s.plan ∧
    s.tickRamp.planValid = s.planValid ∧ s.tickRamp.mem = s.mem ∧ s.tickRamp.openSeq = s.openSeq ∧
    s.tickRamp.drive.target = s.drive.target ∧ s.tickRamp.drive.still = s.drive.still ∧
    s.tickRamp.drive.stillTimer = s.drive.stillTimer := by
  simp only [State.tickRamp]
  (repeat' split) <;> simp

@[simp] theorem State.takeReport_frame (s : State) :
    s.takeReport.pending = s.pending ∧ s.takeReport.now = s.now ∧ s.takeReport.position = s.position ∧
    s.takeReport.lastStep = s.lastStep ∧ s.takeReport.samples = s.samples ∧ s.takeReport.admission = s.admission ∧
    s.takeReport.router = s.router ∧ s.takeReport.protect = s.protect ∧ s.takeReport.plan = s.plan ∧
    s.takeReport.planValid = s.planValid ∧ s.takeReport.openSeq = s.openSeq ∧
    s.takeReport.run.hold.endFull = s.run.hold.endFull ∧ s.takeReport.printer.active = s.printer.active ∧
    s.takeReport.printer.waiting = s.printer.waiting ∧ s.takeReport.printer.banks = s.printer.banks ∧
    s.takeReport.printer.head = s.printer.head ∧ s.takeReport.drive.still = s.drive.still ∧
    s.takeReport.drive.stillTimer = s.drive.stillTimer ∧ s.takeReport.port.pageAddress = s.port.pageAddress ∧
    s.takeReport.port.enable = s.port.enable ∧ s.takeReport.port.scanTap = s.port.scanTap ∧
    s.takeReport.port.masked = s.port.masked ∧ s.takeReport.port.scanTimer = s.port.scanTimer ∧
    s.takeReport.port.scanLeft = s.port.scanLeft ∧ s.takeReport.port.readData = s.port.readData ∧
    s.takeReport.tally.snapshot = s.tally.snapshot := by
  simp only [State.takeReport]
  (repeat' split) <;> simp

@[simp] theorem State.beStill_frame (s : State) :
    s.beStill.pending = s.pending ∧ s.beStill.now = s.now ∧ s.beStill.position = s.position ∧ s.beStill.lastStep =
    s.lastStep ∧ s.beStill.samples = s.samples ∧ s.beStill.admission = s.admission ∧ s.beStill.router = s.router ∧
    s.beStill.plan = s.plan ∧ s.beStill.planValid = s.planValid ∧ s.beStill.openSeq = s.openSeq ∧
    s.beStill.run.hold.endFull = s.run.hold.endFull ∧ s.beStill.protect.latch = s.protect.latch ∧
    s.beStill.protect.guardIsOpen = s.protect.guardIsOpen ∧ s.beStill.protect.cause = s.protect.cause ∧
    s.beStill.printer.active = s.printer.active ∧ s.beStill.printer.waiting = s.printer.waiting ∧
    s.beStill.printer.banks = s.printer.banks ∧ s.beStill.printer.head = s.printer.head ∧ s.beStill.port.pageAddress
    = s.port.pageAddress ∧ s.beStill.port.enable = s.port.enable ∧ s.beStill.port.scanTap = s.port.scanTap ∧
    s.beStill.port.masked = s.port.masked ∧ s.beStill.port.scanTimer = s.port.scanTimer ∧
    s.beStill.port.scanLeft = s.port.scanLeft ∧ s.beStill.port.readData = s.port.readData ∧ s.beStill.tally.snapshot = s.tally.snapshot := by
  simp only [State.beStill]
  simp

@[simp] theorem State.remeasureStill_frame (s : State) :
    s.remeasureStill.pending = s.pending ∧ s.remeasureStill.now = s.now ∧ s.remeasureStill.position = s.position ∧
    s.remeasureStill.lastStep = s.lastStep ∧ s.remeasureStill.samples = s.samples ∧ s.remeasureStill.admission =
    s.admission ∧ s.remeasureStill.router = s.router ∧ s.remeasureStill.plan = s.plan ∧ s.remeasureStill.planValid =
    s.planValid ∧ s.remeasureStill.openSeq = s.openSeq ∧ s.remeasureStill.run.hold.endFull = s.run.hold.endFull ∧
    s.remeasureStill.protect.latch = s.protect.latch ∧ s.remeasureStill.protect.guardIsOpen = s.protect.guardIsOpen
    ∧ s.remeasureStill.protect.cause = s.protect.cause ∧ s.remeasureStill.printer.active = s.printer.active ∧
    s.remeasureStill.printer.waiting = s.printer.waiting ∧ s.remeasureStill.printer.banks = s.printer.banks ∧
    s.remeasureStill.printer.head = s.printer.head ∧ s.remeasureStill.port.pageAddress = s.port.pageAddress ∧
    s.remeasureStill.port.enable = s.port.enable ∧ s.remeasureStill.port.scanTap = s.port.scanTap ∧
    s.remeasureStill.port.masked = s.port.masked ∧ s.remeasureStill.port.scanTimer = s.port.scanTimer ∧
    s.remeasureStill.port.scanLeft = s.port.scanLeft ∧
    s.remeasureStill.port.readData = s.port.readData ∧
    s.remeasureStill.tally.snapshot = s.tally.snapshot := by
  simp only [State.remeasureStill]
  (repeat' split) <;> simp

@[simp] theorem State.acceptStart_frame (s : State) (cell : Fin 8) (tag : Word) :
    (s.acceptStart cell tag).pending = s.pending ∧ (s.acceptStart cell tag).now = s.now ∧ (s.acceptStart cell
    tag).position = s.position ∧ (s.acceptStart cell tag).lastStep = s.lastStep ∧ (s.acceptStart cell tag).samples =
    s.samples ∧ (s.acceptStart cell tag).router = s.router ∧ (s.acceptStart cell tag).protect = s.protect ∧
    (s.acceptStart cell tag).plan = s.plan ∧ (s.acceptStart cell tag).planValid = s.planValid ∧ (s.acceptStart cell
    tag).openSeq = s.openSeq ∧ (s.acceptStart cell tag).run.hold.endFull = s.run.hold.endFull ∧ (s.acceptStart cell
    tag).printer.active = s.printer.active ∧ (s.acceptStart cell tag).printer.waiting = s.printer.waiting ∧
    (s.acceptStart cell tag).printer.banks = s.printer.banks ∧ (s.acceptStart cell tag).printer.head =
    s.printer.head ∧ (s.acceptStart cell tag).drive.still = s.drive.still ∧ (s.acceptStart cell
    tag).drive.stillTimer = s.drive.stillTimer ∧ (s.acceptStart cell tag).port.pageAddress = s.port.pageAddress ∧
    (s.acceptStart cell tag).port.enable = s.port.enable ∧ (s.acceptStart cell tag).port.scanTap = s.port.scanTap ∧
    (s.acceptStart cell tag).port.masked = s.port.masked ∧ (s.acceptStart cell tag).port.scanTimer =
    s.port.scanTimer ∧
    (s.acceptStart cell tag).port.scanLeft = s.port.scanLeft ∧ (s.acceptStart cell tag).port.readData
    = s.port.readData ∧ (s.acceptStart cell tag).tally.snapshot = s.tally.snapshot ∧ (s.acceptStart cell
    tag).admission.nextPiece = s.admission.nextPiece := by
  simp only [State.acceptStart]
  (repeat' split) <;> simp

@[simp] theorem State.decideStart_frame (s : State) (cell : Fin 8) (tag : Word) :
    (s.decideStart cell tag).pending = s.pending ∧ (s.decideStart cell tag).now = s.now ∧ (s.decideStart cell
    tag).position = s.position ∧ (s.decideStart cell tag).lastStep = s.lastStep ∧ (s.decideStart cell tag).samples =
    s.samples ∧ (s.decideStart cell tag).router = s.router ∧ (s.decideStart cell tag).protect = s.protect ∧
    (s.decideStart cell tag).plan = s.plan ∧ (s.decideStart cell tag).planValid = s.planValid ∧ (s.decideStart cell
    tag).openSeq = s.openSeq ∧ (s.decideStart cell tag).run.hold.endFull = s.run.hold.endFull ∧ (s.decideStart cell
    tag).printer.active = s.printer.active ∧ (s.decideStart cell tag).printer.waiting = s.printer.waiting ∧
    (s.decideStart cell tag).printer.banks = s.printer.banks ∧ (s.decideStart cell tag).printer.head =
    s.printer.head ∧ (s.decideStart cell tag).drive.still = s.drive.still ∧ (s.decideStart cell
    tag).drive.stillTimer = s.drive.stillTimer ∧ (s.decideStart cell tag).port.pageAddress = s.port.pageAddress ∧
    (s.decideStart cell tag).port.enable = s.port.enable ∧ (s.decideStart cell tag).port.scanTap = s.port.scanTap ∧
    (s.decideStart cell tag).port.masked = s.port.masked ∧ (s.decideStart cell tag).port.scanTimer =
    s.port.scanTimer ∧
    (s.decideStart cell tag).port.scanLeft = s.port.scanLeft ∧ (s.decideStart cell tag).port.readData
    = s.port.readData ∧ (s.decideStart cell tag).tally.snapshot = s.tally.snapshot ∧ (s.decideStart cell
    tag).admission.nextPiece = s.admission.nextPiece := by
  simp only [State.decideStart]
  (repeat' split) <;> simp

@[simp] theorem State.decideDrain_frame (s : State) (cell : Fin 8) (tag : Word) :
    (s.decideDrain cell tag).pending = s.pending ∧ (s.decideDrain cell tag).now = s.now ∧ (s.decideDrain cell
    tag).position = s.position ∧ (s.decideDrain cell tag).lastStep = s.lastStep ∧ (s.decideDrain cell tag).samples =
    s.samples ∧ (s.decideDrain cell tag).admission = s.admission ∧ (s.decideDrain cell tag).router = s.router ∧
    (s.decideDrain cell tag).protect = s.protect ∧ (s.decideDrain cell tag).plan = s.plan ∧ (s.decideDrain cell
    tag).planValid = s.planValid ∧ (s.decideDrain cell tag).openSeq = s.openSeq ∧ (s.decideDrain cell
    tag).run.hold.endFull = s.run.hold.endFull ∧ (s.decideDrain cell tag).printer.active = s.printer.active ∧
    (s.decideDrain cell tag).printer.waiting = s.printer.waiting ∧ (s.decideDrain cell tag).printer.banks =
    s.printer.banks ∧ (s.decideDrain cell tag).printer.head = s.printer.head ∧ (s.decideDrain cell tag).drive.still
    = s.drive.still ∧ (s.decideDrain cell tag).drive.stillTimer = s.drive.stillTimer ∧ (s.decideDrain cell
    tag).port.pageAddress = s.port.pageAddress ∧ (s.decideDrain cell tag).port.enable = s.port.enable ∧
    (s.decideDrain cell tag).port.scanTap = s.port.scanTap ∧ (s.decideDrain cell tag).port.masked = s.port.masked ∧
    (s.decideDrain cell tag).port.scanTimer = s.port.scanTimer ∧
    (s.decideDrain cell tag).port.scanLeft = s.port.scanLeft ∧ (s.decideDrain cell tag).port.readData = s.port.readData ∧ (s.decideDrain cell
    tag).tally.snapshot = s.tally.snapshot := by
  simp only [State.decideDrain]
  (repeat' split) <;> simp

@[simp] theorem State.decideStop_frame (s : State) (cell : Fin 8) (tag : Word) :
    (s.decideStop cell tag).pending = s.pending ∧ (s.decideStop cell tag).now = s.now ∧ (s.decideStop cell
    tag).position = s.position ∧ (s.decideStop cell tag).lastStep = s.lastStep ∧ (s.decideStop cell tag).samples =
    s.samples ∧ (s.decideStop cell tag).admission = s.admission ∧ (s.decideStop cell tag).router = s.router ∧
    (s.decideStop cell tag).protect = s.protect ∧ (s.decideStop cell tag).plan = s.plan ∧ (s.decideStop cell
    tag).planValid = s.planValid ∧ (s.decideStop cell tag).openSeq = s.openSeq ∧ (s.decideStop cell
    tag).run.hold.endFull = s.run.hold.endFull ∧ (s.decideStop cell tag).printer.active = s.printer.active ∧
    (s.decideStop cell tag).printer.waiting = s.printer.waiting ∧ (s.decideStop cell tag).printer.banks =
    s.printer.banks ∧ (s.decideStop cell tag).printer.head = s.printer.head ∧ (s.decideStop cell tag).drive.still =
    s.drive.still ∧ (s.decideStop cell tag).drive.stillTimer = s.drive.stillTimer ∧ (s.decideStop cell
    tag).port.pageAddress = s.port.pageAddress ∧ (s.decideStop cell tag).port.enable = s.port.enable ∧ (s.decideStop
    cell tag).port.scanTap = s.port.scanTap ∧ (s.decideStop cell tag).port.masked = s.port.masked ∧ (s.decideStop
    cell tag).port.scanTimer = s.port.scanTimer ∧
    (s.decideStop cell tag).port.scanLeft = s.port.scanLeft ∧ (s.decideStop cell tag).port.readData = s.port.readData ∧ (s.decideStop cell tag).tally.snapshot =
    s.tally.snapshot := by
  simp only [State.decideStop]
  (repeat' split) <;> simp

@[simp] theorem State.insertGate_frame (s : State) (g : Gate) (p : PieceNo) (lead : Pos) (dist len : Nat) :
    (s.insertGate g p lead dist len).pending = s.pending ∧ (s.insertGate g p lead dist len).now = s.now ∧
    (s.insertGate g p lead dist len).position = s.position ∧ (s.insertGate g p lead dist len).lastStep = s.lastStep
    ∧ (s.insertGate g p lead dist len).samples = s.samples ∧ (s.insertGate g p lead dist len).cellUnit = s.cellUnit
    ∧ (s.insertGate g p lead dist len).admission = s.admission ∧ (s.insertGate g p lead dist len).router = s.router
    ∧ (s.insertGate g p lead dist len).reports = s.reports ∧ (s.insertGate g p lead dist len).plan = s.plan ∧
    (s.insertGate g p lead dist len).planValid = s.planValid ∧ (s.insertGate g p lead dist len).openSeq = s.openSeq
    ∧ (s.insertGate g p lead dist len).run.hold.endFull = s.run.hold.endFull ∧ (s.insertGate g p lead dist
    len).run.hold.mergeGap = s.run.hold.mergeGap ∧ (s.insertGate g p lead dist len).protect.guardIsOpen =
    s.protect.guardIsOpen ∧ (s.insertGate g p lead dist len).pocket.state = s.pocket.state ∧ (s.insertGate g p lead
    dist len).pocket.occupant = s.pocket.occupant ∧ (s.insertGate g p lead dist len).pocket.mergeHold =
    s.pocket.mergeHold ∧ (s.insertGate g p lead dist len).printer.slots = s.printer.slots ∧ (s.insertGate g p lead
    dist len).printer.active = s.printer.active ∧ (s.insertGate g p lead dist len).printer.waiting =
    s.printer.waiting ∧ (s.insertGate g p lead dist len).printer.banks = s.printer.banks ∧ (s.insertGate g p lead
    dist len).drive.still = s.drive.still ∧ (s.insertGate g p lead dist len).drive.stillTimer = s.drive.stillTimer ∧
    (s.insertGate g p lead dist len).port.pageAddress = s.port.pageAddress ∧ (s.insertGate g p lead dist
    len).port.enable = s.port.enable ∧ (s.insertGate g p lead dist len).port.scanTap = s.port.scanTap ∧
    (s.insertGate g p lead dist len).port.masked = s.port.masked ∧ (s.insertGate g p lead dist len).port.scanTimer =
    s.port.scanTimer ∧
    (s.insertGate g p lead dist len).port.scanLeft = s.port.scanLeft ∧ (s.insertGate g p lead dist
    len).port.readData = s.port.readData ∧ (s.insertGate g p lead dist len).tally.pieces = s.tally.pieces ∧
    (s.insertGate g p lead dist len).tally.snapshot = s.tally.snapshot := by
  simp only [State.insertGate]
  simp

@[simp] theorem State.phaseOne_frame (s : State) (r : Record) (t : Turning) :
    (s.phaseOne r t).pending = s.pending ∧ (s.phaseOne r t).now = s.now ∧ (s.phaseOne r t).position = s.position ∧
    (s.phaseOne r t).lastStep = s.lastStep ∧ (s.phaseOne r t).samples = s.samples ∧ (s.phaseOne r t).admission =
    s.admission ∧ (s.phaseOne r t).router = s.router ∧ (s.phaseOne r t).reports = s.reports ∧ (s.phaseOne r t).plan
    = s.plan ∧ (s.phaseOne r t).planValid = s.planValid ∧ (s.phaseOne r t).openSeq = s.openSeq ∧ (s.phaseOne r
    t).run.hold.endFull = s.run.hold.endFull ∧ (s.phaseOne r t).run.hold.mergeGap = s.run.hold.mergeGap ∧
    (s.phaseOne r t).protect.guardIsOpen = s.protect.guardIsOpen ∧ (s.phaseOne r t).pocket.state = s.pocket.state ∧
    (s.phaseOne r t).pocket.occupant = s.pocket.occupant ∧ (s.phaseOne r t).pocket.mergeHold = s.pocket.mergeHold ∧
    (s.phaseOne r t).printer.slots = s.printer.slots ∧ (s.phaseOne r t).printer.active = s.printer.active ∧
    (s.phaseOne r t).printer.waiting = s.printer.waiting ∧ (s.phaseOne r t).printer.banks = s.printer.banks ∧
    (s.phaseOne r t).drive.still = s.drive.still ∧ (s.phaseOne r t).drive.stillTimer = s.drive.stillTimer ∧
    (s.phaseOne r t).port.pageAddress = s.port.pageAddress ∧ (s.phaseOne r t).port.enable = s.port.enable ∧
    (s.phaseOne r t).port.scanTap = s.port.scanTap ∧ (s.phaseOne r t).port.masked = s.port.masked ∧ (s.phaseOne r
    t).port.scanTimer = s.port.scanTimer ∧
    (s.phaseOne r t).port.scanLeft = s.port.scanLeft ∧ (s.phaseOne r
    t).port.readData = s.port.readData ∧ (s.phaseOne r t).cellUnit.cells = s.cellUnit.cells ∧ (s.phaseOne r
    t).tally.pieces = s.tally.pieces ∧ (s.phaseOne r t).tally.snapshot = s.tally.snapshot := by
  simp only [State.phaseOne]
  (repeat' split) <;> simp

@[simp] theorem State.makeDecision_frame (s : State) (p : PieceNo) (lists : PerScanner (List KeptRun)) :
    (s.makeDecision p lists).pending = s.pending ∧ (s.makeDecision p lists).now = s.now ∧ (s.makeDecision p
    lists).position = s.position ∧ (s.makeDecision p lists).lastStep = s.lastStep ∧ (s.makeDecision p lists).samples
    = s.samples ∧ (s.makeDecision p lists).admission = s.admission ∧ (s.makeDecision p lists).router = s.router ∧
    (s.makeDecision p lists).reports = s.reports ∧ (s.makeDecision p lists).plan = s.plan ∧ (s.makeDecision p
    lists).planValid = s.planValid ∧ (s.makeDecision p lists).openSeq = s.openSeq ∧ (s.makeDecision p
    lists).run.hold.endFull = s.run.hold.endFull ∧ (s.makeDecision p lists).run.hold.mergeGap = s.run.hold.mergeGap
    ∧ (s.makeDecision p lists).protect.guardIsOpen = s.protect.guardIsOpen ∧ (s.makeDecision p
    lists).pocket.mergeHold = s.pocket.mergeHold ∧ (s.makeDecision p lists).printer.slots = s.printer.slots ∧
    (s.makeDecision p lists).printer.active = s.printer.active ∧ (s.makeDecision p lists).printer.waiting =
    s.printer.waiting ∧ (s.makeDecision p lists).printer.banks = s.printer.banks ∧ (s.makeDecision p
    lists).drive.still = s.drive.still ∧ (s.makeDecision p lists).drive.stillTimer = s.drive.stillTimer ∧
    (s.makeDecision p lists).port.pageAddress = s.port.pageAddress ∧ (s.makeDecision p lists).port.enable =
    s.port.enable ∧ (s.makeDecision p lists).port.scanTap = s.port.scanTap ∧ (s.makeDecision p lists).port.masked =
    s.port.masked ∧ (s.makeDecision p lists).port.scanTimer = s.port.scanTimer ∧
    (s.makeDecision p lists).port.scanLeft = s.port.scanLeft ∧ (s.makeDecision p lists).port.readData = s.port.readData ∧ (s.makeDecision
    p lists).cellUnit.cells = s.cellUnit.cells ∧ (s.makeDecision p lists).tally.pieces = s.tally.pieces ∧
    (s.makeDecision p lists).tally.snapshot = s.tally.snapshot := by
  simp only [State.makeDecision]
  (repeat' split) <;> simp

@[simp] theorem State.noteDrops_frame (s : State) (p : PieceNo) (n : Nat) :
    (s.noteDrops p n).pending = s.pending ∧ (s.noteDrops p n).now = s.now ∧ (s.noteDrops p n).position = s.position
    ∧ (s.noteDrops p n).lastStep = s.lastStep ∧ (s.noteDrops p n).samples = s.samples ∧ (s.noteDrops p n).cellUnit =
    s.cellUnit ∧ (s.noteDrops p n).admission = s.admission ∧ (s.noteDrops p n).scan = s.scan ∧ (s.noteDrops p
    n).schedule = s.schedule ∧ (s.noteDrops p n).gates = s.gates ∧ (s.noteDrops p n).pocket = s.pocket ∧
    (s.noteDrops p n).printer = s.printer ∧ (s.noteDrops p n).router = s.router ∧ (s.noteDrops p n).drive = s.drive
    ∧ (s.noteDrops p n).run = s.run ∧ (s.noteDrops p n).protect = s.protect ∧ (s.noteDrops p n).reports = s.reports
    ∧ (s.noteDrops p n).plan = s.plan ∧ (s.noteDrops p n).planValid = s.planValid ∧ (s.noteDrops p n).mem = s.mem ∧
    (s.noteDrops p n).openSeq = s.openSeq ∧ (s.noteDrops p n).port.pageAddress = s.port.pageAddress ∧ (s.noteDrops p
    n).port.enable = s.port.enable ∧ (s.noteDrops p n).port.scanTap = s.port.scanTap ∧ (s.noteDrops p n).port.masked
    = s.port.masked ∧ (s.noteDrops p n).port.scanTimer = s.port.scanTimer ∧
    (s.noteDrops p n).port.scanLeft = s.port.scanLeft ∧ (s.noteDrops p n).port.readData = s.port.readData ∧ (s.noteDrops p n).tally.pieces =
    s.tally.pieces ∧ (s.noteDrops p n).tally.snapshot = s.tally.snapshot := by
  induction n generalizing s with
  | zero => simp [State.noteDrops]
  | succ n ih => simp only [State.noteDrops]; simp [ih]

@[simp] theorem State.takeSet_frame (s : State) :
    s.takeSet.pending = s.pending ∧ s.takeSet.now = s.now ∧ s.takeSet.position = s.position ∧ s.takeSet.lastStep =
    s.lastStep ∧ s.takeSet.samples = s.samples ∧ s.takeSet.cellUnit = s.cellUnit ∧ s.takeSet.admission = s.admission
    ∧ s.takeSet.schedule = s.schedule ∧ s.takeSet.gates = s.gates ∧ s.takeSet.pocket = s.pocket ∧ s.takeSet.printer
    = s.printer ∧ s.takeSet.router = s.router ∧ s.takeSet.drive = s.drive ∧ s.takeSet.run = s.run ∧
    s.takeSet.protect = s.protect ∧ s.takeSet.reports = s.reports ∧ s.takeSet.plan = s.plan ∧ s.takeSet.planValid =
    s.planValid ∧ s.takeSet.mem = s.mem ∧ s.takeSet.openSeq = s.openSeq ∧ s.takeSet.port.pageAddress =
    s.port.pageAddress ∧ s.takeSet.port.enable = s.port.enable ∧ s.takeSet.port.scanTap = s.port.scanTap ∧
    s.takeSet.port.masked = s.port.masked ∧ s.takeSet.port.scanTimer = s.port.scanTimer ∧
    s.takeSet.port.scanLeft = s.port.scanLeft ∧ s.takeSet.port.readData = s.port.readData ∧ s.takeSet.tally.pieces = s.tally.pieces ∧
    s.takeSet.tally.snapshot = s.tally.snapshot := by
  simp only [State.takeSet]
  (repeat' split) <;> simp

@[simp] theorem State.completeClose_frame (s : State) (x : Window) (w : Nat) :
    (s.completeClose x w).pending = s.pending ∧ (s.completeClose x w).now = s.now ∧ (s.completeClose x w).position =
    s.position ∧ (s.completeClose x w).lastStep = s.lastStep ∧ (s.completeClose x w).samples = s.samples ∧
    (s.completeClose x w).admission = s.admission ∧ (s.completeClose x w).router = s.router ∧ (s.completeClose x
    w).reports = s.reports ∧ (s.completeClose x w).plan = s.plan ∧ (s.completeClose x w).planValid = s.planValid ∧
    (s.completeClose x w).openSeq = s.openSeq ∧ (s.completeClose x w).run.hold.endFull = s.run.hold.endFull ∧
    (s.completeClose x w).run.hold.mergeGap = s.run.hold.mergeGap ∧ (s.completeClose x w).protect.guardIsOpen =
    s.protect.guardIsOpen ∧ (s.completeClose x w).pocket.mergeHold = s.pocket.mergeHold ∧ (s.completeClose x
    w).printer.slots = s.printer.slots ∧ (s.completeClose x w).printer.active = s.printer.active ∧ (s.completeClose
    x w).printer.waiting = s.printer.waiting ∧ (s.completeClose x w).printer.banks = s.printer.banks ∧
    (s.completeClose x w).drive.still = s.drive.still ∧ (s.completeClose x w).drive.stillTimer = s.drive.stillTimer
    ∧ (s.completeClose x w).port.pageAddress = s.port.pageAddress ∧ (s.completeClose x w).port.enable =
    s.port.enable ∧ (s.completeClose x w).port.scanTap = s.port.scanTap ∧ (s.completeClose x w).port.masked =
    s.port.masked ∧ (s.completeClose x w).port.scanTimer = s.port.scanTimer ∧
    (s.completeClose x w).port.scanLeft = s.port.scanLeft ∧ (s.completeClose x w).port.readData = s.port.readData ∧ (s.completeClose x w).cellUnit.cells =
    s.cellUnit.cells ∧ (s.completeClose x w).tally.pieces = s.tally.pieces ∧ (s.completeClose x w).tally.snapshot =
    s.tally.snapshot := by
  simp only [State.completeClose]
  simp

@[simp] theorem State.closeWindow_frame (s : State) (p : PieceNo) (at' : Pos) :
    (s.closeWindow p at').pending = s.pending ∧ (s.closeWindow p at').now = s.now ∧ (s.closeWindow p at').position =
    s.position ∧ (s.closeWindow p at').lastStep = s.lastStep ∧ (s.closeWindow p at').samples = s.samples ∧
    (s.closeWindow p at').admission = s.admission ∧ (s.closeWindow p at').router = s.router ∧ (s.closeWindow p
    at').reports = s.reports ∧ (s.closeWindow p at').plan = s.plan ∧ (s.closeWindow p at').planValid = s.planValid ∧
    (s.closeWindow p at').openSeq = s.openSeq ∧ (s.closeWindow p at').run.hold.endFull = s.run.hold.endFull ∧
    (s.closeWindow p at').run.hold.mergeGap = s.run.hold.mergeGap ∧ (s.closeWindow p at').protect.guardIsOpen =
    s.protect.guardIsOpen ∧ (s.closeWindow p at').pocket.mergeHold = s.pocket.mergeHold ∧ (s.closeWindow p
    at').printer.slots = s.printer.slots ∧ (s.closeWindow p at').printer.active = s.printer.active ∧ (s.closeWindow
    p at').printer.waiting = s.printer.waiting ∧ (s.closeWindow p at').printer.banks = s.printer.banks ∧
    (s.closeWindow p at').drive.still = s.drive.still ∧ (s.closeWindow p at').drive.stillTimer = s.drive.stillTimer
    ∧ (s.closeWindow p at').port.pageAddress = s.port.pageAddress ∧ (s.closeWindow p at').port.enable =
    s.port.enable ∧ (s.closeWindow p at').port.scanTap = s.port.scanTap ∧ (s.closeWindow p at').port.masked =
    s.port.masked ∧ (s.closeWindow p at').port.scanTimer = s.port.scanTimer ∧
    (s.closeWindow p at').port.scanLeft = s.port.scanLeft ∧ (s.closeWindow p at').port.readData = s.port.readData ∧ (s.closeWindow p at').cellUnit.cells =
    s.cellUnit.cells ∧ (s.closeWindow p at').tally.pieces = s.tally.pieces ∧ (s.closeWindow p at').tally.snapshot =
    s.tally.snapshot := by
  simp only [State.closeWindow]
  (repeat' split) <;> simp

@[simp] theorem State.forceClose_frame (s : State) :
    s.forceClose.pending = s.pending ∧ s.forceClose.now = s.now ∧ s.forceClose.position = s.position ∧
    s.forceClose.lastStep = s.lastStep ∧ s.forceClose.samples = s.samples ∧ s.forceClose.admission = s.admission ∧
    s.forceClose.router = s.router ∧ s.forceClose.reports = s.reports ∧ s.forceClose.plan = s.plan ∧
    s.forceClose.planValid = s.planValid ∧ s.forceClose.openSeq = s.openSeq ∧ s.forceClose.run.hold.endFull =
    s.run.hold.endFull ∧ s.forceClose.run.hold.mergeGap = s.run.hold.mergeGap ∧ s.forceClose.protect.guardIsOpen =
    s.protect.guardIsOpen ∧ s.forceClose.pocket.mergeHold = s.pocket.mergeHold ∧ s.forceClose.printer.slots =
    s.printer.slots ∧ s.forceClose.printer.active = s.printer.active ∧ s.forceClose.printer.waiting =
    s.printer.waiting ∧ s.forceClose.printer.banks = s.printer.banks ∧ s.forceClose.drive.still = s.drive.still ∧
    s.forceClose.drive.stillTimer = s.drive.stillTimer ∧ s.forceClose.port.pageAddress = s.port.pageAddress ∧
    s.forceClose.port.enable = s.port.enable ∧ s.forceClose.port.scanTap = s.port.scanTap ∧ s.forceClose.port.masked
    = s.port.masked ∧ s.forceClose.port.scanTimer = s.port.scanTimer ∧
    s.forceClose.port.scanLeft = s.port.scanLeft ∧ s.forceClose.port.readData = s.port.readData ∧ s.forceClose.cellUnit.cells = s.cellUnit.cells ∧
    s.forceClose.tally.pieces = s.tally.pieces ∧ s.forceClose.tally.snapshot = s.tally.snapshot := by
  simp only [State.forceClose]
  (repeat' split) <;> simp

@[simp] theorem State.grantRelease_frame (s : State) (p : PieceNo) :
    (s.grantRelease p).pending = s.pending ∧ (s.grantRelease p).now = s.now ∧ (s.grantRelease p).position =
    s.position ∧ (s.grantRelease p).lastStep = s.lastStep ∧ (s.grantRelease p).samples = s.samples ∧ (s.grantRelease
    p).admission = s.admission ∧ (s.grantRelease p).router = s.router ∧ (s.grantRelease p).reports = s.reports ∧
    (s.grantRelease p).plan = s.plan ∧ (s.grantRelease p).planValid = s.planValid ∧ (s.grantRelease p).openSeq =
    s.openSeq ∧ (s.grantRelease p).run.hold.endFull = s.run.hold.endFull ∧ (s.grantRelease p).protect.guardIsOpen =
    s.protect.guardIsOpen ∧ (s.grantRelease p).pocket.occupant = s.pocket.occupant ∧ (s.grantRelease
    p).printer.slots = s.printer.slots ∧ (s.grantRelease p).printer.active = s.printer.active ∧ (s.grantRelease
    p).printer.waiting = s.printer.waiting ∧ (s.grantRelease p).printer.banks = s.printer.banks ∧ (s.grantRelease
    p).drive.still = s.drive.still ∧ (s.grantRelease p).drive.stillTimer = s.drive.stillTimer ∧ (s.grantRelease
    p).port.pageAddress = s.port.pageAddress ∧ (s.grantRelease p).port.enable = s.port.enable ∧ (s.grantRelease
    p).port.scanTap = s.port.scanTap ∧ (s.grantRelease p).port.masked = s.port.masked ∧ (s.grantRelease
    p).port.scanTimer = s.port.scanTimer ∧
    (s.grantRelease p).port.scanLeft = s.port.scanLeft ∧ (s.grantRelease
    p).port.readData = s.port.readData ∧ (s.grantRelease p).cellUnit.cells = s.cellUnit.cells ∧ (s.grantRelease
    p).tally.pieces = s.tally.pieces ∧ (s.grantRelease p).tally.snapshot = s.tally.snapshot := by
  simp only [State.grantRelease]
  (repeat' split) <;> simp

@[simp] theorem State.mergeTest_frame (s : State) (leftOut : Option PieceNo) :
    (s.mergeTest leftOut).pending = s.pending ∧ (s.mergeTest leftOut).now = s.now ∧ (s.mergeTest leftOut).position =
    s.position ∧ (s.mergeTest leftOut).lastStep = s.lastStep ∧ (s.mergeTest leftOut).samples = s.samples ∧
    (s.mergeTest leftOut).admission = s.admission ∧ (s.mergeTest leftOut).router = s.router ∧ (s.mergeTest
    leftOut).reports = s.reports ∧ (s.mergeTest leftOut).plan = s.plan ∧ (s.mergeTest leftOut).planValid =
    s.planValid ∧ (s.mergeTest leftOut).openSeq = s.openSeq ∧ (s.mergeTest leftOut).run.hold.endFull =
    s.run.hold.endFull ∧ (s.mergeTest leftOut).protect.guardIsOpen = s.protect.guardIsOpen ∧ (s.mergeTest
    leftOut).pocket.occupant = s.pocket.occupant ∧ (s.mergeTest leftOut).printer.slots = s.printer.slots ∧
    (s.mergeTest leftOut).printer.active = s.printer.active ∧ (s.mergeTest leftOut).printer.waiting =
    s.printer.waiting ∧ (s.mergeTest leftOut).printer.banks = s.printer.banks ∧ (s.mergeTest leftOut).drive.still =
    s.drive.still ∧ (s.mergeTest leftOut).drive.stillTimer = s.drive.stillTimer ∧ (s.mergeTest
    leftOut).port.pageAddress = s.port.pageAddress ∧ (s.mergeTest leftOut).port.enable = s.port.enable ∧
    (s.mergeTest leftOut).port.scanTap = s.port.scanTap ∧ (s.mergeTest leftOut).port.masked = s.port.masked ∧
    (s.mergeTest leftOut).port.scanTimer = s.port.scanTimer ∧
    (s.mergeTest leftOut).port.scanLeft = s.port.scanLeft ∧ (s.mergeTest leftOut).port.readData = s.port.readData ∧ (s.mergeTest leftOut).cellUnit.cells = s.cellUnit.cells
    ∧ (s.mergeTest leftOut).tally.pieces = s.tally.pieces ∧ (s.mergeTest leftOut).tally.snapshot = s.tally.snapshot := by
  simp only [State.mergeTest]
  (repeat' split) <;> simp

@[simp] theorem State.raiseMergeGap_frame (s : State) :
    s.raiseMergeGap.pending = s.pending ∧ s.raiseMergeGap.now = s.now ∧ s.raiseMergeGap.position = s.position ∧
    s.raiseMergeGap.lastStep = s.lastStep ∧ s.raiseMergeGap.samples = s.samples ∧ s.raiseMergeGap.cellUnit =
    s.cellUnit ∧ s.raiseMergeGap.admission = s.admission ∧ s.raiseMergeGap.records = s.records ∧
    s.raiseMergeGap.scan = s.scan ∧ s.raiseMergeGap.schedule = s.schedule ∧ s.raiseMergeGap.gates = s.gates ∧
    s.raiseMergeGap.printer = s.printer ∧ s.raiseMergeGap.router = s.router ∧ s.raiseMergeGap.drive = s.drive ∧
    s.raiseMergeGap.protect = s.protect ∧ s.raiseMergeGap.reports = s.reports ∧ s.raiseMergeGap.plan = s.plan ∧
    s.raiseMergeGap.planValid = s.planValid ∧ s.raiseMergeGap.mem = s.mem ∧ s.raiseMergeGap.openSeq = s.openSeq ∧
    s.raiseMergeGap.run.state = s.run.state ∧ s.raiseMergeGap.run.request = s.run.request ∧
    s.raiseMergeGap.run.hold.endFull = s.run.hold.endFull ∧ s.raiseMergeGap.pocket.state = s.pocket.state ∧
    s.raiseMergeGap.pocket.occupant = s.pocket.occupant ∧ s.raiseMergeGap.pocket.motor = s.pocket.motor ∧
    s.raiseMergeGap.port.pageAddress = s.port.pageAddress ∧ s.raiseMergeGap.port.enable = s.port.enable ∧
    s.raiseMergeGap.port.scanTap = s.port.scanTap ∧ s.raiseMergeGap.port.masked = s.port.masked ∧
    s.raiseMergeGap.port.scanTimer = s.port.scanTimer ∧
    s.raiseMergeGap.port.scanLeft = s.port.scanLeft ∧ s.raiseMergeGap.port.readData = s.port.readData ∧ s.raiseMergeGap.tally.pieces = s.tally.pieces ∧
    s.raiseMergeGap.tally.snapshot = s.tally.snapshot := by
  simp only [State.raiseMergeGap]
  simp

@[simp] theorem State.mergePass_frame (s : State) (o : Occupant) :
    (s.mergePass o).pending = s.pending ∧ (s.mergePass o).now = s.now ∧ (s.mergePass o).position = s.position ∧
    (s.mergePass o).lastStep = s.lastStep ∧ (s.mergePass o).samples = s.samples ∧ (s.mergePass o).admission =
    s.admission ∧ (s.mergePass o).router = s.router ∧ (s.mergePass o).reports = s.reports ∧ (s.mergePass o).plan =
    s.plan ∧ (s.mergePass o).planValid = s.planValid ∧ (s.mergePass o).openSeq = s.openSeq ∧ (s.mergePass
    o).run.hold.endFull = s.run.hold.endFull ∧ (s.mergePass o).protect.guardIsOpen = s.protect.guardIsOpen ∧
    (s.mergePass o).pocket.occupant = s.pocket.occupant ∧ (s.mergePass o).printer.slots = s.printer.slots ∧
    (s.mergePass o).printer.active = s.printer.active ∧ (s.mergePass o).printer.waiting = s.printer.waiting ∧
    (s.mergePass o).printer.banks = s.printer.banks ∧ (s.mergePass o).drive.still = s.drive.still ∧ (s.mergePass
    o).drive.stillTimer = s.drive.stillTimer ∧ (s.mergePass o).port.pageAddress = s.port.pageAddress ∧ (s.mergePass
    o).port.enable = s.port.enable ∧ (s.mergePass o).port.scanTap = s.port.scanTap ∧ (s.mergePass o).port.masked =
    s.port.masked ∧ (s.mergePass o).port.scanTimer = s.port.scanTimer ∧
    (s.mergePass o).port.scanLeft = s.port.scanLeft ∧ (s.mergePass o).port.readData = s.port.readData ∧ (s.mergePass o).cellUnit.cells = s.cellUnit.cells ∧
    (s.mergePass o).tally.pieces = s.tally.pieces ∧ (s.mergePass o).tally.snapshot = s.tally.snapshot := by
  simp only [State.mergePass]
  (repeat' split) <;> simp

@[simp] theorem State.enterPocket_frame (s : State) (p : PieceNo) :
    (s.enterPocket p).pending = s.pending ∧ (s.enterPocket p).now = s.now ∧ (s.enterPocket p).position = s.position
    ∧ (s.enterPocket p).lastStep = s.lastStep ∧ (s.enterPocket p).samples = s.samples ∧ (s.enterPocket p).cellUnit =
    s.cellUnit ∧ (s.enterPocket p).admission = s.admission ∧ (s.enterPocket p).records = s.records ∧ (s.enterPocket
    p).scan = s.scan ∧ (s.enterPocket p).schedule = s.schedule ∧ (s.enterPocket p).gates = s.gates ∧ (s.enterPocket
    p).printer = s.printer ∧ (s.enterPocket p).router = s.router ∧ (s.enterPocket p).drive = s.drive ∧
    (s.enterPocket p).run = s.run ∧ (s.enterPocket p).protect = s.protect ∧ (s.enterPocket p).tally = s.tally ∧
    (s.enterPocket p).reports = s.reports ∧ (s.enterPocket p).port = s.port ∧ (s.enterPocket p).plan = s.plan ∧
    (s.enterPocket p).planValid = s.planValid ∧ (s.enterPocket p).mem = s.mem ∧ (s.enterPocket p).openSeq =
    s.openSeq ∧ (s.enterPocket p).pocket.occupant = s.pocket.occupant ∧ (s.enterPocket p).pocket.mergeHold =
    s.pocket.mergeHold := by
  simp only [State.enterPocket]
  (repeat' split) <;> simp

@[simp] theorem State.completeIntake_frame (s : State) :
    s.completeIntake.pending = s.pending ∧ s.completeIntake.now = s.now ∧ s.completeIntake.position = s.position ∧
    s.completeIntake.lastStep = s.lastStep ∧ s.completeIntake.samples = s.samples ∧ s.completeIntake.cellUnit =
    s.cellUnit ∧ s.completeIntake.admission = s.admission ∧ s.completeIntake.records = s.records ∧
    s.completeIntake.scan = s.scan ∧ s.completeIntake.schedule = s.schedule ∧ s.completeIntake.gates = s.gates ∧
    s.completeIntake.printer = s.printer ∧ s.completeIntake.router = s.router ∧ s.completeIntake.drive = s.drive ∧
    s.completeIntake.run = s.run ∧ s.completeIntake.protect = s.protect ∧ s.completeIntake.tally = s.tally ∧
    s.completeIntake.reports = s.reports ∧ s.completeIntake.port = s.port ∧ s.completeIntake.plan = s.plan ∧
    s.completeIntake.planValid = s.planValid ∧ s.completeIntake.mem = s.mem ∧ s.completeIntake.openSeq = s.openSeq ∧
    s.completeIntake.pocket.occupant = s.pocket.occupant ∧ s.completeIntake.pocket.mergeHold = s.pocket.mergeHold := by
  simp only [State.completeIntake]
  (repeat' split) <;> simp

@[simp] theorem State.pocketUncovered_frame (s : State) :
    s.pocketUncovered.pending = s.pending ∧ s.pocketUncovered.now = s.now ∧ s.pocketUncovered.position = s.position
    ∧ s.pocketUncovered.lastStep = s.lastStep ∧ s.pocketUncovered.samples = s.samples ∧ s.pocketUncovered.admission
    = s.admission ∧ s.pocketUncovered.router = s.router ∧ s.pocketUncovered.protect = s.protect ∧
    s.pocketUncovered.plan = s.plan ∧ s.pocketUncovered.planValid = s.planValid ∧ s.pocketUncovered.openSeq =
    s.openSeq ∧ s.pocketUncovered.run.hold.endFull = s.run.hold.endFull ∧ s.pocketUncovered.printer.active =
    s.printer.active ∧ s.pocketUncovered.printer.waiting = s.printer.waiting ∧ s.pocketUncovered.printer.banks =
    s.printer.banks ∧ s.pocketUncovered.printer.head = s.printer.head ∧ s.pocketUncovered.drive.still =
    s.drive.still ∧ s.pocketUncovered.drive.stillTimer = s.drive.stillTimer ∧ s.pocketUncovered.port.pageAddress =
    s.port.pageAddress ∧ s.pocketUncovered.port.enable = s.port.enable ∧ s.pocketUncovered.port.scanTap =
    s.port.scanTap ∧ s.pocketUncovered.port.masked = s.port.masked ∧ s.pocketUncovered.port.scanTimer =
    s.port.scanTimer ∧
    s.pocketUncovered.port.scanLeft = s.port.scanLeft ∧ s.pocketUncovered.port.readData =
    s.port.readData ∧ s.pocketUncovered.tally.snapshot = s.tally.snapshot := by
  simp only [State.pocketUncovered]
  (repeat' split) <;> simp

@[simp] theorem State.endDwell_frame (s : State) :
    s.endDwell.pending = s.pending ∧ s.endDwell.now = s.now ∧ s.endDwell.position = s.position ∧ s.endDwell.lastStep
    = s.lastStep ∧ s.endDwell.samples = s.samples ∧ s.endDwell.admission = s.admission ∧ s.endDwell.router =
    s.router ∧ s.endDwell.reports = s.reports ∧ s.endDwell.plan = s.plan ∧ s.endDwell.planValid = s.planValid ∧
    s.endDwell.openSeq = s.openSeq ∧ s.endDwell.run.hold.endFull = s.run.hold.endFull ∧
    s.endDwell.protect.guardIsOpen = s.protect.guardIsOpen ∧ s.endDwell.pocket.occupant = s.pocket.occupant ∧
    s.endDwell.printer.slots = s.printer.slots ∧ s.endDwell.printer.active = s.printer.active ∧
    s.endDwell.printer.waiting = s.printer.waiting ∧ s.endDwell.printer.banks = s.printer.banks ∧
    s.endDwell.drive.still = s.drive.still ∧ s.endDwell.drive.stillTimer = s.drive.stillTimer ∧
    s.endDwell.port.pageAddress = s.port.pageAddress ∧ s.endDwell.port.enable = s.port.enable ∧
    s.endDwell.port.scanTap = s.port.scanTap ∧ s.endDwell.port.masked = s.port.masked ∧ s.endDwell.port.scanTimer =
    s.port.scanTimer ∧
    s.endDwell.port.scanLeft = s.port.scanLeft ∧ s.endDwell.port.readData = s.port.readData ∧
    s.endDwell.cellUnit.cells = s.cellUnit.cells ∧ s.endDwell.tally.pieces = s.tally.pieces ∧
    s.endDwell.tally.snapshot = s.tally.snapshot := by
  simp only [State.endDwell]
  simp

@[simp] theorem State.endHold_frame (s : State) :
    s.endHold.pending = s.pending ∧ s.endHold.now = s.now ∧ s.endHold.position = s.position ∧ s.endHold.lastStep =
    s.lastStep ∧ s.endHold.samples = s.samples ∧ s.endHold.admission = s.admission ∧ s.endHold.router = s.router ∧
    s.endHold.reports = s.reports ∧ s.endHold.plan = s.plan ∧ s.endHold.planValid = s.planValid ∧ s.endHold.openSeq
    = s.openSeq ∧ s.endHold.run.hold.endFull = s.run.hold.endFull ∧ s.endHold.protect.guardIsOpen =
    s.protect.guardIsOpen ∧ s.endHold.pocket.occupant = s.pocket.occupant ∧ s.endHold.printer.slots =
    s.printer.slots ∧ s.endHold.printer.active = s.printer.active ∧ s.endHold.printer.waiting = s.printer.waiting ∧
    s.endHold.printer.banks = s.printer.banks ∧ s.endHold.drive.still = s.drive.still ∧ s.endHold.drive.stillTimer =
    s.drive.stillTimer ∧ s.endHold.port.pageAddress = s.port.pageAddress ∧ s.endHold.port.enable = s.port.enable ∧
    s.endHold.port.scanTap = s.port.scanTap ∧ s.endHold.port.masked = s.port.masked ∧ s.endHold.port.scanTimer =
    s.port.scanTimer ∧
    s.endHold.port.scanLeft = s.port.scanLeft ∧ s.endHold.port.readData = s.port.readData ∧
    s.endHold.cellUnit.cells = s.cellUnit.cells ∧ s.endHold.tally.pieces = s.tally.pieces ∧ s.endHold.tally.snapshot
    = s.tally.snapshot := by
  simp only [State.endHold]
  (repeat' split) <;> simp

@[simp] theorem State.planImpression_frame (s : State) (p : PieceNo) :
    (s.planImpression p).pending = s.pending ∧ (s.planImpression p).now = s.now ∧ (s.planImpression p).position =
    s.position ∧ (s.planImpression p).lastStep = s.lastStep ∧ (s.planImpression p).samples = s.samples ∧
    (s.planImpression p).cellUnit = s.cellUnit ∧ (s.planImpression p).admission = s.admission ∧ (s.planImpression
    p).router = s.router ∧ (s.planImpression p).reports = s.reports ∧ (s.planImpression p).plan = s.plan ∧
    (s.planImpression p).planValid = s.planValid ∧ (s.planImpression p).openSeq = s.openSeq ∧ (s.planImpression
    p).run.hold.endFull = s.run.hold.endFull ∧ (s.planImpression p).run.hold.mergeGap = s.run.hold.mergeGap ∧
    (s.planImpression p).protect.guardIsOpen = s.protect.guardIsOpen ∧ (s.planImpression p).pocket.state =
    s.pocket.state ∧ (s.planImpression p).pocket.occupant = s.pocket.occupant ∧ (s.planImpression
    p).pocket.mergeHold = s.pocket.mergeHold ∧ (s.planImpression p).printer.slots = s.printer.slots ∧
    (s.planImpression p).printer.active = s.printer.active ∧ (s.planImpression p).printer.waiting =
    s.printer.waiting ∧ (s.planImpression p).printer.banks = s.printer.banks ∧ (s.planImpression p).drive.still =
    s.drive.still ∧ (s.planImpression p).drive.stillTimer = s.drive.stillTimer ∧ (s.planImpression
    p).port.pageAddress = s.port.pageAddress ∧ (s.planImpression p).port.enable = s.port.enable ∧ (s.planImpression
    p).port.scanTap = s.port.scanTap ∧ (s.planImpression p).port.masked = s.port.masked ∧ (s.planImpression
    p).port.scanTimer = s.port.scanTimer ∧
    (s.planImpression p).port.scanLeft = s.port.scanLeft ∧ (s.planImpression
    p).port.readData = s.port.readData ∧ (s.planImpression p).tally.pieces = s.tally.pieces ∧ (s.planImpression
    p).tally.snapshot = s.tally.snapshot := by
  simp only [State.planImpression]
  (repeat' split) <;> simp

@[simp] theorem State.routePiece_frame (s : State) (p : PieceNo) :
    (s.routePiece p).pending = s.pending ∧ (s.routePiece p).now = s.now ∧ (s.routePiece p).position = s.position ∧
    (s.routePiece p).lastStep = s.lastStep ∧ (s.routePiece p).samples = s.samples ∧ (s.routePiece p).cellUnit =
    s.cellUnit ∧ (s.routePiece p).admission = s.admission ∧ (s.routePiece p).reports = s.reports ∧ (s.routePiece
    p).plan = s.plan ∧ (s.routePiece p).planValid = s.planValid ∧ (s.routePiece p).openSeq = s.openSeq ∧
    (s.routePiece p).run.hold.endFull = s.run.hold.endFull ∧ (s.routePiece p).run.hold.mergeGap =
    s.run.hold.mergeGap ∧ (s.routePiece p).protect.guardIsOpen = s.protect.guardIsOpen ∧ (s.routePiece
    p).pocket.state = s.pocket.state ∧ (s.routePiece p).pocket.occupant = s.pocket.occupant ∧ (s.routePiece
    p).pocket.mergeHold = s.pocket.mergeHold ∧ (s.routePiece p).printer.slots = s.printer.slots ∧ (s.routePiece
    p).printer.active = s.printer.active ∧ (s.routePiece p).printer.waiting = s.printer.waiting ∧ (s.routePiece
    p).printer.banks = s.printer.banks ∧ (s.routePiece p).drive.still = s.drive.still ∧ (s.routePiece
    p).drive.stillTimer = s.drive.stillTimer ∧ (s.routePiece p).router.inService = s.router.inService ∧
    (s.routePiece p).router.full = s.router.full ∧ (s.routePiece p).router.endFull = s.router.endFull ∧
    (s.routePiece p).port.pageAddress = s.port.pageAddress ∧ (s.routePiece p).port.enable = s.port.enable ∧
    (s.routePiece p).port.scanTap = s.port.scanTap ∧ (s.routePiece p).port.masked = s.port.masked ∧ (s.routePiece
    p).port.scanTimer = s.port.scanTimer ∧
    (s.routePiece p).port.scanLeft = s.port.scanLeft ∧ (s.routePiece
    p).port.readData = s.port.readData ∧ (s.routePiece p).tally.pieces = s.tally.pieces ∧ (s.routePiece
    p).tally.snapshot = s.tally.snapshot := by
  simp only [State.routePiece]
  (repeat' split) <;> simp

@[simp] theorem State.completePiece_frame (s : State) (p : PieceNo) :
    (s.completePiece p).pending = s.pending ∧ (s.completePiece p).now = s.now ∧ (s.completePiece p).position =
    s.position ∧ (s.completePiece p).lastStep = s.lastStep ∧ (s.completePiece p).samples = s.samples ∧
    (s.completePiece p).admission = s.admission ∧ (s.completePiece p).router = s.router ∧ (s.completePiece
    p).protect = s.protect ∧ (s.completePiece p).plan = s.plan ∧ (s.completePiece p).planValid = s.planValid ∧
    (s.completePiece p).openSeq = s.openSeq ∧ (s.completePiece p).run.hold.endFull = s.run.hold.endFull ∧
    (s.completePiece p).printer.active = s.printer.active ∧ (s.completePiece p).printer.waiting = s.printer.waiting
    ∧ (s.completePiece p).printer.banks = s.printer.banks ∧ (s.completePiece p).printer.head = s.printer.head ∧
    (s.completePiece p).drive.still = s.drive.still ∧ (s.completePiece p).drive.stillTimer = s.drive.stillTimer ∧
    (s.completePiece p).port.pageAddress = s.port.pageAddress ∧ (s.completePiece p).port.enable = s.port.enable ∧
    (s.completePiece p).port.scanTap = s.port.scanTap ∧ (s.completePiece p).port.masked = s.port.masked ∧
    (s.completePiece p).port.scanTimer = s.port.scanTimer ∧
    (s.completePiece p).port.scanLeft = s.port.scanLeft ∧ (s.completePiece p).port.readData = s.port.readData ∧ (s.completePiece p).tally.snapshot = s.tally.snapshot := by
  simp only [State.completePiece]
  simp

@[simp] theorem State.occupy_frame (s : State) (c : Cell) (p : PieceNo) (at' : Pos) :
    (s.occupy c p at').pending = s.pending ∧ (s.occupy c p at').now = s.now ∧ (s.occupy c p at').position =
    s.position ∧ (s.occupy c p at').lastStep = s.lastStep ∧ (s.occupy c p at').samples = s.samples ∧ (s.occupy c p
    at').admission = s.admission ∧ (s.occupy c p at').router = s.router ∧ (s.occupy c p at').reports = s.reports ∧
    (s.occupy c p at').plan = s.plan ∧ (s.occupy c p at').planValid = s.planValid ∧ (s.occupy c p at').openSeq =
    s.openSeq ∧ (s.occupy c p at').run.hold.endFull = s.run.hold.endFull ∧ (s.occupy c p at').run.hold.mergeGap =
    s.run.hold.mergeGap ∧ (s.occupy c p at').protect.guardIsOpen = s.protect.guardIsOpen ∧ (s.occupy c p
    at').pocket.state = s.pocket.state ∧ (s.occupy c p at').pocket.occupant = s.pocket.occupant ∧ (s.occupy c p
    at').pocket.mergeHold = s.pocket.mergeHold ∧ (s.occupy c p at').printer.slots = s.printer.slots ∧ (s.occupy c p
    at').printer.active = s.printer.active ∧ (s.occupy c p at').printer.waiting = s.printer.waiting ∧ (s.occupy c p
    at').printer.banks = s.printer.banks ∧ (s.occupy c p at').drive.still = s.drive.still ∧ (s.occupy c p
    at').drive.stillTimer = s.drive.stillTimer ∧ (s.occupy c p at').port.pageAddress = s.port.pageAddress ∧
    (s.occupy c p at').port.enable = s.port.enable ∧ (s.occupy c p at').port.scanTap = s.port.scanTap ∧ (s.occupy c
    p at').port.masked = s.port.masked ∧ (s.occupy c p at').port.scanTimer = s.port.scanTimer ∧
    (s.occupy c p at').port.scanLeft = s.port.scanLeft ∧ (s.occupy c p at').port.readData = s.port.readData ∧ (s.occupy c p
    at').cellUnit.queues = s.cellUnit.queues ∧ (s.occupy c p at').tally.pieces = s.tally.pieces ∧ (s.occupy c p
    at').tally.snapshot = s.tally.snapshot := by
  simp only [State.occupy]
  (repeat' split) <;> simp

@[simp] theorem State.switchSlot_frame (s : State) :
    s.switchSlot.pending = s.pending ∧ s.switchSlot.now = s.now ∧ s.switchSlot.position = s.position ∧
    s.switchSlot.lastStep = s.lastStep ∧ s.switchSlot.samples = s.samples ∧ s.switchSlot.cellUnit = s.cellUnit ∧
    s.switchSlot.admission = s.admission ∧ s.switchSlot.records = s.records ∧ s.switchSlot.scan = s.scan ∧
    s.switchSlot.schedule = s.schedule ∧ s.switchSlot.gates = s.gates ∧ s.switchSlot.pocket = s.pocket ∧
    s.switchSlot.router = s.router ∧ s.switchSlot.drive = s.drive ∧ s.switchSlot.run = s.run ∧ s.switchSlot.protect
    = s.protect ∧ s.switchSlot.tally = s.tally ∧ s.switchSlot.reports = s.reports ∧ s.switchSlot.port = s.port ∧
    s.switchSlot.plan = s.plan ∧ s.switchSlot.planValid = s.planValid ∧ s.switchSlot.mem = s.mem ∧
    s.switchSlot.openSeq = s.openSeq ∧ s.switchSlot.printer.slots = s.printer.slots ∧ s.switchSlot.printer.banks =
    s.printer.banks ∧ s.switchSlot.printer.job = s.printer.job ∧ s.switchSlot.printer.head = s.printer.head := by
  simp only [State.switchSlot]
  (repeat' split) <;> simp

@[simp] theorem State.shortGapTest_frame (s : State) (p : PieceNo) (previous : Option PieceNo) :
    (s.shortGapTest p previous).pending = s.pending ∧ (s.shortGapTest p previous).now = s.now ∧ (s.shortGapTest p
    previous).position = s.position ∧ (s.shortGapTest p previous).lastStep = s.lastStep ∧ (s.shortGapTest p
    previous).samples = s.samples ∧ (s.shortGapTest p previous).cellUnit = s.cellUnit ∧ (s.shortGapTest p
    previous).admission = s.admission ∧ (s.shortGapTest p previous).scan = s.scan ∧ (s.shortGapTest p
    previous).schedule = s.schedule ∧ (s.shortGapTest p previous).gates = s.gates ∧ (s.shortGapTest p
    previous).pocket = s.pocket ∧ (s.shortGapTest p previous).printer = s.printer ∧ (s.shortGapTest p
    previous).router = s.router ∧ (s.shortGapTest p previous).drive = s.drive ∧ (s.shortGapTest p previous).run =
    s.run ∧ (s.shortGapTest p previous).protect = s.protect ∧ (s.shortGapTest p previous).tally = s.tally ∧
    (s.shortGapTest p previous).reports = s.reports ∧ (s.shortGapTest p previous).port = s.port ∧ (s.shortGapTest p
    previous).plan = s.plan ∧ (s.shortGapTest p previous).planValid = s.planValid ∧ (s.shortGapTest p previous).mem
    = s.mem ∧ (s.shortGapTest p previous).openSeq = s.openSeq := by
  simp only [State.shortGapTest]
  (repeat' split) <;> simp

@[simp] theorem State.admitPiece_frame (s : State) (at' : Pos) :
    (s.admitPiece at').pending = s.pending ∧ (s.admitPiece at').now = s.now ∧ (s.admitPiece at').position =
    s.position ∧ (s.admitPiece at').lastStep = s.lastStep ∧ (s.admitPiece at').samples = s.samples ∧ (s.admitPiece
    at').router = s.router ∧ (s.admitPiece at').reports = s.reports ∧ (s.admitPiece at').plan = s.plan ∧
    (s.admitPiece at').planValid = s.planValid ∧ (s.admitPiece at').run.hold.endFull = s.run.hold.endFull ∧
    (s.admitPiece at').protect.guardIsOpen = s.protect.guardIsOpen ∧ (s.admitPiece at').pocket.occupant =
    s.pocket.occupant ∧ (s.admitPiece at').printer.banks = s.printer.banks ∧ (s.admitPiece at').drive.still =
    s.drive.still ∧ (s.admitPiece at').drive.stillTimer = s.drive.stillTimer ∧ (s.admitPiece at').port.pageAddress =
    s.port.pageAddress ∧ (s.admitPiece at').port.enable = s.port.enable ∧ (s.admitPiece at').port.scanTap =
    s.port.scanTap ∧ (s.admitPiece at').port.masked = s.port.masked ∧ (s.admitPiece at').port.scanTimer =
    s.port.scanTimer ∧
    (s.admitPiece at').port.scanLeft = s.port.scanLeft ∧ (s.admitPiece at').port.readData =
    s.port.readData ∧ (s.admitPiece at').tally.pieces = s.tally.pieces ∧ (s.admitPiece at').tally.snapshot =
    s.tally.snapshot := by
  simp only [State.admitPiece]
  simp

@[simp] theorem State.letThrough_frame (s : State) (at' : Pos) :
    (s.letThrough at').pending = s.pending ∧ (s.letThrough at').now = s.now ∧ (s.letThrough at').position =
    s.position ∧ (s.letThrough at').lastStep = s.lastStep ∧ (s.letThrough at').samples = s.samples ∧ (s.letThrough
    at').admission = s.admission ∧ (s.letThrough at').scan = s.scan ∧ (s.letThrough at').schedule = s.schedule ∧
    (s.letThrough at').gates = s.gates ∧ (s.letThrough at').pocket = s.pocket ∧ (s.letThrough at').printer =
    s.printer ∧ (s.letThrough at').router = s.router ∧ (s.letThrough at').drive = s.drive ∧ (s.letThrough at').run =
    s.run ∧ (s.letThrough at').protect = s.protect ∧ (s.letThrough at').reports = s.reports ∧ (s.letThrough
    at').plan = s.plan ∧ (s.letThrough at').planValid = s.planValid ∧ (s.letThrough at').mem = s.mem ∧ (s.letThrough
    at').openSeq = s.openSeq ∧ (s.letThrough at').port.pageAddress = s.port.pageAddress ∧ (s.letThrough
    at').port.enable = s.port.enable ∧ (s.letThrough at').port.scanTap = s.port.scanTap ∧ (s.letThrough
    at').port.masked = s.port.masked ∧ (s.letThrough at').port.scanTimer = s.port.scanTimer ∧
    (s.letThrough at').port.scanLeft = s.port.scanLeft ∧ (s.letThrough at').port.readData = s.port.readData ∧ (s.letThrough
    at').tally.pieces = s.tally.pieces ∧ (s.letThrough at').tally.snapshot = s.tally.snapshot := by
  simp only [State.letThrough]
  (repeat' split) <;> simp

@[simp] theorem State.entryCover_frame (s : State) (at' : Pos) :
    (s.entryCover at').pending = s.pending ∧ (s.entryCover at').now = s.now ∧ (s.entryCover at').position =
    s.position ∧ (s.entryCover at').lastStep = s.lastStep ∧ (s.entryCover at').samples = s.samples ∧ (s.entryCover
    at').router = s.router ∧ (s.entryCover at').reports = s.reports ∧ (s.entryCover at').plan = s.plan ∧
    (s.entryCover at').planValid = s.planValid ∧ (s.entryCover at').run.hold.endFull = s.run.hold.endFull ∧
    (s.entryCover at').protect.guardIsOpen = s.protect.guardIsOpen ∧ (s.entryCover at').pocket.occupant =
    s.pocket.occupant ∧ (s.entryCover at').printer.banks = s.printer.banks ∧ (s.entryCover at').drive.still =
    s.drive.still ∧ (s.entryCover at').drive.stillTimer = s.drive.stillTimer ∧ (s.entryCover at').port.pageAddress =
    s.port.pageAddress ∧ (s.entryCover at').port.enable = s.port.enable ∧ (s.entryCover at').port.scanTap =
    s.port.scanTap ∧ (s.entryCover at').port.masked = s.port.masked ∧ (s.entryCover at').port.scanTimer =
    s.port.scanTimer ∧
    (s.entryCover at').port.scanLeft = s.port.scanLeft ∧ (s.entryCover at').port.readData =
    s.port.readData ∧ (s.entryCover at').tally.pieces = s.tally.pieces ∧ (s.entryCover at').tally.snapshot =
    s.tally.snapshot := by
  simp only [State.entryCover]
  (repeat' split) <;> simp

@[simp] theorem State.entryUncover_frame (s : State) (at' : Pos) (o : Option Occupant) :
    (s.entryUncover at' o).pending = s.pending ∧ (s.entryUncover at' o).now = s.now ∧ (s.entryUncover at'
    o).position = s.position ∧ (s.entryUncover at' o).lastStep = s.lastStep ∧ (s.entryUncover at' o).samples =
    s.samples ∧ (s.entryUncover at' o).cellUnit = s.cellUnit ∧ (s.entryUncover at' o).scan = s.scan ∧
    (s.entryUncover at' o).schedule = s.schedule ∧ (s.entryUncover at' o).gates = s.gates ∧ (s.entryUncover at'
    o).pocket = s.pocket ∧ (s.entryUncover at' o).printer = s.printer ∧ (s.entryUncover at' o).router = s.router ∧
    (s.entryUncover at' o).drive = s.drive ∧ (s.entryUncover at' o).run = s.run ∧ (s.entryUncover at' o).protect =
    s.protect ∧ (s.entryUncover at' o).tally = s.tally ∧ (s.entryUncover at' o).reports = s.reports ∧
    (s.entryUncover at' o).port = s.port ∧ (s.entryUncover at' o).plan = s.plan ∧ (s.entryUncover at' o).planValid =
    s.planValid ∧ (s.entryUncover at' o).mem = s.mem ∧ (s.entryUncover at' o).openSeq = s.openSeq ∧ (s.entryUncover
    at' o).admission.nextPiece = s.admission.nextPiece := by
  simp only [State.entryUncover]
  (repeat' split) <;> simp

@[simp] theorem State.matchUntracked_frame (s : State) (c : Cell) (at' : Pos) :
    (s.matchUntracked c at').pending = s.pending ∧ (s.matchUntracked c at').now = s.now ∧ (s.matchUntracked c
    at').position = s.position ∧ (s.matchUntracked c at').lastStep = s.lastStep ∧ (s.matchUntracked c at').samples =
    s.samples ∧ (s.matchUntracked c at').admission = s.admission ∧ (s.matchUntracked c at').records = s.records ∧
    (s.matchUntracked c at').scan = s.scan ∧ (s.matchUntracked c at').schedule = s.schedule ∧ (s.matchUntracked c
    at').gates = s.gates ∧ (s.matchUntracked c at').pocket = s.pocket ∧ (s.matchUntracked c at').printer = s.printer
    ∧ (s.matchUntracked c at').router = s.router ∧ (s.matchUntracked c at').drive = s.drive ∧ (s.matchUntracked c
    at').run = s.run ∧ (s.matchUntracked c at').protect = s.protect ∧ (s.matchUntracked c at').tally = s.tally ∧
    (s.matchUntracked c at').reports = s.reports ∧ (s.matchUntracked c at').port = s.port ∧ (s.matchUntracked c
    at').plan = s.plan ∧ (s.matchUntracked c at').planValid = s.planValid ∧ (s.matchUntracked c at').mem = s.mem ∧
    (s.matchUntracked c at').openSeq = s.openSeq := by
  simp only [State.matchUntracked]
  (repeat' split) <;> simp

@[simp] theorem State.mergeArrival_frame (s : State) (p : PieceNo) (at' : Pos) :
    (s.mergeArrival p at').pending = s.pending ∧ (s.mergeArrival p at').now = s.now ∧ (s.mergeArrival p
    at').position = s.position ∧ (s.mergeArrival p at').lastStep = s.lastStep ∧ (s.mergeArrival p at').samples =
    s.samples ∧ (s.mergeArrival p at').admission = s.admission ∧ (s.mergeArrival p at').reports = s.reports ∧
    (s.mergeArrival p at').plan = s.plan ∧ (s.mergeArrival p at').planValid = s.planValid ∧ (s.mergeArrival p
    at').openSeq = s.openSeq ∧ (s.mergeArrival p at').run.hold.endFull = s.run.hold.endFull ∧ (s.mergeArrival p
    at').run.hold.mergeGap = s.run.hold.mergeGap ∧ (s.mergeArrival p at').protect.guardIsOpen =
    s.protect.guardIsOpen ∧ (s.mergeArrival p at').pocket.state = s.pocket.state ∧ (s.mergeArrival p
    at').pocket.occupant = s.pocket.occupant ∧ (s.mergeArrival p at').pocket.mergeHold = s.pocket.mergeHold ∧
    (s.mergeArrival p at').printer.slots = s.printer.slots ∧ (s.mergeArrival p at').printer.active =
    s.printer.active ∧ (s.mergeArrival p at').printer.waiting = s.printer.waiting ∧ (s.mergeArrival p
    at').printer.banks = s.printer.banks ∧ (s.mergeArrival p at').drive.still = s.drive.still ∧ (s.mergeArrival p
    at').drive.stillTimer = s.drive.stillTimer ∧ (s.mergeArrival p at').router.inService = s.router.inService ∧
    (s.mergeArrival p at').router.full = s.router.full ∧ (s.mergeArrival p at').router.endFull = s.router.endFull ∧
    (s.mergeArrival p at').port.pageAddress = s.port.pageAddress ∧ (s.mergeArrival p at').port.enable =
    s.port.enable ∧ (s.mergeArrival p at').port.scanTap = s.port.scanTap ∧ (s.mergeArrival p at').port.masked =
    s.port.masked ∧ (s.mergeArrival p at').port.scanTimer = s.port.scanTimer ∧
    (s.mergeArrival p at').port.scanLeft = s.port.scanLeft ∧ (s.mergeArrival p at').port.readData = s.port.readData ∧ (s.mergeArrival p at').cellUnit.cells =
    s.cellUnit.cells ∧ (s.mergeArrival p at').tally.pieces = s.tally.pieces ∧ (s.mergeArrival p at').tally.snapshot
    = s.tally.snapshot := by
  simp only [State.mergeArrival]
  simp

@[simp] theorem State.cancelArrival_frame (s : State) (p : PieceNo) :
    (s.cancelArrival p).pending = s.pending ∧ (s.cancelArrival p).now = s.now ∧ (s.cancelArrival p).position =
    s.position ∧ (s.cancelArrival p).lastStep = s.lastStep ∧ (s.cancelArrival p).samples = s.samples ∧
    (s.cancelArrival p).admission = s.admission ∧ (s.cancelArrival p).router = s.router ∧ (s.cancelArrival
    p).reports = s.reports ∧ (s.cancelArrival p).plan = s.plan ∧ (s.cancelArrival p).planValid = s.planValid ∧
    (s.cancelArrival p).openSeq = s.openSeq ∧ (s.cancelArrival p).run.hold.endFull = s.run.hold.endFull ∧
    (s.cancelArrival p).run.hold.mergeGap = s.run.hold.mergeGap ∧ (s.cancelArrival p).protect.guardIsOpen =
    s.protect.guardIsOpen ∧ (s.cancelArrival p).pocket.state = s.pocket.state ∧ (s.cancelArrival p).pocket.occupant
    = s.pocket.occupant ∧ (s.cancelArrival p).pocket.mergeHold = s.pocket.mergeHold ∧ (s.cancelArrival
    p).printer.slots = s.printer.slots ∧ (s.cancelArrival p).printer.active = s.printer.active ∧ (s.cancelArrival
    p).printer.waiting = s.printer.waiting ∧ (s.cancelArrival p).printer.banks = s.printer.banks ∧ (s.cancelArrival
    p).drive.still = s.drive.still ∧ (s.cancelArrival p).drive.stillTimer = s.drive.stillTimer ∧ (s.cancelArrival
    p).port.pageAddress = s.port.pageAddress ∧ (s.cancelArrival p).port.enable = s.port.enable ∧ (s.cancelArrival
    p).port.scanTap = s.port.scanTap ∧ (s.cancelArrival p).port.masked = s.port.masked ∧ (s.cancelArrival
    p).port.scanTimer = s.port.scanTimer ∧
    (s.cancelArrival p).port.scanLeft = s.port.scanLeft ∧ (s.cancelArrival
    p).port.readData = s.port.readData ∧ (s.cancelArrival p).cellUnit.cells = s.cellUnit.cells ∧ (s.cancelArrival
    p).tally.pieces = s.tally.pieces ∧ (s.cancelArrival p).tally.snapshot = s.tally.snapshot := by
  simp only [State.cancelArrival]
  (repeat' split) <;> simp

@[simp] theorem State.handCover_frame (s : State) (c : Cell) (p : PieceNo) (at' : Pos) :
    (s.handCover c p at').pending = s.pending ∧ (s.handCover c p at').now = s.now ∧ (s.handCover c p at').position =
    s.position ∧ (s.handCover c p at').lastStep = s.lastStep ∧ (s.handCover c p at').samples = s.samples ∧
    (s.handCover c p at').admission = s.admission ∧ (s.handCover c p at').reports = s.reports ∧ (s.handCover c p
    at').plan = s.plan ∧ (s.handCover c p at').planValid = s.planValid ∧ (s.handCover c p at').openSeq = s.openSeq ∧
    (s.handCover c p at').run.hold.endFull = s.run.hold.endFull ∧ (s.handCover c p at').run.hold.mergeGap =
    s.run.hold.mergeGap ∧ (s.handCover c p at').protect.guardIsOpen = s.protect.guardIsOpen ∧ (s.handCover c p
    at').pocket.occupant = s.pocket.occupant ∧ (s.handCover c p at').pocket.mergeHold = s.pocket.mergeHold ∧
    (s.handCover c p at').printer.slots = s.printer.slots ∧ (s.handCover c p at').printer.active = s.printer.active
    ∧ (s.handCover c p at').printer.waiting = s.printer.waiting ∧ (s.handCover c p at').printer.banks =
    s.printer.banks ∧ (s.handCover c p at').drive.still = s.drive.still ∧ (s.handCover c p at').drive.stillTimer =
    s.drive.stillTimer ∧ (s.handCover c p at').router.inService = s.router.inService ∧ (s.handCover c p
    at').router.full = s.router.full ∧ (s.handCover c p at').router.endFull = s.router.endFull ∧ (s.handCover c p
    at').port.pageAddress = s.port.pageAddress ∧ (s.handCover c p at').port.enable = s.port.enable ∧ (s.handCover c
    p at').port.scanTap = s.port.scanTap ∧ (s.handCover c p at').port.masked = s.port.masked ∧ (s.handCover c p
    at').port.scanTimer = s.port.scanTimer ∧
    (s.handCover c p at').port.scanLeft = s.port.scanLeft ∧ (s.handCover c p
    at').port.readData = s.port.readData ∧ (s.handCover c p at').cellUnit.cells = s.cellUnit.cells ∧ (s.handCover c
    p at').tally.pieces = s.tally.pieces ∧ (s.handCover c p at').tally.snapshot = s.tally.snapshot := by
  simp only [State.handCover]
  (repeat' split) <;> simp

@[simp] theorem State.matchTracked_frame (s : State) (c : Cell) (p : PieceNo) (at' : Pos) :
    (s.matchTracked c p at').pending = s.pending ∧ (s.matchTracked c p at').now = s.now ∧ (s.matchTracked c p
    at').position = s.position ∧ (s.matchTracked c p at').lastStep = s.lastStep ∧ (s.matchTracked c p at').samples =
    s.samples ∧ (s.matchTracked c p at').admission = s.admission ∧ (s.matchTracked c p at').reports = s.reports ∧
    (s.matchTracked c p at').plan = s.plan ∧ (s.matchTracked c p at').planValid = s.planValid ∧ (s.matchTracked c p
    at').openSeq = s.openSeq ∧ (s.matchTracked c p at').run.hold.endFull = s.run.hold.endFull ∧ (s.matchTracked c p
    at').run.hold.mergeGap = s.run.hold.mergeGap ∧ (s.matchTracked c p at').protect.guardIsOpen =
    s.protect.guardIsOpen ∧ (s.matchTracked c p at').pocket.occupant = s.pocket.occupant ∧ (s.matchTracked c p
    at').pocket.mergeHold = s.pocket.mergeHold ∧ (s.matchTracked c p at').printer.slots = s.printer.slots ∧
    (s.matchTracked c p at').printer.active = s.printer.active ∧ (s.matchTracked c p at').printer.waiting =
    s.printer.waiting ∧ (s.matchTracked c p at').printer.banks = s.printer.banks ∧ (s.matchTracked c p
    at').drive.still = s.drive.still ∧ (s.matchTracked c p at').drive.stillTimer = s.drive.stillTimer ∧
    (s.matchTracked c p at').router.inService = s.router.inService ∧ (s.matchTracked c p at').router.full =
    s.router.full ∧ (s.matchTracked c p at').router.endFull = s.router.endFull ∧ (s.matchTracked c p
    at').port.pageAddress = s.port.pageAddress ∧ (s.matchTracked c p at').port.enable = s.port.enable ∧
    (s.matchTracked c p at').port.scanTap = s.port.scanTap ∧ (s.matchTracked c p at').port.masked = s.port.masked ∧
    (s.matchTracked c p at').port.scanTimer = s.port.scanTimer ∧
    (s.matchTracked c p at').port.scanLeft = s.port.scanLeft ∧ (s.matchTracked c p at').port.readData = s.port.readData ∧ (s.matchTracked c p at').tally.pieces
    = s.tally.pieces ∧ (s.matchTracked c p at').tally.snapshot = s.tally.snapshot := by
  simp only [State.matchTracked]
  (repeat' split) <;> simp

@[simp] theorem State.matchCover_frame (s : State) (c : Cell) (at' : Pos) :
    (s.matchCover c at').pending = s.pending ∧ (s.matchCover c at').now = s.now ∧ (s.matchCover c at').position =
    s.position ∧ (s.matchCover c at').lastStep = s.lastStep ∧ (s.matchCover c at').samples = s.samples ∧
    (s.matchCover c at').admission = s.admission ∧ (s.matchCover c at').reports = s.reports ∧ (s.matchCover c
    at').plan = s.plan ∧ (s.matchCover c at').planValid = s.planValid ∧ (s.matchCover c at').openSeq = s.openSeq ∧
    (s.matchCover c at').run.hold.endFull = s.run.hold.endFull ∧ (s.matchCover c at').run.hold.mergeGap =
    s.run.hold.mergeGap ∧ (s.matchCover c at').protect.guardIsOpen = s.protect.guardIsOpen ∧ (s.matchCover c
    at').pocket.occupant = s.pocket.occupant ∧ (s.matchCover c at').pocket.mergeHold = s.pocket.mergeHold ∧
    (s.matchCover c at').printer.slots = s.printer.slots ∧ (s.matchCover c at').printer.active = s.printer.active ∧
    (s.matchCover c at').printer.waiting = s.printer.waiting ∧ (s.matchCover c at').printer.banks = s.printer.banks
    ∧ (s.matchCover c at').drive.still = s.drive.still ∧ (s.matchCover c at').drive.stillTimer = s.drive.stillTimer
    ∧ (s.matchCover c at').router.inService = s.router.inService ∧ (s.matchCover c at').router.full = s.router.full
    ∧ (s.matchCover c at').router.endFull = s.router.endFull ∧ (s.matchCover c at').port.pageAddress =
    s.port.pageAddress ∧ (s.matchCover c at').port.enable = s.port.enable ∧ (s.matchCover c at').port.scanTap =
    s.port.scanTap ∧ (s.matchCover c at').port.masked = s.port.masked ∧ (s.matchCover c at').port.scanTimer =
    s.port.scanTimer ∧
    (s.matchCover c at').port.scanLeft = s.port.scanLeft ∧ (s.matchCover c at').port.readData =
    s.port.readData ∧ (s.matchCover c at').tally.pieces = s.tally.pieces ∧ (s.matchCover c at').tally.snapshot =
    s.tally.snapshot := by
  simp only [State.matchCover]
  (repeat' split) <;> simp

@[simp] theorem State.takeBack_frame (s : State) (at' : Pos) :
    (s.takeBack at').pending = s.pending ∧ (s.takeBack at').now = s.now ∧ (s.takeBack at').position = s.position ∧
    (s.takeBack at').lastStep = s.lastStep ∧ (s.takeBack at').samples = s.samples ∧ (s.takeBack at').admission =
    s.admission ∧ (s.takeBack at').router = s.router ∧ (s.takeBack at').reports = s.reports ∧ (s.takeBack at').plan
    = s.plan ∧ (s.takeBack at').planValid = s.planValid ∧ (s.takeBack at').openSeq = s.openSeq ∧ (s.takeBack
    at').run.hold.endFull = s.run.hold.endFull ∧ (s.takeBack at').run.hold.mergeGap = s.run.hold.mergeGap ∧
    (s.takeBack at').protect.guardIsOpen = s.protect.guardIsOpen ∧ (s.takeBack at').pocket.state = s.pocket.state ∧
    (s.takeBack at').pocket.occupant = s.pocket.occupant ∧ (s.takeBack at').pocket.mergeHold = s.pocket.mergeHold ∧
    (s.takeBack at').printer.slots = s.printer.slots ∧ (s.takeBack at').printer.active = s.printer.active ∧
    (s.takeBack at').printer.waiting = s.printer.waiting ∧ (s.takeBack at').printer.banks = s.printer.banks ∧
    (s.takeBack at').drive.still = s.drive.still ∧ (s.takeBack at').drive.stillTimer = s.drive.stillTimer ∧
    (s.takeBack at').port.pageAddress = s.port.pageAddress ∧ (s.takeBack at').port.enable = s.port.enable ∧
    (s.takeBack at').port.scanTap = s.port.scanTap ∧ (s.takeBack at').port.masked = s.port.masked ∧ (s.takeBack
    at').port.scanTimer = s.port.scanTimer ∧
    (s.takeBack at').port.scanLeft = s.port.scanLeft ∧ (s.takeBack
    at').port.readData = s.port.readData ∧ (s.takeBack at').cellUnit.queues = s.cellUnit.queues ∧ (s.takeBack
    at').tally.pieces = s.tally.pieces ∧ (s.takeBack at').tally.snapshot = s.tally.snapshot := by
  simp only [State.takeBack]
  (repeat' split) <;> simp

@[simp] theorem State.handleCover_frame (s : State) (c : Cell) (at' : Pos) :
    (s.handleCover c at').pending = s.pending ∧ (s.handleCover c at').now = s.now ∧ (s.handleCover c at').position =
    s.position ∧ (s.handleCover c at').lastStep = s.lastStep ∧ (s.handleCover c at').samples = s.samples ∧
    (s.handleCover c at').reports = s.reports ∧ (s.handleCover c at').plan = s.plan ∧ (s.handleCover c
    at').planValid = s.planValid ∧ (s.handleCover c at').run.hold.endFull = s.run.hold.endFull ∧ (s.handleCover c
    at').protect.guardIsOpen = s.protect.guardIsOpen ∧ (s.handleCover c at').pocket.occupant = s.pocket.occupant ∧
    (s.handleCover c at').printer.banks = s.printer.banks ∧ (s.handleCover c at').drive.still = s.drive.still ∧
    (s.handleCover c at').drive.stillTimer = s.drive.stillTimer ∧ (s.handleCover c at').router.inService =
    s.router.inService ∧ (s.handleCover c at').router.full = s.router.full ∧ (s.handleCover c at').router.endFull =
    s.router.endFull ∧ (s.handleCover c at').port.pageAddress = s.port.pageAddress ∧ (s.handleCover c
    at').port.enable = s.port.enable ∧ (s.handleCover c at').port.scanTap = s.port.scanTap ∧ (s.handleCover c
    at').port.masked = s.port.masked ∧ (s.handleCover c at').port.scanTimer = s.port.scanTimer ∧
    (s.handleCover c at').port.scanLeft = s.port.scanLeft ∧ (s.handleCover c at').port.readData = s.port.readData ∧ (s.handleCover c
    at').tally.pieces = s.tally.pieces ∧ (s.handleCover c at').tally.snapshot = s.tally.snapshot := by
  simp only [State.handleCover]
  (repeat' split) <;> simp

@[simp] theorem State.coverCell_frame (s : State) (c : Cell) (at' : Pos) :
    (s.coverCell c at').pending = s.pending ∧ (s.coverCell c at').now = s.now ∧ (s.coverCell c at').position = s.position ∧
    (s.coverCell c at').lastStep = s.lastStep ∧ (s.coverCell c at').samples = s.samples ∧ (s.coverCell c at').reports =
    s.reports ∧ (s.coverCell c at').plan = s.plan ∧ (s.coverCell c at').planValid = s.planValid ∧ (s.coverCell c at').run.hold.endFull = s.run.hold.endFull ∧ (s.coverCell c at').protect.guardIsOpen = s.protect.guardIsOpen ∧
    (s.coverCell c at').pocket.occupant = s.pocket.occupant ∧ (s.coverCell c at').printer.banks = s.printer.banks ∧
    (s.coverCell c at').drive.still = s.drive.still ∧ (s.coverCell c at').drive.stillTimer = s.drive.stillTimer ∧
    (s.coverCell c at').router.inService = s.router.inService ∧ (s.coverCell c at').router.full = s.router.full ∧
    (s.coverCell c at').router.endFull = s.router.endFull ∧ (s.coverCell c at').port.pageAddress = s.port.pageAddress ∧
    (s.coverCell c at').port.enable = s.port.enable ∧ (s.coverCell c at').port.scanTap = s.port.scanTap ∧ (s.coverCell c at').port.masked = s.port.masked ∧ (s.coverCell c at').port.scanTimer = s.port.scanTimer ∧
    (s.coverCell c at').port.scanLeft = s.port.scanLeft ∧ (s.coverCell c at').port.readData = s.port.readData ∧ (s.coverCell c at').tally.pieces =
    s.tally.pieces ∧ (s.coverCell c at').tally.snapshot = s.tally.snapshot := by
  simp only [State.coverCell]
  (repeat' split) <;> simp

@[simp] theorem State.handUncover_frame (s : State) (c : Cell) (o : Option Occupant) (at' : Pos) :
    (s.handUncover c o at').pending = s.pending ∧ (s.handUncover c o at').now = s.now ∧ (s.handUncover c o
    at').position = s.position ∧ (s.handUncover c o at').lastStep = s.lastStep ∧ (s.handUncover c o at').samples =
    s.samples ∧ (s.handUncover c o at').router = s.router ∧ (s.handUncover c o at').plan = s.plan ∧ (s.handUncover c
    o at').planValid = s.planValid ∧ (s.handUncover c o at').openSeq = s.openSeq ∧ (s.handUncover c o
    at').run.hold.endFull = s.run.hold.endFull ∧ (s.handUncover c o at').protect.guardIsOpen = s.protect.guardIsOpen
    ∧ (s.handUncover c o at').printer.active = s.printer.active ∧ (s.handUncover c o at').printer.waiting =
    s.printer.waiting ∧ (s.handUncover c o at').printer.banks = s.printer.banks ∧ (s.handUncover c o
    at').drive.still = s.drive.still ∧ (s.handUncover c o at').drive.stillTimer = s.drive.stillTimer ∧
    (s.handUncover c o at').port.pageAddress = s.port.pageAddress ∧ (s.handUncover c o at').port.enable =
    s.port.enable ∧ (s.handUncover c o at').port.scanTap = s.port.scanTap ∧ (s.handUncover c o at').port.masked =
    s.port.masked ∧ (s.handUncover c o at').port.scanTimer = s.port.scanTimer ∧
    (s.handUncover c o at').port.scanLeft = s.port.scanLeft ∧ (s.handUncover c o at').port.readData = s.port.readData ∧ (s.handUncover c o
    at').tally.snapshot = s.tally.snapshot ∧ (s.handUncover c o at').admission.nextPiece = s.admission.nextPiece := by
  simp only [State.handUncover]
  (repeat' split) <;> simp

@[simp] theorem State.handleUncover_frame (s : State) (c : Cell) (at' : Pos) :
    (s.handleUncover c at').pending = s.pending ∧ (s.handleUncover c at').now = s.now ∧ (s.handleUncover c
    at').position = s.position ∧ (s.handleUncover c at').lastStep = s.lastStep ∧ (s.handleUncover c at').samples =
    s.samples ∧ (s.handleUncover c at').router = s.router ∧ (s.handleUncover c at').plan = s.plan ∧ (s.handleUncover
    c at').planValid = s.planValid ∧ (s.handleUncover c at').openSeq = s.openSeq ∧ (s.handleUncover c
    at').run.hold.endFull = s.run.hold.endFull ∧ (s.handleUncover c at').protect.guardIsOpen = s.protect.guardIsOpen
    ∧ (s.handleUncover c at').printer.active = s.printer.active ∧ (s.handleUncover c at').printer.waiting =
    s.printer.waiting ∧ (s.handleUncover c at').printer.banks = s.printer.banks ∧ (s.handleUncover c
    at').drive.still = s.drive.still ∧ (s.handleUncover c at').drive.stillTimer = s.drive.stillTimer ∧
    (s.handleUncover c at').port.pageAddress = s.port.pageAddress ∧ (s.handleUncover c at').port.enable =
    s.port.enable ∧ (s.handleUncover c at').port.scanTap = s.port.scanTap ∧ (s.handleUncover c at').port.masked =
    s.port.masked ∧ (s.handleUncover c at').port.scanTimer = s.port.scanTimer ∧
    (s.handleUncover c at').port.scanLeft = s.port.scanLeft ∧ (s.handleUncover c at').port.readData = s.port.readData ∧ (s.handleUncover c
    at').tally.snapshot = s.tally.snapshot ∧ (s.handleUncover c at').admission.nextPiece = s.admission.nextPiece := by
  simp only [State.handleUncover]
  (repeat' split) <;> simp

@[simp] theorem State.closeAhead_frame (s : State) (c : Cell) :
    (s.closeAhead c).pending = s.pending ∧ (s.closeAhead c).now = s.now ∧ (s.closeAhead c).position = s.position ∧
    (s.closeAhead c).lastStep = s.lastStep ∧ (s.closeAhead c).samples = s.samples ∧ (s.closeAhead c).admission = s.admission ∧
    (s.closeAhead c).router = s.router ∧ (s.closeAhead c).reports = s.reports ∧ (s.closeAhead c).plan = s.plan ∧ (s.closeAhead
    c).planValid = s.planValid ∧ (s.closeAhead c).openSeq = s.openSeq ∧ (s.closeAhead c).run.hold.endFull = s.run.hold.endFull
    ∧ (s.closeAhead c).run.hold.mergeGap = s.run.hold.mergeGap ∧ (s.closeAhead c).protect.guardIsOpen = s.protect.guardIsOpen
    ∧ (s.closeAhead c).pocket.mergeHold = s.pocket.mergeHold ∧ (s.closeAhead c).printer.slots = s.printer.slots ∧
    (s.closeAhead c).printer.active = s.printer.active ∧ (s.closeAhead c).printer.waiting = s.printer.waiting ∧ (s.closeAhead
    c).printer.banks = s.printer.banks ∧ (s.closeAhead c).drive.still = s.drive.still ∧ (s.closeAhead c).drive.stillTimer =
    s.drive.stillTimer ∧ (s.closeAhead c).port.pageAddress = s.port.pageAddress ∧ (s.closeAhead c).port.enable = s.port.enable
    ∧ (s.closeAhead c).port.scanTap = s.port.scanTap ∧ (s.closeAhead c).port.masked = s.port.masked ∧ (s.closeAhead
    c).port.scanTimer = s.port.scanTimer ∧ (s.closeAhead c).port.scanLeft = s.port.scanLeft ∧ (s.closeAhead c).port.readData =
    s.port.readData ∧ (s.closeAhead c).cellUnit.cells = s.cellUnit.cells ∧ (s.closeAhead c).tally.pieces = s.tally.pieces ∧
    (s.closeAhead c).tally.snapshot = s.tally.snapshot := by
  simp only [State.closeAhead]
  split <;> simp

@[simp] theorem State.uncoverCell_frame (s : State) (c : Cell) :
    (s.uncoverCell c).pending = s.pending ∧ (s.uncoverCell c).now = s.now ∧ (s.uncoverCell c).position = s.position
    ∧ (s.uncoverCell c).lastStep = s.lastStep ∧ (s.uncoverCell c).samples = s.samples ∧ (s.uncoverCell c).router =
    s.router ∧ (s.uncoverCell c).plan = s.plan ∧ (s.uncoverCell c).planValid = s.planValid ∧ (s.uncoverCell
    c).openSeq = s.openSeq ∧ (s.uncoverCell c).run.hold.endFull = s.run.hold.endFull ∧ (s.uncoverCell
    c).protect.guardIsOpen = s.protect.guardIsOpen ∧ (s.uncoverCell c).printer.active = s.printer.active ∧
    (s.uncoverCell c).printer.waiting = s.printer.waiting ∧ (s.uncoverCell c).printer.banks = s.printer.banks ∧
    (s.uncoverCell c).drive.still = s.drive.still ∧ (s.uncoverCell c).drive.stillTimer = s.drive.stillTimer ∧
    (s.uncoverCell c).port.pageAddress = s.port.pageAddress ∧ (s.uncoverCell c).port.enable = s.port.enable ∧
    (s.uncoverCell c).port.scanTap = s.port.scanTap ∧ (s.uncoverCell c).port.masked = s.port.masked ∧ (s.uncoverCell
    c).port.scanTimer = s.port.scanTimer ∧
    (s.uncoverCell c).port.scanLeft = s.port.scanLeft ∧ (s.uncoverCell
    c).port.readData = s.port.readData ∧ (s.uncoverCell c).tally.snapshot = s.tally.snapshot ∧ (s.uncoverCell
    c).admission.nextPiece = s.admission.nextPiece := by
  simp only [State.uncoverCell]
  (repeat' split) <;> simp

@[simp] theorem State.settle_frame (s : State) :
    s.settle.pending = s.pending ∧ s.settle.now = s.now ∧ s.settle.position = s.position ∧ s.settle.lastStep =
    s.lastStep ∧ s.settle.samples = s.samples ∧ s.settle.admission = s.admission ∧ s.settle.router = s.router ∧
    s.settle.reports = s.reports ∧ s.settle.plan = s.plan ∧ s.settle.planValid = s.planValid ∧ s.settle.openSeq =
    s.openSeq ∧ s.settle.run.hold.endFull = s.run.hold.endFull ∧ s.settle.run.hold.mergeGap = s.run.hold.mergeGap ∧
    s.settle.protect.guardIsOpen = s.protect.guardIsOpen ∧ s.settle.pocket.mergeHold = s.pocket.mergeHold ∧
    s.settle.printer.slots = s.printer.slots ∧ s.settle.printer.active = s.printer.active ∧ s.settle.printer.waiting
    = s.printer.waiting ∧ s.settle.printer.banks = s.printer.banks ∧ s.settle.drive.still = s.drive.still ∧
    s.settle.drive.stillTimer = s.drive.stillTimer ∧ s.settle.port.pageAddress = s.port.pageAddress ∧
    s.settle.port.enable = s.port.enable ∧ s.settle.port.scanTap = s.port.scanTap ∧ s.settle.port.masked =
    s.port.masked ∧ s.settle.port.scanTimer = s.port.scanTimer ∧
    s.settle.port.scanLeft = s.port.scanLeft ∧ s.settle.port.readData = s.port.readData ∧ s.settle.cellUnit.cells = s.cellUnit.cells ∧ s.settle.tally.pieces =
    s.tally.pieces ∧ s.settle.tally.snapshot = s.tally.snapshot := by
  simp only [State.settle]
  simp

@[simp] theorem State.entriesAhead_frame (s : State) (order : StepOrder) :
    (s.entriesAhead order).pending = s.pending ∧ (s.entriesAhead order).now = s.now ∧ (s.entriesAhead
    order).position = s.position ∧ (s.entriesAhead order).lastStep = s.lastStep ∧ (s.entriesAhead order).samples =
    s.samples ∧ (s.entriesAhead order).cellUnit = s.cellUnit ∧ (s.entriesAhead order).admission = s.admission ∧
    (s.entriesAhead order).router = s.router ∧ (s.entriesAhead order).reports = s.reports ∧ (s.entriesAhead
    order).plan = s.plan ∧ (s.entriesAhead order).planValid = s.planValid ∧ (s.entriesAhead order).openSeq =
    s.openSeq ∧ (s.entriesAhead order).run.hold.endFull = s.run.hold.endFull ∧ (s.entriesAhead
    order).run.hold.mergeGap = s.run.hold.mergeGap ∧ (s.entriesAhead order).protect.guardIsOpen =
    s.protect.guardIsOpen ∧ (s.entriesAhead order).pocket.state = s.pocket.state ∧ (s.entriesAhead
    order).pocket.occupant = s.pocket.occupant ∧ (s.entriesAhead order).pocket.mergeHold = s.pocket.mergeHold ∧
    (s.entriesAhead order).printer.slots = s.printer.slots ∧ (s.entriesAhead order).printer.active =
    s.printer.active ∧ (s.entriesAhead order).printer.waiting = s.printer.waiting ∧ (s.entriesAhead
    order).printer.banks = s.printer.banks ∧ (s.entriesAhead order).drive.still = s.drive.still ∧ (s.entriesAhead
    order).drive.stillTimer = s.drive.stillTimer ∧ (s.entriesAhead order).port.pageAddress = s.port.pageAddress ∧
    (s.entriesAhead order).port.enable = s.port.enable ∧ (s.entriesAhead order).port.scanTap = s.port.scanTap ∧
    (s.entriesAhead order).port.masked = s.port.masked ∧ (s.entriesAhead order).port.scanTimer = s.port.scanTimer ∧
    (s.entriesAhead order).port.scanLeft = s.port.scanLeft ∧
    (s.entriesAhead order).port.readData = s.port.readData ∧ (s.entriesAhead order).tally.pieces = s.tally.pieces ∧
    (s.entriesAhead order).tally.snapshot = s.tally.snapshot := by
  cases order <;> simp [State.entriesAhead]

@[simp] theorem State.countIntake_frame (s : State) :
    s.countIntake.pending = s.pending ∧ s.countIntake.now = s.now ∧ s.countIntake.position = s.position ∧
    s.countIntake.lastStep = s.lastStep ∧ s.countIntake.samples = s.samples ∧ s.countIntake.cellUnit = s.cellUnit ∧
    s.countIntake.admission = s.admission ∧ s.countIntake.records = s.records ∧ s.countIntake.scan = s.scan ∧
    s.countIntake.schedule = s.schedule ∧ s.countIntake.gates = s.gates ∧ s.countIntake.printer = s.printer ∧
    s.countIntake.router = s.router ∧ s.countIntake.drive = s.drive ∧ s.countIntake.run = s.run ∧
    s.countIntake.protect = s.protect ∧ s.countIntake.tally = s.tally ∧ s.countIntake.reports = s.reports ∧
    s.countIntake.port = s.port ∧ s.countIntake.plan = s.plan ∧ s.countIntake.planValid = s.planValid ∧
    s.countIntake.mem = s.mem ∧ s.countIntake.openSeq = s.openSeq ∧ s.countIntake.pocket.state = s.pocket.state ∧
    s.countIntake.pocket.occupant = s.pocket.occupant ∧ s.countIntake.pocket.motor = s.pocket.motor ∧
    s.countIntake.pocket.mergeHold = s.pocket.mergeHold := by
  simp only [State.countIntake]
  (repeat' split) <;> simp

@[simp] theorem State.printStep_frame (s : State) :
    s.printStep.pending = s.pending ∧ s.printStep.now = s.now ∧ s.printStep.position = s.position ∧
    s.printStep.lastStep = s.lastStep ∧ s.printStep.samples = s.samples ∧ s.printStep.cellUnit = s.cellUnit ∧
    s.printStep.admission = s.admission ∧ s.printStep.scan = s.scan ∧ s.printStep.schedule = s.schedule ∧
    s.printStep.gates = s.gates ∧ s.printStep.pocket = s.pocket ∧ s.printStep.router = s.router ∧ s.printStep.drive
    = s.drive ∧ s.printStep.run = s.run ∧ s.printStep.protect = s.protect ∧ s.printStep.reports = s.reports ∧
    s.printStep.plan = s.plan ∧ s.printStep.planValid = s.planValid ∧ s.printStep.mem = s.mem ∧ s.printStep.openSeq
    = s.openSeq ∧ s.printStep.printer.slots = s.printer.slots ∧ s.printStep.printer.active = s.printer.active ∧
    s.printStep.printer.waiting = s.printer.waiting ∧ s.printStep.printer.banks = s.printer.banks ∧
    s.printStep.port.pageAddress = s.port.pageAddress ∧ s.printStep.port.enable = s.port.enable ∧
    s.printStep.port.scanTap = s.port.scanTap ∧ s.printStep.port.masked = s.port.masked ∧ s.printStep.port.scanTimer
    = s.port.scanTimer ∧
    s.printStep.port.scanLeft = s.port.scanLeft ∧ s.printStep.port.readData = s.port.readData ∧
    s.printStep.tally.pieces = s.tally.pieces ∧ s.printStep.tally.snapshot = s.tally.snapshot := by
  simp only [State.printStep]
  (repeat' split) <;> simp

@[simp] theorem State.countCrawl_frame (s : State) :
    s.countCrawl.pending = s.pending ∧ s.countCrawl.now = s.now ∧ s.countCrawl.position = s.position ∧
    s.countCrawl.lastStep = s.lastStep ∧ s.countCrawl.samples = s.samples ∧ s.countCrawl.cellUnit = s.cellUnit ∧
    s.countCrawl.admission = s.admission ∧ s.countCrawl.records = s.records ∧ s.countCrawl.scan = s.scan ∧
    s.countCrawl.schedule = s.schedule ∧ s.countCrawl.gates = s.gates ∧ s.countCrawl.pocket = s.pocket ∧
    s.countCrawl.printer = s.printer ∧ s.countCrawl.router = s.router ∧ s.countCrawl.drive = s.drive ∧
    s.countCrawl.run = s.run ∧ s.countCrawl.tally = s.tally ∧ s.countCrawl.reports = s.reports ∧ s.countCrawl.port =
    s.port ∧ s.countCrawl.plan = s.plan ∧ s.countCrawl.planValid = s.planValid ∧ s.countCrawl.mem = s.mem ∧
    s.countCrawl.openSeq = s.openSeq ∧ s.countCrawl.protect.latch = s.protect.latch ∧
    s.countCrawl.protect.guardIsOpen = s.protect.guardIsOpen ∧ s.countCrawl.protect.cause = s.protect.cause := by
  simp only [State.countCrawl]
  (repeat' split) <;> simp

@[simp] theorem State.handStep_frame (s : State) :
    s.handStep.pending = s.pending ∧ s.handStep.now = s.now ∧ s.handStep.position = s.position ∧ s.handStep.lastStep
    = s.lastStep ∧ s.handStep.samples = s.samples ∧ s.handStep.cellUnit = s.cellUnit ∧ s.handStep.schedule =
    s.schedule ∧ s.handStep.gates = s.gates ∧ s.handStep.router = s.router ∧ s.handStep.run = s.run ∧
    s.handStep.reports = s.reports ∧ s.handStep.plan = s.plan ∧ s.handStep.planValid = s.planValid ∧ s.handStep.mem
    = s.mem ∧ s.handStep.openSeq = s.openSeq ∧ s.handStep.protect.latch = s.protect.latch ∧
    s.handStep.protect.guardIsOpen = s.protect.guardIsOpen ∧ s.handStep.protect.cause = s.protect.cause ∧
    s.handStep.pocket.state = s.pocket.state ∧ s.handStep.pocket.occupant = s.pocket.occupant ∧
    s.handStep.pocket.motor = s.pocket.motor ∧ s.handStep.pocket.mergeHold = s.pocket.mergeHold ∧
    s.handStep.printer.slots = s.printer.slots ∧ s.handStep.printer.active = s.printer.active ∧
    s.handStep.printer.waiting = s.printer.waiting ∧ s.handStep.printer.banks = s.printer.banks ∧
    s.handStep.drive.code = s.drive.code ∧ s.handStep.drive.target = s.drive.target ∧ s.handStep.drive.rampTimer =
    s.drive.rampTimer ∧ s.handStep.port.pageAddress = s.port.pageAddress ∧ s.handStep.port.enable = s.port.enable ∧
    s.handStep.port.scanTap = s.port.scanTap ∧ s.handStep.port.masked = s.port.masked ∧ s.handStep.port.scanTimer =
    s.port.scanTimer ∧
    s.handStep.port.scanLeft = s.port.scanLeft ∧ s.handStep.port.readData = s.port.readData ∧
    s.handStep.tally.pieces = s.tally.pieces ∧ s.handStep.tally.snapshot = s.tally.snapshot ∧
    s.handStep.admission.nextPiece = s.admission.nextPiece := by
  simp only [State.handStep]
  simp

@[simp] theorem State.takeDueIf_frame (s : State) (test : EntryKind → Bool) :
    (s.takeDueIf test).pending = s.pending ∧ (s.takeDueIf test).now = s.now ∧ (s.takeDueIf test).position =
    s.position ∧ (s.takeDueIf test).lastStep = s.lastStep ∧ (s.takeDueIf test).samples = s.samples ∧ (s.takeDueIf
    test).cellUnit = s.cellUnit ∧ (s.takeDueIf test).admission = s.admission ∧ (s.takeDueIf test).router = s.router
    ∧ (s.takeDueIf test).reports = s.reports ∧ (s.takeDueIf test).plan = s.plan ∧ (s.takeDueIf test).planValid =
    s.planValid ∧ (s.takeDueIf test).openSeq = s.openSeq ∧ (s.takeDueIf test).run.hold.endFull = s.run.hold.endFull
    ∧ (s.takeDueIf test).run.hold.mergeGap = s.run.hold.mergeGap ∧ (s.takeDueIf test).protect.guardIsOpen =
    s.protect.guardIsOpen ∧ (s.takeDueIf test).pocket.state = s.pocket.state ∧ (s.takeDueIf test).pocket.occupant =
    s.pocket.occupant ∧ (s.takeDueIf test).pocket.mergeHold = s.pocket.mergeHold ∧ (s.takeDueIf test).printer.slots
    = s.printer.slots ∧ (s.takeDueIf test).printer.active = s.printer.active ∧ (s.takeDueIf test).printer.waiting =
    s.printer.waiting ∧ (s.takeDueIf test).printer.banks = s.printer.banks ∧ (s.takeDueIf test).drive.still =
    s.drive.still ∧ (s.takeDueIf test).drive.stillTimer = s.drive.stillTimer ∧ (s.takeDueIf test).port.pageAddress =
    s.port.pageAddress ∧ (s.takeDueIf test).port.enable = s.port.enable ∧ (s.takeDueIf test).port.scanTap =
    s.port.scanTap ∧ (s.takeDueIf test).port.masked = s.port.masked ∧ (s.takeDueIf test).port.scanTimer =
    s.port.scanTimer ∧
    (s.takeDueIf test).port.scanLeft = s.port.scanLeft ∧ (s.takeDueIf test).port.readData =
    s.port.readData ∧ (s.takeDueIf test).tally.pieces = s.tally.pieces ∧ (s.takeDueIf test).tally.snapshot =
    s.tally.snapshot := by
  simp only [State.takeDueIf]
  (repeat' split) <;> simp

@[simp] theorem State.decideLoadPlan_frame (s : State) (cell : Fin 8) (tag : Word) :
    (s.decideLoadPlan cell tag).pending = s.pending ∧ (s.decideLoadPlan cell tag).now = s.now ∧ (s.decideLoadPlan
    cell tag).position = s.position ∧ (s.decideLoadPlan cell tag).lastStep = s.lastStep ∧ (s.decideLoadPlan cell
    tag).samples = s.samples ∧ (s.decideLoadPlan cell tag).admission = s.admission ∧ (s.decideLoadPlan cell
    tag).router = s.router ∧ (s.decideLoadPlan cell tag).openSeq = s.openSeq ∧ (s.decideLoadPlan cell
    tag).run.hold.endFull = s.run.hold.endFull ∧ (s.decideLoadPlan cell tag).protect.latch = s.protect.latch ∧
    (s.decideLoadPlan cell tag).protect.guardIsOpen = s.protect.guardIsOpen ∧ (s.decideLoadPlan cell
    tag).protect.cause = s.protect.cause ∧ (s.decideLoadPlan cell tag).printer.active = s.printer.active ∧
    (s.decideLoadPlan cell tag).printer.waiting = s.printer.waiting ∧ (s.decideLoadPlan cell tag).printer.banks =
    s.printer.banks ∧ (s.decideLoadPlan cell tag).printer.head = s.printer.head ∧ (s.decideLoadPlan cell
    tag).port.pageAddress = s.port.pageAddress ∧ (s.decideLoadPlan cell tag).port.enable = s.port.enable ∧
    (s.decideLoadPlan cell tag).port.scanTap = s.port.scanTap ∧ (s.decideLoadPlan cell tag).port.masked =
    s.port.masked ∧ (s.decideLoadPlan cell tag).port.scanTimer = s.port.scanTimer ∧
    (s.decideLoadPlan cell tag).port.scanLeft = s.port.scanLeft ∧ (s.decideLoadPlan cell tag).port.readData = s.port.readData ∧
    (s.decideLoadPlan cell tag).tally.snapshot = s.tally.snapshot := by
  simp only [State.decideLoadPlan]
  (repeat' split) <;> simp

@[simp] theorem State.loadSlot_frame (s : State) (i : Fin 2) (columns : List Word) :
    (s.loadSlot i columns).pending = s.pending ∧ (s.loadSlot i columns).now = s.now ∧ (s.loadSlot i
    columns).position = s.position ∧ (s.loadSlot i columns).lastStep = s.lastStep ∧ (s.loadSlot i columns).samples =
    s.samples ∧ (s.loadSlot i columns).cellUnit = s.cellUnit ∧ (s.loadSlot i columns).admission = s.admission ∧
    (s.loadSlot i columns).records = s.records ∧ (s.loadSlot i columns).scan = s.scan ∧ (s.loadSlot i
    columns).schedule = s.schedule ∧ (s.loadSlot i columns).gates = s.gates ∧ (s.loadSlot i columns).pocket =
    s.pocket ∧ (s.loadSlot i columns).router = s.router ∧ (s.loadSlot i columns).drive = s.drive ∧ (s.loadSlot i
    columns).run = s.run ∧ (s.loadSlot i columns).protect = s.protect ∧ (s.loadSlot i columns).tally = s.tally ∧
    (s.loadSlot i columns).reports = s.reports ∧ (s.loadSlot i columns).port = s.port ∧ (s.loadSlot i columns).plan
    = s.plan ∧ (s.loadSlot i columns).planValid = s.planValid ∧ (s.loadSlot i columns).mem = s.mem ∧ (s.loadSlot i
    columns).openSeq = s.openSeq ∧ (s.loadSlot i columns).printer.active = s.printer.active ∧ (s.loadSlot i
    columns).printer.banks = s.printer.banks ∧ (s.loadSlot i columns).printer.job = s.printer.job ∧ (s.loadSlot i
    columns).printer.head = s.printer.head := by
  simp only [State.loadSlot]
  (repeat' split) <;> simp

@[simp] theorem State.decideSetImpression_frame (s : State) (cell : Fin 8) (tag slot columns : Word) :
    (s.decideSetImpression cell tag slot columns).pending = s.pending ∧ (s.decideSetImpression cell tag slot
    columns).now = s.now ∧ (s.decideSetImpression cell tag slot columns).position = s.position ∧
    (s.decideSetImpression cell tag slot columns).lastStep = s.lastStep ∧ (s.decideSetImpression cell tag slot
    columns).samples = s.samples ∧ (s.decideSetImpression cell tag slot columns).cellUnit = s.cellUnit ∧
    (s.decideSetImpression cell tag slot columns).admission = s.admission ∧ (s.decideSetImpression cell tag slot
    columns).records = s.records ∧ (s.decideSetImpression cell tag slot columns).scan = s.scan ∧
    (s.decideSetImpression cell tag slot columns).schedule = s.schedule ∧ (s.decideSetImpression cell tag slot
    columns).gates = s.gates ∧ (s.decideSetImpression cell tag slot columns).pocket = s.pocket ∧
    (s.decideSetImpression cell tag slot columns).router = s.router ∧ (s.decideSetImpression cell tag slot
    columns).drive = s.drive ∧ (s.decideSetImpression cell tag slot columns).run = s.run ∧ (s.decideSetImpression
    cell tag slot columns).protect = s.protect ∧ (s.decideSetImpression cell tag slot columns).tally = s.tally ∧
    (s.decideSetImpression cell tag slot columns).reports = s.reports ∧ (s.decideSetImpression cell tag slot
    columns).plan = s.plan ∧ (s.decideSetImpression cell tag slot columns).planValid = s.planValid ∧
    (s.decideSetImpression cell tag slot columns).openSeq = s.openSeq ∧ (s.decideSetImpression cell tag slot
    columns).printer.active = s.printer.active ∧ (s.decideSetImpression cell tag slot columns).printer.banks =
    s.printer.banks ∧ (s.decideSetImpression cell tag slot columns).printer.job = s.printer.job ∧
    (s.decideSetImpression cell tag slot columns).printer.head = s.printer.head ∧ (s.decideSetImpression cell tag
    slot columns).port.pageAddress = s.port.pageAddress ∧ (s.decideSetImpression cell tag slot columns).port.enable
    = s.port.enable ∧ (s.decideSetImpression cell tag slot columns).port.scanTap = s.port.scanTap ∧
    (s.decideSetImpression cell tag slot columns).port.masked = s.port.masked ∧ (s.decideSetImpression cell tag slot
    columns).port.scanTimer = s.port.scanTimer ∧
    (s.decideSetImpression cell tag slot columns).port.scanLeft = s.port.scanLeft ∧ (s.decideSetImpression cell tag slot columns).port.readData = s.port.readData := by
  simp only [State.decideSetImpression]
  (repeat' split) <;> simp

@[simp] theorem State.decideLoadKiller_frame (s : State) (cell : Fin 8) (tag bank columns : Word) :
    (s.decideLoadKiller cell tag bank columns).pending = s.pending ∧ (s.decideLoadKiller cell tag bank columns).now
    = s.now ∧ (s.decideLoadKiller cell tag bank columns).position = s.position ∧ (s.decideLoadKiller cell tag bank
    columns).lastStep = s.lastStep ∧ (s.decideLoadKiller cell tag bank columns).samples = s.samples ∧
    (s.decideLoadKiller cell tag bank columns).cellUnit = s.cellUnit ∧ (s.decideLoadKiller cell tag bank
    columns).admission = s.admission ∧ (s.decideLoadKiller cell tag bank columns).records = s.records ∧
    (s.decideLoadKiller cell tag bank columns).scan = s.scan ∧ (s.decideLoadKiller cell tag bank columns).schedule =
    s.schedule ∧ (s.decideLoadKiller cell tag bank columns).gates = s.gates ∧ (s.decideLoadKiller cell tag bank
    columns).pocket = s.pocket ∧ (s.decideLoadKiller cell tag bank columns).router = s.router ∧ (s.decideLoadKiller
    cell tag bank columns).drive = s.drive ∧ (s.decideLoadKiller cell tag bank columns).run = s.run ∧
    (s.decideLoadKiller cell tag bank columns).protect = s.protect ∧ (s.decideLoadKiller cell tag bank
    columns).tally = s.tally ∧ (s.decideLoadKiller cell tag bank columns).reports = s.reports ∧ (s.decideLoadKiller
    cell tag bank columns).plan = s.plan ∧ (s.decideLoadKiller cell tag bank columns).planValid = s.planValid ∧
    (s.decideLoadKiller cell tag bank columns).openSeq = s.openSeq ∧ (s.decideLoadKiller cell tag bank
    columns).printer.slots = s.printer.slots ∧ (s.decideLoadKiller cell tag bank columns).printer.active =
    s.printer.active ∧ (s.decideLoadKiller cell tag bank columns).printer.waiting = s.printer.waiting ∧
    (s.decideLoadKiller cell tag bank columns).printer.job = s.printer.job ∧ (s.decideLoadKiller cell tag bank
    columns).printer.head = s.printer.head ∧ (s.decideLoadKiller cell tag bank columns).port.pageAddress =
    s.port.pageAddress ∧ (s.decideLoadKiller cell tag bank columns).port.enable = s.port.enable ∧
    (s.decideLoadKiller cell tag bank columns).port.scanTap = s.port.scanTap ∧ (s.decideLoadKiller cell tag bank
    columns).port.masked = s.port.masked ∧ (s.decideLoadKiller cell tag bank columns).port.scanTimer =
    s.port.scanTimer ∧
    (s.decideLoadKiller cell tag bank columns).port.scanLeft = s.port.scanLeft ∧ (s.decideLoadKiller
    cell tag bank columns).port.readData = s.port.readData := by
  simp only [State.decideLoadKiller]
  (repeat' split) <;> simp

@[simp] theorem State.decideSetStacker_frame (s : State) (cell : Fin 8) (tag stacker service : Word) :
    (s.decideSetStacker cell tag stacker service).pending = s.pending ∧ (s.decideSetStacker cell tag stacker
    service).now = s.now ∧ (s.decideSetStacker cell tag stacker service).position = s.position ∧ (s.decideSetStacker
    cell tag stacker service).lastStep = s.lastStep ∧ (s.decideSetStacker cell tag stacker service).samples =
    s.samples ∧ (s.decideSetStacker cell tag stacker service).cellUnit = s.cellUnit ∧ (s.decideSetStacker cell tag
    stacker service).admission = s.admission ∧ (s.decideSetStacker cell tag stacker service).records = s.records ∧
    (s.decideSetStacker cell tag stacker service).scan = s.scan ∧ (s.decideSetStacker cell tag stacker
    service).schedule = s.schedule ∧ (s.decideSetStacker cell tag stacker service).gates = s.gates ∧
    (s.decideSetStacker cell tag stacker service).pocket = s.pocket ∧ (s.decideSetStacker cell tag stacker
    service).printer = s.printer ∧ (s.decideSetStacker cell tag stacker service).drive = s.drive ∧
    (s.decideSetStacker cell tag stacker service).run = s.run ∧ (s.decideSetStacker cell tag stacker
    service).protect = s.protect ∧ (s.decideSetStacker cell tag stacker service).tally = s.tally ∧
    (s.decideSetStacker cell tag stacker service).reports = s.reports ∧ (s.decideSetStacker cell tag stacker
    service).plan = s.plan ∧ (s.decideSetStacker cell tag stacker service).planValid = s.planValid ∧
    (s.decideSetStacker cell tag stacker service).openSeq = s.openSeq ∧ (s.decideSetStacker cell tag stacker
    service).router.full = s.router.full ∧ (s.decideSetStacker cell tag stacker service).router.endFull =
    s.router.endFull ∧ (s.decideSetStacker cell tag stacker service).port.pageAddress = s.port.pageAddress ∧
    (s.decideSetStacker cell tag stacker service).port.enable = s.port.enable ∧ (s.decideSetStacker cell tag stacker
    service).port.scanTap = s.port.scanTap ∧ (s.decideSetStacker cell tag stacker service).port.masked =
    s.port.masked ∧ (s.decideSetStacker cell tag stacker service).port.scanTimer = s.port.scanTimer ∧
    (s.decideSetStacker cell tag stacker service).port.scanLeft = s.port.scanLeft ∧
    (s.decideSetStacker cell tag stacker
    service).port.readData = s.port.readData := by
  simp only [State.decideSetStacker]
  (repeat' split) <;> simp

@[simp] theorem State.writeTallyArea_frame (s : State) (clear : Word) :
    (s.writeTallyArea clear).pending = s.pending ∧ (s.writeTallyArea clear).now = s.now ∧ (s.writeTallyArea
    clear).position = s.position ∧ (s.writeTallyArea clear).lastStep = s.lastStep ∧ (s.writeTallyArea clear).samples
    = s.samples ∧ (s.writeTallyArea clear).cellUnit = s.cellUnit ∧ (s.writeTallyArea clear).admission = s.admission
    ∧ (s.writeTallyArea clear).records = s.records ∧ (s.writeTallyArea clear).scan = s.scan ∧ (s.writeTallyArea
    clear).schedule = s.schedule ∧ (s.writeTallyArea clear).gates = s.gates ∧ (s.writeTallyArea clear).pocket =
    s.pocket ∧ (s.writeTallyArea clear).printer = s.printer ∧ (s.writeTallyArea clear).router = s.router ∧
    (s.writeTallyArea clear).drive = s.drive ∧ (s.writeTallyArea clear).run = s.run ∧ (s.writeTallyArea
    clear).protect = s.protect ∧ (s.writeTallyArea clear).tally = s.tally ∧ (s.writeTallyArea clear).reports =
    s.reports ∧ (s.writeTallyArea clear).port = s.port ∧ (s.writeTallyArea clear).plan = s.plan ∧ (s.writeTallyArea
    clear).planValid = s.planValid ∧ (s.writeTallyArea clear).openSeq = s.openSeq := by
  simp only [State.writeTallyArea]
  simp

@[simp] theorem State.decideSnapshot_frame (s : State) (cell : Fin 8) (tag clear : Word) :
    (s.decideSnapshot cell tag clear).pending = s.pending ∧ (s.decideSnapshot cell tag clear).now = s.now ∧
    (s.decideSnapshot cell tag clear).position = s.position ∧ (s.decideSnapshot cell tag clear).lastStep =
    s.lastStep ∧ (s.decideSnapshot cell tag clear).samples = s.samples ∧ (s.decideSnapshot cell tag clear).cellUnit
    = s.cellUnit ∧ (s.decideSnapshot cell tag clear).admission = s.admission ∧ (s.decideSnapshot cell tag
    clear).records = s.records ∧ (s.decideSnapshot cell tag clear).scan = s.scan ∧ (s.decideSnapshot cell tag
    clear).schedule = s.schedule ∧ (s.decideSnapshot cell tag clear).gates = s.gates ∧ (s.decideSnapshot cell tag
    clear).pocket = s.pocket ∧ (s.decideSnapshot cell tag clear).printer = s.printer ∧ (s.decideSnapshot cell tag
    clear).router = s.router ∧ (s.decideSnapshot cell tag clear).drive = s.drive ∧ (s.decideSnapshot cell tag
    clear).run = s.run ∧ (s.decideSnapshot cell tag clear).protect = s.protect ∧ (s.decideSnapshot cell tag
    clear).reports = s.reports ∧ (s.decideSnapshot cell tag clear).plan = s.plan ∧ (s.decideSnapshot cell tag
    clear).planValid = s.planValid ∧ (s.decideSnapshot cell tag clear).openSeq = s.openSeq ∧ (s.decideSnapshot cell
    tag clear).port.pageAddress = s.port.pageAddress ∧ (s.decideSnapshot cell tag clear).port.enable = s.port.enable
    ∧ (s.decideSnapshot cell tag clear).port.scanTap = s.port.scanTap ∧ (s.decideSnapshot cell tag
    clear).port.masked = s.port.masked ∧ (s.decideSnapshot cell tag clear).port.scanTimer = s.port.scanTimer ∧
    (s.decideSnapshot cell tag clear).port.scanLeft = s.port.scanLeft ∧
    (s.decideSnapshot cell tag clear).port.readData
    = s.port.readData := by
  simp only [State.decideSnapshot]
  (repeat' split) <;> simp

@[simp] theorem State.decideCloseTray_frame (s : State) (cell : Fin 8) (tag : Word) :
    (s.decideCloseTray cell tag).pending = s.pending ∧ (s.decideCloseTray cell tag).now = s.now ∧ (s.decideCloseTray
    cell tag).position = s.position ∧ (s.decideCloseTray cell tag).lastStep = s.lastStep ∧ (s.decideCloseTray cell
    tag).samples = s.samples ∧ (s.decideCloseTray cell tag).cellUnit = s.cellUnit ∧ (s.decideCloseTray cell
    tag).admission = s.admission ∧ (s.decideCloseTray cell tag).records = s.records ∧ (s.decideCloseTray cell
    tag).scan = s.scan ∧ (s.decideCloseTray cell tag).schedule = s.schedule ∧ (s.decideCloseTray cell tag).gates =
    s.gates ∧ (s.decideCloseTray cell tag).pocket = s.pocket ∧ (s.decideCloseTray cell tag).printer = s.printer ∧
    (s.decideCloseTray cell tag).router = s.router ∧ (s.decideCloseTray cell tag).drive = s.drive ∧
    (s.decideCloseTray cell tag).protect = s.protect ∧ (s.decideCloseTray cell tag).tally = s.tally ∧
    (s.decideCloseTray cell tag).plan = s.plan ∧ (s.decideCloseTray cell tag).planValid = s.planValid ∧
    (s.decideCloseTray cell tag).openSeq = s.openSeq ∧ (s.decideCloseTray cell tag).run.state = s.run.state ∧
    (s.decideCloseTray cell tag).run.request = s.run.request ∧ (s.decideCloseTray cell tag).run.hold.endFull =
    s.run.hold.endFull ∧ (s.decideCloseTray cell tag).run.hold.mergeGap = s.run.hold.mergeGap ∧ (s.decideCloseTray
    cell tag).port.pageAddress = s.port.pageAddress ∧ (s.decideCloseTray cell tag).port.enable = s.port.enable ∧
    (s.decideCloseTray cell tag).port.scanTap = s.port.scanTap ∧ (s.decideCloseTray cell tag).port.masked =
    s.port.masked ∧ (s.decideCloseTray cell tag).port.scanTimer = s.port.scanTimer ∧
    (s.decideCloseTray cell tag).port.scanLeft = s.port.scanLeft ∧ (s.decideCloseTray cell tag).port.readData = s.port.readData := by
  simp only [State.decideCloseTray]
  (repeat' split) <;> simp

@[simp] theorem State.purgePiece_frame (s : State) (p : PieceNo) :
    (s.purgePiece p).pending = s.pending ∧ (s.purgePiece p).now = s.now ∧ (s.purgePiece p).position = s.position ∧
    (s.purgePiece p).lastStep = s.lastStep ∧ (s.purgePiece p).samples = s.samples ∧ (s.purgePiece p).admission =
    s.admission ∧ (s.purgePiece p).router = s.router ∧ (s.purgePiece p).drive = s.drive ∧ (s.purgePiece p).protect =
    s.protect ∧ (s.purgePiece p).plan = s.plan ∧ (s.purgePiece p).planValid = s.planValid ∧ (s.purgePiece p).mem =
    s.mem ∧ (s.purgePiece p).openSeq = s.openSeq ∧ (s.purgePiece p).run.state = s.run.state ∧ (s.purgePiece
    p).run.request = s.run.request ∧ (s.purgePiece p).run.hold.endFull = s.run.hold.endFull ∧ (s.purgePiece
    p).printer.active = s.printer.active ∧ (s.purgePiece p).printer.waiting = s.printer.waiting ∧ (s.purgePiece
    p).printer.banks = s.printer.banks ∧ (s.purgePiece p).printer.head = s.printer.head ∧ (s.purgePiece
    p).reports.tray = s.reports.tray ∧ (s.purgePiece p).reports.starved = s.reports.starved ∧ (s.purgePiece
    p).reports.closeDue = s.reports.closeDue ∧ (s.purgePiece p).port.pageAddress = s.port.pageAddress ∧
    (s.purgePiece p).port.enable = s.port.enable ∧ (s.purgePiece p).port.scanTap = s.port.scanTap ∧ (s.purgePiece
    p).port.masked = s.port.masked ∧ (s.purgePiece p).port.scanTimer = s.port.scanTimer ∧
    (s.purgePiece p).port.scanLeft = s.port.scanLeft ∧ (s.purgePiece p).port.readData = s.port.readData ∧ (s.purgePiece
    p).tally.snapshot = s.tally.snapshot := by
  simp only [State.purgePiece]
  (repeat' split) <;> simp

@[simp] theorem State.purgeAll_frame (s : State) :
    s.purgeAll.pending = s.pending ∧ s.purgeAll.now = s.now ∧ s.purgeAll.position = s.position ∧ s.purgeAll.lastStep
    = s.lastStep ∧ s.purgeAll.samples = s.samples ∧ s.purgeAll.admission = s.admission ∧ s.purgeAll.router =
    s.router ∧ s.purgeAll.drive = s.drive ∧ s.purgeAll.protect = s.protect ∧ s.purgeAll.plan = s.plan ∧
    s.purgeAll.planValid = s.planValid ∧ s.purgeAll.mem = s.mem ∧ s.purgeAll.openSeq = s.openSeq ∧
    s.purgeAll.run.state = s.run.state ∧ s.purgeAll.run.request = s.run.request ∧ s.purgeAll.run.hold.endFull =
    s.run.hold.endFull ∧ s.purgeAll.printer.active = s.printer.active ∧ s.purgeAll.printer.waiting =
    s.printer.waiting ∧ s.purgeAll.printer.banks = s.printer.banks ∧ s.purgeAll.printer.head = s.printer.head ∧
    s.purgeAll.reports.tray = s.reports.tray ∧ s.purgeAll.reports.starved = s.reports.starved ∧
    s.purgeAll.reports.closeDue = s.reports.closeDue ∧ s.purgeAll.port.pageAddress = s.port.pageAddress ∧
    s.purgeAll.port.enable = s.port.enable ∧ s.purgeAll.port.scanTap = s.port.scanTap ∧ s.purgeAll.port.masked =
    s.port.masked ∧ s.purgeAll.port.scanTimer = s.port.scanTimer ∧
    s.purgeAll.port.scanLeft = s.port.scanLeft ∧ s.purgeAll.port.readData = s.port.readData ∧ s.purgeAll.tally.snapshot = s.tally.snapshot := by
  simp only [State.purgeAll]
  exact ⟨foldl_keep _ (fun t : State => t.pending) (by intros; simp) _ _,
    foldl_keep _ (fun t : State => t.now) (by intros; simp) _ _,
    foldl_keep _ (fun t : State => t.position) (by intros; simp) _ _,
    foldl_keep _ (fun t : State => t.lastStep) (by intros; simp) _ _,
    foldl_keep _ (fun t : State => t.samples) (by intros; simp) _ _,
    foldl_keep _ (fun t : State => t.admission) (by intros; simp) _ _,
    foldl_keep _ (fun t : State => t.router) (by intros; simp) _ _,
    foldl_keep _ (fun t : State => t.drive) (by intros; simp) _ _,
    foldl_keep _ (fun t : State => t.protect) (by intros; simp) _ _,
    foldl_keep _ (fun t : State => t.plan) (by intros; simp) _ _,
    foldl_keep _ (fun t : State => t.planValid) (by intros; simp) _ _,
    foldl_keep _ (fun t : State => t.mem) (by intros; simp) _ _,
    foldl_keep _ (fun t : State => t.openSeq) (by intros; simp) _ _,
    foldl_keep _ (fun t : State => t.run.state) (by intros; simp) _ _,
    foldl_keep _ (fun t : State => t.run.request) (by intros; simp) _ _,
    foldl_keep _ (fun t : State => t.run.hold.endFull) (by intros; simp) _ _,
    foldl_keep _ (fun t : State => t.printer.active) (by intros; simp) _ _,
    foldl_keep _ (fun t : State => t.printer.waiting) (by intros; simp) _ _,
    foldl_keep _ (fun t : State => t.printer.banks) (by intros; simp) _ _,
    foldl_keep _ (fun t : State => t.printer.head) (by intros; simp) _ _,
    foldl_keep _ (fun t : State => t.reports.tray) (by intros; simp) _ _,
    foldl_keep _ (fun t : State => t.reports.starved) (by intros; simp) _ _,
    foldl_keep _ (fun t : State => t.reports.closeDue) (by intros; simp) _ _,
    foldl_keep _ (fun t : State => t.port.pageAddress) (by intros; simp) _ _,
    foldl_keep _ (fun t : State => t.port.enable) (by intros; simp) _ _,
    foldl_keep _ (fun t : State => t.port.scanTap) (by intros; simp) _ _,
    foldl_keep _ (fun t : State => t.port.masked) (by intros; simp) _ _,
    foldl_keep _ (fun t : State => t.port.scanTimer) (by intros; simp) _ _,
    foldl_keep _ (fun t : State => t.port.scanLeft) (by intros; simp) _ _,
    foldl_keep _ (fun t : State => t.port.readData) (by intros; simp) _ _,
    foldl_keep _ (fun t : State => t.tally.snapshot) (by intros; simp) _ _⟩

@[simp] theorem State.purge_frame (s : State) :
    s.purge.pending = s.pending ∧ s.purge.now = s.now ∧ s.purge.position = s.position ∧ s.purge.lastStep =
    s.lastStep ∧ s.purge.samples = s.samples ∧ s.purge.admission = s.admission ∧ s.purge.router = s.router ∧
    s.purge.plan = s.plan ∧ s.purge.planValid = s.planValid ∧ s.purge.openSeq = s.openSeq ∧ s.purge.run.hold.endFull
    = s.run.hold.endFull ∧ s.purge.protect.guardIsOpen = s.protect.guardIsOpen ∧ s.purge.printer.active =
    s.printer.active ∧ s.purge.printer.waiting = s.printer.waiting ∧ s.purge.printer.banks = s.printer.banks ∧
    s.purge.printer.head = s.printer.head ∧ s.purge.drive.still = s.drive.still ∧ s.purge.drive.stillTimer =
    s.drive.stillTimer ∧ s.purge.port.pageAddress = s.port.pageAddress ∧ s.purge.port.enable = s.port.enable ∧
    s.purge.port.scanTap = s.port.scanTap ∧ s.purge.port.masked = s.port.masked ∧ s.purge.port.scanTimer =
    s.port.scanTimer ∧
    s.purge.port.scanLeft = s.port.scanLeft ∧ s.purge.port.readData = s.port.readData ∧
    s.purge.tally.snapshot = s.tally.snapshot := by
  simp only [State.purge]
  simp

@[simp] theorem State.decideClearJam_frame (s : State) (cell : Fin 8) (tag : Word) :
    (s.decideClearJam cell tag).pending = s.pending ∧ (s.decideClearJam cell tag).now = s.now ∧ (s.decideClearJam
    cell tag).position = s.position ∧ (s.decideClearJam cell tag).lastStep = s.lastStep ∧ (s.decideClearJam cell
    tag).samples = s.samples ∧ (s.decideClearJam cell tag).admission = s.admission ∧ (s.decideClearJam cell
    tag).router = s.router ∧ (s.decideClearJam cell tag).plan = s.plan ∧ (s.decideClearJam cell tag).planValid =
    s.planValid ∧ (s.decideClearJam cell tag).openSeq = s.openSeq ∧ (s.decideClearJam cell tag).run.hold.endFull =
    s.run.hold.endFull ∧ (s.decideClearJam cell tag).protect.guardIsOpen = s.protect.guardIsOpen ∧ (s.decideClearJam
    cell tag).printer.active = s.printer.active ∧ (s.decideClearJam cell tag).printer.waiting = s.printer.waiting ∧
    (s.decideClearJam cell tag).printer.banks = s.printer.banks ∧ (s.decideClearJam cell tag).printer.head =
    s.printer.head ∧ (s.decideClearJam cell tag).drive.still = s.drive.still ∧ (s.decideClearJam cell
    tag).drive.stillTimer = s.drive.stillTimer ∧ (s.decideClearJam cell tag).port.pageAddress = s.port.pageAddress ∧
    (s.decideClearJam cell tag).port.enable = s.port.enable ∧ (s.decideClearJam cell tag).port.scanTap =
    s.port.scanTap ∧ (s.decideClearJam cell tag).port.masked = s.port.masked ∧ (s.decideClearJam cell
    tag).port.scanTimer = s.port.scanTimer ∧
    (s.decideClearJam cell tag).port.scanLeft = s.port.scanLeft ∧ (s.decideClearJam cell tag).port.readData = s.port.readData ∧ (s.decideClearJam cell tag).tally.snapshot =
    s.tally.snapshot := by
  simp only [State.decideClearJam]
  (repeat' split) <;> simp

@[simp] theorem State.writeStatus_frame (s : State) :
    s.writeStatus.pending = s.pending ∧ s.writeStatus.now = s.now ∧ s.writeStatus.position = s.position ∧
    s.writeStatus.lastStep = s.lastStep ∧ s.writeStatus.samples = s.samples ∧ s.writeStatus.cellUnit = s.cellUnit ∧
    s.writeStatus.admission = s.admission ∧ s.writeStatus.records = s.records ∧ s.writeStatus.scan = s.scan ∧
    s.writeStatus.schedule = s.schedule ∧ s.writeStatus.gates = s.gates ∧ s.writeStatus.pocket = s.pocket ∧
    s.writeStatus.printer = s.printer ∧ s.writeStatus.router = s.router ∧ s.writeStatus.drive = s.drive ∧
    s.writeStatus.run = s.run ∧ s.writeStatus.protect = s.protect ∧ s.writeStatus.tally = s.tally ∧
    s.writeStatus.reports = s.reports ∧ s.writeStatus.port = s.port ∧ s.writeStatus.plan = s.plan ∧
    s.writeStatus.planValid = s.planValid ∧ s.writeStatus.openSeq = s.openSeq := by
  simp only [State.writeStatus]
  simp

@[simp] theorem State.scanTrays_frame (s : State) :
    s.scanTrays.pending = s.pending ∧ s.scanTrays.now = s.now ∧ s.scanTrays.position = s.position ∧
    s.scanTrays.lastStep = s.lastStep ∧ s.scanTrays.samples = s.samples ∧ s.scanTrays.cellUnit = s.cellUnit ∧
    s.scanTrays.admission = s.admission ∧ s.scanTrays.records = s.records ∧ s.scanTrays.scan = s.scan ∧
    s.scanTrays.schedule = s.schedule ∧ s.scanTrays.gates = s.gates ∧ s.scanTrays.pocket = s.pocket ∧
    s.scanTrays.printer = s.printer ∧ s.scanTrays.router = s.router ∧ s.scanTrays.drive = s.drive ∧
    s.scanTrays.protect = s.protect ∧ s.scanTrays.tally = s.tally ∧ s.scanTrays.plan = s.plan ∧
    s.scanTrays.planValid = s.planValid ∧ s.scanTrays.openSeq = s.openSeq ∧ s.scanTrays.run.state = s.run.state ∧
    s.scanTrays.run.request = s.run.request ∧ s.scanTrays.run.hold.endFull = s.run.hold.endFull ∧
    s.scanTrays.run.hold.mergeGap = s.run.hold.mergeGap ∧ s.scanTrays.port.pageAddress = s.port.pageAddress ∧
    s.scanTrays.port.enable = s.port.enable ∧ s.scanTrays.port.scanTap = s.port.scanTap ∧ s.scanTrays.port.masked =
    s.port.masked ∧ s.scanTrays.port.scanTimer = s.port.scanTimer ∧
    s.scanTrays.port.scanLeft = s.port.scanLeft ∧ s.scanTrays.port.readData = s.port.readData := by
  simp only [State.scanTrays]
  (repeat' split) <;> simp

/-- What the taking and deciding of any request leaves alone. -/
@[simp] theorem State.decideRequest_frame (s : State) (q : Request) :
    (s.decideRequest q).pending = s.pending ∧ (s.decideRequest q).now = s.now ∧ (s.decideRequest q).position =
    s.position ∧ (s.decideRequest q).lastStep = s.lastStep ∧ (s.decideRequest q).samples = s.samples ∧
    (s.decideRequest q).openSeq = s.openSeq ∧ (s.decideRequest q).admission.nextPiece = s.admission.nextPiece ∧
    (s.decideRequest q).protect.guardIsOpen = s.protect.guardIsOpen ∧ (s.decideRequest q).port.pageAddress =
    s.port.pageAddress ∧ (s.decideRequest q).port.enable = s.port.enable ∧ (s.decideRequest q).port.scanTap =
    s.port.scanTap ∧ (s.decideRequest q).port.masked = s.port.masked ∧ (s.decideRequest q).port.scanTimer =
    s.port.scanTimer ∧
    (s.decideRequest q).port.scanLeft = s.port.scanLeft ∧ (s.decideRequest q).port.readData = s.port.readData := by
  simp only [State.decideRequest, State.onRequest]
  (repeat' split) <;> simp

@[simp] theorem State.scanCell_frame (s : State) (i : Fin 8) :
    (s.scanCell i).pending = s.pending ∧ (s.scanCell i).now = s.now ∧ (s.scanCell i).position = s.position ∧
    (s.scanCell i).lastStep = s.lastStep ∧ (s.scanCell i).samples = s.samples ∧ (s.scanCell i).openSeq = s.openSeq ∧
    (s.scanCell i).admission.nextPiece = s.admission.nextPiece ∧ (s.scanCell i).protect.guardIsOpen =
    s.protect.guardIsOpen ∧ (s.scanCell i).port.pageAddress = s.port.pageAddress ∧ (s.scanCell i).port.enable =
    s.port.enable ∧ (s.scanCell i).port.scanTap = s.port.scanTap ∧ (s.scanCell i).port.masked = s.port.masked ∧
    (s.scanCell i).port.scanTimer = s.port.scanTimer ∧
    (s.scanCell i).port.scanLeft = s.port.scanLeft ∧ (s.scanCell i).port.readData = s.port.readData := by
  simp only [State.scanCell]
  (repeat' split) <;> simp

@[simp] theorem State.scanPart_frame (s : State) (p : ScanPart) :
    (s.scanPart p).pending = s.pending ∧ (s.scanPart p).now = s.now ∧ (s.scanPart p).position = s.position ∧ (s.scanPart
    p).lastStep = s.lastStep ∧ (s.scanPart p).samples = s.samples ∧ (s.scanPart p).openSeq = s.openSeq ∧ (s.scanPart
    p).admission.nextPiece = s.admission.nextPiece ∧ (s.scanPart p).protect.guardIsOpen = s.protect.guardIsOpen ∧ (s.scanPart
    p).port.pageAddress = s.port.pageAddress ∧ (s.scanPart p).port.enable = s.port.enable ∧ (s.scanPart p).port.scanTap =
    s.port.scanTap ∧ (s.scanPart p).port.masked = s.port.masked ∧ (s.scanPart p).port.scanTimer = s.port.scanTimer ∧
    (s.scanPart p).port.scanLeft = s.port.scanLeft ∧ (s.scanPart p).port.readData = s.port.readData := by
  cases p <;> simp [State.scanPart]

/-- What working some parts of a page scan leaves alone; the parts still to come are those not worked. -/
@[simp] theorem State.workScan_frame (s : State) (n : Nat) :
    (s.workScan n).pending = s.pending ∧ (s.workScan n).now = s.now ∧ (s.workScan n).position = s.position ∧ (s.workScan
    n).lastStep = s.lastStep ∧ (s.workScan n).samples = s.samples ∧ (s.workScan n).openSeq = s.openSeq ∧ (s.workScan
    n).admission.nextPiece = s.admission.nextPiece ∧ (s.workScan n).protect.guardIsOpen = s.protect.guardIsOpen ∧ (s.workScan
    n).port.pageAddress = s.port.pageAddress ∧ (s.workScan n).port.enable = s.port.enable ∧ (s.workScan n).port.scanTap =
    s.port.scanTap ∧ (s.workScan n).port.masked = s.port.masked ∧ (s.workScan n).port.scanTimer = s.port.scanTimer ∧
    (s.workScan n).port.readData = s.port.readData ∧ (s.workScan n).port.scanLeft = s.port.scanLeft.drop n := by
  induction n generalizing s with
  | zero => simp [State.workScan]
  | succ n ih =>
    simp only [State.workScan]
    split
    · rename_i h
      simp [h]
    · rename_i h
      rw [h]
      simp only [ih]
      simp

@[simp] theorem State.applyStores_frame (s : State) (stores : List LineStore) :
    (s.applyStores stores).pending = s.pending ∧ (s.applyStores stores).now = s.now ∧ (s.applyStores
    stores).position = s.position ∧ (s.applyStores stores).lastStep = s.lastStep ∧ (s.applyStores stores).samples =
    s.samples ∧ (s.applyStores stores).cellUnit = s.cellUnit ∧ (s.applyStores stores).admission = s.admission ∧
    (s.applyStores stores).records = s.records ∧ (s.applyStores stores).scan = s.scan ∧ (s.applyStores
    stores).schedule = s.schedule ∧ (s.applyStores stores).gates = s.gates ∧ (s.applyStores stores).pocket =
    s.pocket ∧ (s.applyStores stores).printer = s.printer ∧ (s.applyStores stores).router = s.router ∧
    (s.applyStores stores).drive = s.drive ∧ (s.applyStores stores).run = s.run ∧ (s.applyStores stores).protect =
    s.protect ∧ (s.applyStores stores).tally = s.tally ∧ (s.applyStores stores).reports = s.reports ∧ (s.applyStores
    stores).port = s.port ∧ (s.applyStores stores).plan = s.plan ∧ (s.applyStores stores).planValid = s.planValid ∧
    (s.applyStores stores).openSeq = s.openSeq := by
  simp only [State.applyStores]
  exact ⟨foldl_keep _ (fun t : State => t.pending) (by intros; simp) _ _,
    foldl_keep _ (fun t : State => t.now) (by intros; simp) _ _,
    foldl_keep _ (fun t : State => t.position) (by intros; simp) _ _,
    foldl_keep _ (fun t : State => t.lastStep) (by intros; simp) _ _,
    foldl_keep _ (fun t : State => t.samples) (by intros; simp) _ _,
    foldl_keep _ (fun t : State => t.cellUnit) (by intros; simp) _ _,
    foldl_keep _ (fun t : State => t.admission) (by intros; simp) _ _,
    foldl_keep _ (fun t : State => t.records) (by intros; simp) _ _,
    foldl_keep _ (fun t : State => t.scan) (by intros; simp) _ _,
    foldl_keep _ (fun t : State => t.schedule) (by intros; simp) _ _,
    foldl_keep _ (fun t : State => t.gates) (by intros; simp) _ _,
    foldl_keep _ (fun t : State => t.pocket) (by intros; simp) _ _,
    foldl_keep _ (fun t : State => t.printer) (by intros; simp) _ _,
    foldl_keep _ (fun t : State => t.router) (by intros; simp) _ _,
    foldl_keep _ (fun t : State => t.drive) (by intros; simp) _ _,
    foldl_keep _ (fun t : State => t.run) (by intros; simp) _ _,
    foldl_keep _ (fun t : State => t.protect) (by intros; simp) _ _,
    foldl_keep _ (fun t : State => t.tally) (by intros; simp) _ _,
    foldl_keep _ (fun t : State => t.reports) (by intros; simp) _ _,
    foldl_keep _ (fun t : State => t.port) (by intros; simp) _ _,
    foldl_keep _ (fun t : State => t.plan) (by intros; simp) _ _,
    foldl_keep _ (fun t : State => t.planValid) (by intros; simp) _ _,
    foldl_keep _ (fun t : State => t.openSeq) (by intros; simp) _ _⟩

@[simp] theorem State.writeScanTap_frame (s : State) (tap : BitVec 3) :
    (s.writeScanTap tap).pending = s.pending ∧ (s.writeScanTap tap).now = s.now ∧ (s.writeScanTap tap).position =
    s.position ∧ (s.writeScanTap tap).lastStep = s.lastStep ∧ (s.writeScanTap tap).samples = s.samples ∧
    (s.writeScanTap tap).cellUnit = s.cellUnit ∧ (s.writeScanTap tap).admission = s.admission ∧ (s.writeScanTap
    tap).records = s.records ∧ (s.writeScanTap tap).scan = s.scan ∧ (s.writeScanTap tap).schedule = s.schedule ∧
    (s.writeScanTap tap).gates = s.gates ∧ (s.writeScanTap tap).pocket = s.pocket ∧ (s.writeScanTap tap).printer =
    s.printer ∧ (s.writeScanTap tap).router = s.router ∧ (s.writeScanTap tap).drive = s.drive ∧ (s.writeScanTap
    tap).run = s.run ∧ (s.writeScanTap tap).protect = s.protect ∧ (s.writeScanTap tap).tally = s.tally ∧
    (s.writeScanTap tap).reports = s.reports ∧ (s.writeScanTap tap).plan = s.plan ∧ (s.writeScanTap tap).planValid =
    s.planValid ∧ (s.writeScanTap tap).mem = s.mem ∧ (s.writeScanTap tap).openSeq = s.openSeq ∧ (s.writeScanTap
    tap).port.pageAddress = s.port.pageAddress ∧ (s.writeScanTap tap).port.enable = s.port.enable ∧ (s.writeScanTap
    tap).port.masked = s.port.masked ∧ (s.writeScanTap tap).port.scanTimer = s.port.scanTimer ∧
    (s.writeScanTap tap).port.scanLeft = s.port.scanLeft ∧ (s.writeScanTap tap).port.readData = s.port.readData := by
  simp only [State.writeScanTap]
  (repeat' split) <;> simp

end Sys2Proof.Machine
end

