-- ==== Sys2Proof/Laws/Memory.lean ====
section
/-! SUPPORT. Line memory: a read after a write, the bytes a write leaves alone, and the canonical form under every store. -/

namespace Sys2Proof.Machine

/-! ## One byte -/

theorem Memory.read_eq_zero_of_lt {m : Memory} {lo a : Nat} (h : Memory.wfFrom lo m = true) (ha : a < lo) :
    m.read a = 0 := by
  induction m generalizing lo with
  | nil => rfl
  | cons c t ih =>
    obtain ⟨k, v⟩ := c
    simp only [Memory.wfFrom, Bool.and_eq_true, decide_eq_true_eq] at h
    have hk : k ≠ a := by omega
    simp only [Memory.read, if_neg hk]
    exact ih h.2 (by omega)

theorem Memory.wfFrom_mono {m : Memory} {lo lo' : Nat} (h : Memory.wfFrom lo m = true) (hl : lo' ≤ lo) :
    Memory.wfFrom lo' m = true := by
  cases m with
  | nil => rfl
  | cons c t =>
    obtain ⟨k, v⟩ := c
    simp only [Memory.wfFrom, Bool.and_eq_true, decide_eq_true_eq] at h ⊢
    exact ⟨⟨⟨by omega, h.1.1.2⟩, h.1.2⟩, h.2⟩

/-- The byte written is the byte read, in a memory of canonical form. -/
theorem Memory.read_write_same {m : Memory} {lo : Nat} (h : Memory.wfFrom lo m = true) (a : Nat) (v : Byte) :
    (m.write a v).read a = v := by
  induction m generalizing lo with
  | nil => simp only [Memory.write]; split <;> simp_all [Memory.read]
  | cons c t ih =>
    obtain ⟨k, w⟩ := c
    have h' := h
    simp only [Memory.wfFrom, Bool.and_eq_true, decide_eq_true_eq] at h
    simp only [Memory.write]
    split
    · split
      · rename_i hlt hv
        subst hv
        exact Memory.read_eq_zero_of_lt (lo := k) (by
          simp only [Memory.wfFrom, Bool.and_eq_true, decide_eq_true_eq]
          exact ⟨⟨⟨Nat.le_refl k, h.1.1.2⟩, h.1.2⟩, h.2⟩) hlt
      · simp [Memory.read]
    · split
      · rename_i hak
        subst hak
        split
        · rename_i hv
          subst hv
          exact Memory.read_eq_zero_of_lt h.2 (by omega)
        · simp [Memory.read]
      · rename_i hne
        have hk : k ≠ a := fun e => hne e.symm
        simp only [Memory.read, if_neg hk]
        exact ih h.2

/-- A write leaves every other byte alone. -/
theorem Memory.read_write_other (m : Memory) {a b : Nat} (v : Byte) (hab : b ≠ a) : (m.write a v).read b = m.read b := by
  have hab' : a ≠ b := fun e => hab e.symm
  induction m with
  | nil => simp only [Memory.write]; split <;> simp [Memory.read, hab']
  | cons c t ih =>
    obtain ⟨k, w⟩ := c
    simp only [Memory.write]
    split
    · split
      · rfl
      · simp [Memory.read, hab']
    · split
      · rename_i hak
        subst hak
        split <;> simp [Memory.read, hab']
      · simp only [Memory.read, ih]

/-- A write keeps the canonical form. -/
theorem Memory.wfFrom_write {m : Memory} {lo a : Nat} (h : Memory.wfFrom lo m = true) (hlo : lo ≤ a)
    (ha : a < 4294967296) (v : Byte) : Memory.wfFrom lo (m.write a v) = true := by
  induction m generalizing lo with
  | nil => simp only [Memory.write]; split <;> simp_all [Memory.wfFrom]
  | cons c t ih =>
    obtain ⟨k, w⟩ := c
    have h' := h
    simp only [Memory.wfFrom, Bool.and_eq_true, decide_eq_true_eq] at h
    simp only [Memory.write]
    split
    · rename_i hlt
      split
      · exact h'
      · rename_i hv
        simp only [Memory.wfFrom, Bool.and_eq_true, decide_eq_true_eq]
        exact ⟨⟨⟨hlo, ha⟩, by simpa using hv⟩, ⟨⟨by omega, h.1.1.2⟩, h.1.2⟩, h.2⟩
    · split
      · rename_i hak
        subst hak
        split
        · exact Memory.wfFrom_mono h.2 (by omega)
        · rename_i hv
          simp only [Memory.wfFrom, Bool.and_eq_true, decide_eq_true_eq]
          exact ⟨⟨⟨hlo, ha⟩, by simpa using hv⟩, h.2⟩
      · simp only [Memory.wfFrom, Bool.and_eq_true, decide_eq_true_eq]
        exact ⟨⟨⟨h.1.1.1, h.1.1.2⟩, h.1.2⟩, ih h.2 (by omega)⟩

theorem Memory.wf_write {m : Memory} {a : Nat} (h : m.wf = true) (ha : a < 4294967296) (v : Byte) :
    (m.write a v).wf = true :=
  Memory.wfFrom_write h (Nat.zero_le a) ha v

/-! ## Words -/

theorem Memory.wf_writeWord {m : Memory} (h : m.wf = true) (a w : Word) : (m.writeWord a w).wf = true :=
  Memory.wf_write (Memory.wf_write (Memory.wf_write (Memory.wf_write h a.isLt _) (a + 1).isLt _) (a + 2).isLt _)
    (a + 3).isLt _

theorem Memory.wf_writeWords {m : Memory} (h : m.wf = true) (a : Word) (ws : List Word) : (m.writeWords a ws).wf = true := by
  induction ws generalizing m a with
  | nil => exact h
  | cons w t ih => exact ih (Memory.wf_writeWord h a w) (a + 4)

/-- A word store leaves every byte outside the word alone. -/
theorem Memory.read_writeWord_other (m : Memory) (a w : Word) {b : Nat} (h : b ∉ wordBytes a) :
    (m.writeWord a w).read b = m.read b := by
  simp only [wordBytes, List.mem_cons, List.not_mem_nil, or_false, not_or] at h
  simp only [Memory.writeWord]
  rw [Memory.read_write_other _ _ h.2.2.2, Memory.read_write_other _ _ h.2.2.1, Memory.read_write_other _ _ h.2.1,
    Memory.read_write_other _ _ h.1]

theorem Memory.read_write_get {m : Memory} (h : m.wf = true) (a : Nat) (v : Byte) : (m.write a v).read a = v :=
  Memory.read_write_same h a v

/-- The word stored is the word read, in a memory of canonical form. -/
theorem Memory.readWord_writeWord_same {m : Memory} (h : m.wf = true) (a w : Word) : (m.writeWord a w).readWord a = w := by
  have n10 : (a + 1).toNat ≠ a.toNat := by bv_omega
  have n20 : (a + 2).toNat ≠ a.toNat := by bv_omega
  have n30 : (a + 3).toNat ≠ a.toNat := by bv_omega
  have n21 : (a + 2).toNat ≠ (a + 1).toNat := by bv_omega
  have n31 : (a + 3).toNat ≠ (a + 1).toNat := by bv_omega
  have n32 : (a + 3).toNat ≠ (a + 2).toNat := by bv_omega
  have h1 := Memory.wf_write h a.isLt (w.extractLsb' 0 8)
  have h2 := Memory.wf_write h1 (a + 1).isLt (w.extractLsb' 8 8)
  have h3 := Memory.wf_write h2 (a + 2).isLt (w.extractLsb' 16 8)
  simp only [Memory.readWord, Memory.writeWord]
  rw [Memory.read_write_get h3, Memory.read_write_other _ _ (Ne.symm n32), Memory.read_write_get h2,
    Memory.read_write_other _ _ (Ne.symm n31), Memory.read_write_other _ _ (Ne.symm n21), Memory.read_write_get h1,
    Memory.read_write_other _ _ (Ne.symm n30), Memory.read_write_other _ _ (Ne.symm n20),
    Memory.read_write_other _ _ (Ne.symm n10), Memory.read_write_get h]
  ext i hi
  simp only [BitVec.getElem_append, BitVec.getElem_extractLsb']
  split
  · simp [BitVec.getLsbD_eq_getElem hi]
  · split
    · rw [BitVec.getElem_eq_testBit_toNat, BitVec.testBit_toNat]
      congr 1
      omega
    · split
      · rw [BitVec.getElem_eq_testBit_toNat, BitVec.testBit_toNat]
        congr 1
        omega
      · rw [BitVec.getElem_eq_testBit_toNat, BitVec.testBit_toNat]
        congr 1
        omega

/-- A word store leaves the reading of a word apart from it alone. -/
theorem Memory.readWord_writeWord_other (m : Memory) (a b w : Word) (h : wordsApart b a) :
    (m.writeWord a w).readWord b = m.readWord b := by
  have hb : ∀ x ∈ wordBytes b, (m.writeWord a w).read x = m.read x :=
    fun x hx => Memory.read_writeWord_other m a w (h x hx)
  simp only [Memory.readWord]
  rw [hb _ (by simp [wordBytes]), hb _ (by simp [wordBytes]), hb _ (by simp [wordBytes]), hb _ (by simp [wordBytes])]

/-- Two word-sized stretches of one page, given by word-aligned offsets, are apart unless the offsets are equal. -/
theorem wordsApart_of_offsets (p : Word) {m n : Nat} (hm : m + 3 < 4294967296) (hn : n + 3 < 4294967296)
    (h : m + 3 < n ∨ n + 3 < m) : wordsApart (p + BitVec.ofNat 32 m) (p + BitVec.ofNat 32 n) := by
  intro x hx hy
  simp only [wordBytes, List.mem_cons, List.not_mem_nil, or_false, BitVec.toNat_add, BitVec.toNat_ofNat,
    BitVec.ofNat_eq_ofNat] at hx hy
  have := p.isLt
  omega

/-- A store of words leaves every byte outside them alone. -/
theorem Memory.read_writeWords_other (m : Memory) (a : Word) (ws : List Word) {b : Nat} (h : b ∉ wordsBytes a ws) :
    (m.writeWords a ws).read b = m.read b := by
  induction ws generalizing m a with
  | nil => rfl
  | cons w t ih =>
    simp only [wordsBytes, List.mem_append, not_or] at h
    rw [Memory.writeWords, ih _ _ h.2, Memory.read_writeWord_other _ _ _ h.1]

/-! ## The stores of the machine keep the canonical form -/

theorem State.wf_storeWord {s : State} (h : s.mem.wf = true) (a w : Word) : (s.storeWord a w).mem.wf = true :=
  Memory.wf_writeWord h a w

theorem State.wf_storeWords {s : State} (h : s.mem.wf = true) (a : Word) (ws : List Word) :
    (s.storeWords a ws).mem.wf = true :=
  Memory.wf_writeWords h a ws

theorem State.wf_applyStores {s : State} (h : s.mem.wf = true) (l : List LineStore) :
    (s.applyStores l).mem.wf = true := by
  simp only [State.applyStores]
  induction l generalizing s with
  | nil => exact h
  | cons x t ih => exact ih (State.wf_storeWord h x.addr x.value)

theorem State.reset_mem_wf : State.reset.mem.wf = true := rfl

end Sys2Proof.Machine
end

