-- ==== Sys2Proof/Laws/Ops.lean ====
section
/-! SUPPORT. For each shared operation, what it does, said once: later proofs cite these instead of unfolding the operation. -/

namespace Sys2Proof.Machine

/-! ## Indexed stores -/

@[simp] theorem get_put_same {α : Type} {n : Nat} (v : Vector α n) (i : Fin n) (x : α) : (put v i x).get i = x := by
  change (v.set i.val x i.isLt)[i.val] = x
  simp

theorem get_put_other {α : Type} {n : Nat} (v : Vector α n) {i j : Fin n} (x : α) (h : j ≠ i) :
    (put v i x).get j = v.get j := by
  have hij : i.val ≠ j.val := fun e => h (Fin.ext e.symm)
  change (v.set i.val x i.isLt)[j.val] = v[j.val]
  exact Vector.getElem_set_ne i.isLt j.isLt hij

theorem cellIdx_injective {c d : Cell} (h : cellIdx c = cellIdx d) : c = d := by
  revert h
  rcases c with _ | _ | _ | _ | _ | k | _ <;> rcases d with _ | _ | _ | _ | _ | l | _ <;>
    first
    | (intro _; rfl)
    | (cases k <;> cases l <;> first | (intro _; rfl) | (intro h; exact absurd h (by decide)))
    | (cases k <;> (intro h; exact absurd h (by decide)))
    | (cases l <;> (intro h; exact absurd h (by decide)))
    | (intro h; exact absurd h (by decide))

theorem gateIdx_injective {g h : Gate} (e : gateIdx g = gateIdx h) : g = h := by
  revert e
  rcases g with _ | _ | k <;> rcases h with _ | _ | l <;>
    first
    | (intro _; rfl)
    | (cases k <;> cases l <;> first | (intro _; rfl) | (intro h; exact absurd h (by decide)))
    | (cases k <;> (intro h; exact absurd h (by decide)))
    | (cases l <;> (intro h; exact absurd h (by decide)))
    | (intro h; exact absurd h (by decide))

/-! ## Cells, queues and gates -/

@[simp] theorem State.cell_setCell_same (s : State) (c : Cell) (x : CellState) : (s.setCell c x).cell c = x := by
  simp [State.cell, State.setCell]

theorem State.cell_setCell_other (s : State) {c d : Cell} (x : CellState) (h : d ≠ c) :
    (s.setCell c x).cell d = s.cell d :=
  get_put_other _ _ (fun e => h (cellIdx_injective e))

@[simp] theorem State.queue_setCell (s : State) (c d : Cell) (x : CellState) : (s.setCell c x).queue d = s.queue d := rfl

@[simp] theorem State.queue_setQueue_same (s : State) (c : Cell) (q : List Expectation) : (s.setQueue c q).queue c = q := by
  simp [State.queue, State.setQueue]

theorem State.queue_setQueue_other (s : State) {c d : Cell} (q : List Expectation) (h : d ≠ c) :
    (s.setQueue c q).queue d = s.queue d :=
  get_put_other _ _ (fun e => h (cellIdx_injective e))

@[simp] theorem State.cell_setQueue (s : State) (c d : Cell) (q : List Expectation) : (s.setQueue c q).cell d = s.cell d :=
  rfl

@[simp] theorem State.queue_filterQueues (s : State) (keep : Expectation → Bool) (c : Cell) :
    (s.filterQueues keep).queue c = (s.queue c).filter keep := by
  change (s.cellUnit.queues.map (fun q => q.filter keep))[(cellIdx c).val] = (s.cellUnit.queues[(cellIdx c).val]).filter keep
  simp

@[simp] theorem State.cell_filterQueues (s : State) (keep : Expectation → Bool) (c : Cell) :
    (s.filterQueues keep).cell c = s.cell c := rfl

@[simp] theorem State.gate_setGate_same (s : State) (g : Gate) (l : GateLevel) : (s.setGate g l).gate g = l := by
  simp [State.gate, State.setGate]

theorem State.gate_setGate_other (s : State) {g h : Gate} (l : GateLevel) (hn : h ≠ g) :
    (s.setGate g l).gate h = s.gate h :=
  get_put_other _ _ (fun e => hn (gateIdx_injective e))

/-- Closing a gate among closed gates leaves them all closed. -/
theorem put_closed {n : Nat} (i : Fin n) : put (Vector.replicate n GateLevel.closed) i .closed = Vector.replicate n .closed := by
  ext j hj
  simp [put]

/-! ## Piece records -/

/-- What a rewriting of one piece's record leaves to be found, when the rewriting keeps the number. -/
theorem State.record?_updateRecord (s : State) (p q : PieceNo) (f : Record → Record)
    (hf : ∀ r, (f r).number = r.number) :
    (s.updateRecord p f).record? q = (s.record? q).map (fun r => if r.number = p then f r else r) := by
  simp only [State.record?, State.updateRecord]
  induction s.records with
  | nil => rfl
  | cons x t ih =>
    simp only [List.map_cons, List.find?_cons]
    have hx : (if x.number = p then f x else x).number = x.number := by split <;> simp [hf]
    rw [hx]
    cases (x.number == q) <;> simp [ih]

/-- The record found for a piece carries the piece's number. -/
theorem State.number_of_record? {s : State} {p : PieceNo} {r : Record} (h : s.record? p = some r) : r.number = p := by
  simpa using List.find?_some h

theorem State.record?_updateRecord_same (s : State) (p : PieceNo) (f : Record → Record)
    (hf : ∀ r, (f r).number = r.number) : (s.updateRecord p f).record? p = (s.record? p).map f := by
  rw [State.record?_updateRecord s p p f hf]
  cases h : s.record? p with
  | none => rfl
  | some r => simp [State.number_of_record? h]

theorem State.record?_updateRecord_other (s : State) {p q : PieceNo} (f : Record → Record)
    (hf : ∀ r, (f r).number = r.number) (h : q ≠ p) : (s.updateRecord p f).record? q = s.record? q := by
  rw [State.record?_updateRecord s p q f hf]
  cases hr : s.record? q with
  | none => rfl
  | some r =>
    have hn := State.number_of_record? hr
    simp [hn, h]

@[simp] theorem State.length_updateRecord (s : State) (p : PieceNo) (f : Record → Record) :
    (s.updateRecord p f).records.length = s.records.length := by
  simp [State.updateRecord]

/-! ## The schedule (R56 to R63) -/

/-- An entry placed is among the entries, and nothing is lost. -/
theorem mem_placeEntry (e x : Entry) (l : List Entry) : x ∈ placeEntry e l ↔ x = e ∨ x ∈ l := by
  induction l with
  | nil => simp [placeEntry]
  | cons y t ih =>
    simp only [placeEntry]
    split
    · simp
    · simp only [List.mem_cons, ih]
      tauto

theorem mem_placeExpectation (e x : Expectation) (l : List Expectation) :
    x ∈ placeExpectation e l ↔ x = e ∨ x ∈ l := by
  induction l with
  | nil => simp [placeExpectation]
  | cons y t ih =>
    simp only [placeExpectation]
    split
    · simp
    · simp only [List.mem_cons, ih]
      tauto

/-- Only an open removes entries at its insertion (R70). -/
theorem mergeCloses_of_not_open (e : Entry) (l : List Entry) (h : ∀ g, e.kind ≠ .gateOpen g) : mergeCloses e l = l := by
  unfold mergeCloses
  split
  · rename_i g hg
    exact absurd hg (h g)
  · rfl

/-- With the latch set nothing is inserted (R63). -/
theorem State.insertEntry_of_latch {s : State} (h : s.protect.latch = true) (e : Entry) : s.insertEntry e = s := by
  simp [State.insertEntry, h]

/-- A pending entry is placed and nothing else changes (R58). -/
theorem State.insertEntry_of_ahead {s : State} (h : s.protect.latch = false) {e : Entry}
    (ha : isAhead e.due s.position = true) :
    s.insertEntry e = { s with schedule := placeEntry e (mergeCloses e s.schedule) } := by
  simp [State.insertEntry, h, ha]

/-- An overdue entry is taken at once (R58). -/
theorem State.insertEntry_of_overdue {s : State} (h : s.protect.latch = false) {e : Entry}
    (ha : isAhead e.due s.position = false) :
    s.insertEntry e = { s with schedule := mergeCloses e s.schedule }.takeEntry e := by
  simp [State.insertEntry, h, ha]

/-- A due entry is the head of the schedule, at the present position, with the latch clear (R59). -/
theorem State.dueEntry_eq_some {s : State} {e : Entry} :
    s.dueEntry = some e ↔ s.protect.latch = false ∧ ∃ t, s.schedule = e :: t ∧ e.due = s.position := by
  unfold State.dueEntry
  cases hl : s.protect.latch
  · cases hs : s.schedule with
    | nil => simp
    | cons x t =>
      by_cases hx : x.due = s.position
      · simp only [Bool.false_eq_true, ↓reduceIte, hx, Option.some.injEq, List.cons.injEq, true_and]
        exact ⟨fun h => by subst h; exact ⟨t, ⟨rfl, rfl⟩, hx⟩, fun ⟨_, h, _⟩ => h.1⟩
      · simp only [Bool.false_eq_true, ↓reduceIte, hx, reduceCtorEq, List.cons.injEq, true_and, false_iff, not_exists,
          not_and]
        rintro t' ⟨rfl, _⟩
        exact hx
  · simp

theorem State.takeDueIf_of_due {s : State} {e : Entry} (h : s.dueEntry = some e) (test : EntryKind → Bool) :
    s.takeDueIf test = if test e.kind then { s with schedule := s.schedule.tail }.takeEntry e else s := by
  simp [State.takeDueIf, State.takeDue, h]

theorem State.takeDueIf_of_none {s : State} (h : s.dueEntry = none) (test : EntryKind → Bool) : s.takeDueIf test = s := by
  simp [State.takeDueIf, h]

theorem State.takeAllDue_of_none {s : State} (h : s.dueEntry = none) (n : Nat) : s.takeAllDue n = s := by
  cases n <;> simp [State.takeAllDue, h]

/-! ## The trip (R140) -/

/-- No trip is made outside the running states, or with the latch set. -/
theorem State.trip_of_not {s : State} (h : s.run.state.isRunning = false ∨ s.protect.latch = true) (cause : TripCause)
    (cell : Option Cell) (at' : Pos) (piece : Option PieceNo) : s.trip cause cell at' piece = s := by
  unfold State.trip
  rcases h with h | h <;> simp [h]

/-- A trip, where it is made, is the seven acts of R140 in order. -/
theorem State.trip_of_running {s : State} (h : s.run.state.isRunning = true) (hl : s.protect.latch = false)
    (cause : TripCause) (cell : Option Cell) (at' : Pos) (piece : Option PieceNo) :
    s.trip cause cell at' piece =
      ((s.setLatch cause cell at' piece).safeOutputs.jamRun.abandonWork.protectAction.countEvent .trips).raise .jam := by
  simp [State.trip, h, hl]

/-! ## Feed hold (R135, R136) -/

/-- What a recomputation leaves in run control. -/
theorem State.recomputeFeed_run (s : State) :
    s.recomputeFeed.run = { s.run with hold := s.feedHoldNow, feedEnable := !s.feedHoldNow.anyStands } := rfl

/-- Outside RUNNING the feed is off after a recomputation (R136). -/
theorem State.recomputeFeed_off {s : State} (h : s.run.state ≠ .running) : s.recomputeFeed.run.feedEnable = false := by
  simp [State.recomputeFeed_run, FeedHold.anyStands, State.feedHoldNow, h]

/-! ## Requests (R172, R173) -/

/-- A request that can be taken is decided on the state with its cell TAKEN (R172). -/
theorem State.onRequest_of_canTake {s : State} {cell : Fin 8} (h : s.canTake cell = true) (decision : State → State) :
    s.onRequest cell decision = decision (s.takeCell cell) := by
  simp [State.onRequest, h]

/-- A request that cannot be taken has no effect (R172). -/
theorem State.onRequest_of_not_canTake {s : State} {cell : Fin 8} (h : s.canTake cell = false)
    (decision : State → State) : s.onRequest cell decision = s := by
  simp [State.onRequest, h]

/-- Two words of a request cell are apart. -/
theorem requestWords_apart (p : Word) (cell : Fin 8) {v w : Nat} (hv : v < 8) (hw : w < 8) (h : v ≠ w) :
    wordsApart (p + BitVec.ofNat 32 (requestOffset cell v)) (p + BitVec.ofNat 32 (requestOffset cell w)) := by
  have := cell.isLt
  apply wordsApart_of_offsets <;> simp only [requestOffset] <;> omega

/-- A word stored in the run page is the word read there. -/
theorem State.pageWord_storeWord_same {s : State} (h : s.mem.wf = true) (off : Nat) (w : Word) :
    (s.storeWord (s.pageAt off) w).pageWord off = w :=
  Memory.readWord_writeWord_same h _ w

/-- A word stored in the run page leaves every word apart from it as it was. -/
theorem State.pageWord_storeWord_other (s : State) {off off' : Nat} (w : Word)
    (h : wordsApart (s.pageAt off) (s.pageAt off')) : (s.storeWord (s.pageAt off') w).pageWord off = s.pageWord off :=
  Memory.readWord_writeWord_other _ _ _ _ h

/-- Four words stored at addresses apart from each other: what is read there, and what is left alone. -/
theorem Memory.four_words {m : Memory} (h : m.wf = true) (a b c d x y z u : Word) (hba : wordsApart a b)
    (hca : wordsApart a c) (hcb : wordsApart b c) (hda : wordsApart a d) (hdb : wordsApart b d) (hdc : wordsApart c d) :
    let n := (((m.writeWord a x).writeWord b y).writeWord c z).writeWord d u
    n.wf = true ∧ n.readWord a = x ∧ n.readWord b = y ∧ n.readWord c = z ∧ n.readWord d = u ∧
      (∀ e, wordsApart e a → wordsApart e b → wordsApart e c → wordsApart e d → n.readWord e = m.readWord e) ∧
      ∀ k, k ∉ wordBytes a → k ∉ wordBytes b → k ∉ wordBytes c → k ∉ wordBytes d → n.read k = m.read k := by
  have w1 := Memory.wf_writeWord h a x
  have w2 := Memory.wf_writeWord w1 b y
  have w3 := Memory.wf_writeWord w2 c z
  refine ⟨Memory.wf_writeWord w3 d u, ?_, ?_, ?_, ?_, ?_, ?_⟩
  · rw [Memory.readWord_writeWord_other _ _ _ _ hda, Memory.readWord_writeWord_other _ _ _ _ hca,
      Memory.readWord_writeWord_other _ _ _ _ hba, Memory.readWord_writeWord_same h]
  · rw [Memory.readWord_writeWord_other _ _ _ _ hdb, Memory.readWord_writeWord_other _ _ _ _ hcb,
      Memory.readWord_writeWord_same w1]
  · rw [Memory.readWord_writeWord_other _ _ _ _ hdc, Memory.readWord_writeWord_same w2]
  · rw [Memory.readWord_writeWord_same w3]
  · intro e ha hb hc hd
    rw [Memory.readWord_writeWord_other _ _ _ _ hd, Memory.readWord_writeWord_other _ _ _ _ hc,
      Memory.readWord_writeWord_other _ _ _ _ hb, Memory.readWord_writeWord_other _ _ _ _ ha]
  · intro k ha hb hc hd
    rw [Memory.read_writeWord_other _ _ _ hd, Memory.read_writeWord_other _ _ _ hc,
      Memory.read_writeWord_other _ _ _ hb, Memory.read_writeWord_other _ _ _ ha]

/-- The memory a completion leaves (R173). -/
theorem State.completeRequest_mem (s : State) (cell : Fin 8) (tag : Word) (r : ResultCode) (value : Word) :
    (s.completeRequest cell tag r value).mem =
      (((s.mem.writeWord (s.pageAt (requestOffset cell 6)) (resultCode r)).writeWord (s.pageAt (requestOffset cell 7))
        value).writeWord (s.pageAt (requestOffset cell 2)) tag).writeWord (s.pageAt (requestOffset cell 0)) cellDone := rfl

/-- The four words a completion stores, and the words and bytes it leaves alone (R173). -/
theorem State.completeRequest_words {s : State} (h : s.mem.wf = true) (cell : Fin 8) (tag : Word) (r : ResultCode)
    (value : Word) :
    let m := (s.completeRequest cell tag r value).mem
    let a := fun w => s.pageAt (requestOffset cell w)
    m.wf = true ∧ m.readWord (a 6) = resultCode r ∧ m.readWord (a 7) = value ∧ m.readWord (a 2) = tag ∧
      m.readWord (a 0) = cellDone ∧
      (∀ e, wordsApart e (a 6) → wordsApart e (a 7) → wordsApart e (a 2) → wordsApart e (a 0) →
        m.readWord e = s.mem.readWord e) ∧
      ∀ k, k ∉ wordBytes (a 6) → k ∉ wordBytes (a 7) → k ∉ wordBytes (a 2) → k ∉ wordBytes (a 0) →
        m.read k = s.mem.read k := by
  have ap : ∀ v w, v < 8 → w < 8 → v ≠ w →
      wordsApart (s.pageAt (requestOffset cell v)) (s.pageAt (requestOffset cell w)) :=
    fun v w hv hw hn => requestWords_apart s.port.pageAddress cell hv hw hn
  rw [State.completeRequest_mem]
  exact Memory.four_words h _ _ _ _ _ _ _ _ (ap 6 7 (by decide) (by decide) (by decide))
    (ap 6 2 (by decide) (by decide) (by decide)) (ap 7 2 (by decide) (by decide) (by decide))
    (ap 6 0 (by decide) (by decide) (by decide)) (ap 7 0 (by decide) (by decide) (by decide))
    (ap 2 0 (by decide) (by decide) (by decide))

/-- A page scan takes the request of a POSTED cell by the row of its kind (R172). -/
theorem exec_command (s : State) (q : Request) : exec q.command s = .next (s.decideRequest q) := by
  unfold Request.command State.decideRequest
  split <;> rfl

/-- The scan of one cell: where it is to be taken, the row of its request, and else nothing (R170, R172). -/
theorem State.scanCell_of_taken {s : State} {i : Fin 8} (h : s.canTake i = true)
    (hp : s.pageWord (requestOffset i 0) = cellPosted) :
    exec (s.readRequest i).command s = .next (s.scanCell i) := by
  rw [exec_command]
  simp [State.scanCell, h, hp]

theorem State.scanCell_of_passed {s : State} {i : Fin 8}
    (h : s.canTake i = false ∨ s.pageWord (requestOffset i 0) ≠ cellPosted) : s.scanCell i = s := by
  rcases h with h | h <;> simp [State.scanCell, h]

/-! ## The parts of a page scan (R170) -/

@[simp] theorem State.workScan_zero (s : State) : s.workScan 0 = s := rfl

/-- Nothing of a scan left, nothing worked. -/
theorem State.workScan_of_nil {s : State} (h : s.port.scanLeft = []) (n : Nat) : s.workScan n = s := by
  cases n <;> simp [State.workScan, h]

/-- The next part first, on the state that has only the parts after it still to come. -/
theorem State.workScan_succ {s : State} {p : ScanPart} {rest : List ScanPart} (h : s.port.scanLeft = p :: rest) (n : Nat) :
    s.workScan (n + 1) = ({ s with port := { s.port with scanLeft := rest } }.scanPart p).workScan n := by
  simp [State.workScan, h]

/-- A scan broken off after some parts and gone on with is the same scan, where nothing comes in between. -/
theorem State.workScan_add (m n : Nat) (s : State) : s.workScan (m + n) = (s.workScan m).workScan n := by
  induction m generalizing s with
  | zero => simp
  | succ m ih =>
    rw [Nat.add_right_comm]
    cases h : s.port.scanLeft with
    | nil => simp [State.workScan_of_nil h]
    | cons p rest => rw [State.workScan_succ h, State.workScan_succ h, ih]

/-- A PAGE_SCAN given while a scan is in progress goes on with it; given while none is, it is the timer's expiry. -/
theorem execPageScan_of_begun {s : State} (x : ScanAct) (h : s.port.scanLeft ≠ []) :
    execPageScan x s = .next ((s.applyStores x.stores).workScan x.parts) := by
  simp [execPageScan, h]

theorem execPageScan_of_expiry {s : State} (x : ScanAct) {d : Nat} (h : s.port.scanLeft = [])
    (ht : s.port.scanTimer = some d) :
    execPageScan x s = .next (((s.applyStores x.stores).reachTime d).beginScan.workScan x.parts) := by
  simp [execPageScan, h, ht]

theorem execPageScan_of_stopped {s : State} (x : ScanAct) (h : s.port.scanLeft = []) (ht : s.port.scanTimer = none) :
    execPageScan x s = .next (s.applyStores x.stores) := by
  simp [execPageScan, h, ht]

/-! ## CONTROL (R169) -/

/-- ENABLE 0 with no scan in progress: cleared in IDLE and JAMMED, and left at 1 in the running states. -/
theorem State.disablePort_of_no_scan {s : State} (h : s.port.scanLeft = []) :
    s.disablePort = if !s.port.enable || s.run.state.isRunning then s
      else { s with port := { s.port with enable := false, scanTimer := none } } := by
  unfold State.disablePort
  rw [State.workScan_of_nil h]
  cases he : s.port.enable <;> cases hr : s.run.state.isRunning <;> simp [hr]

/-- A write of CONTROL with RESET 1 is CONTROL.RESET, whatever its other bits. -/
theorem State.writeControl_of_reset (s : State) {v : Word} (h : v.getLsbD 1 = true) : s.writeControl v = s.controlReset := by
  simp [State.writeControl, h]

/-- A write of CONTROL with RESET 0 takes the SCAN TAP code, then ENABLE. -/
theorem State.writeControl_of_enable (s : State) {v : Word} (h : v.getLsbD 1 = false) (he : v.getLsbD 0 = true) :
    s.writeControl v = (s.writeScanTap (v.extractLsb' 4 3)).enablePort := by
  simp only [State.writeControl, h, he, Bool.false_eq_true, if_false, if_true]

theorem State.writeControl_of_disable (s : State) {v : Word} (h : v.getLsbD 1 = false) (he : v.getLsbD 0 = false) :
    s.writeControl v = (s.writeScanTap (v.extractLsb' 4 3)).disablePort := by
  simp only [State.writeControl, h, he, Bool.false_eq_true, if_false]

/-! ## The rack and the trays (R160 to R165) -/

/-- The close of an open tray: header, FULL, TRAY_CLOSED, next serial, no open tray (R165). -/
theorem State.closeTray_of_open {s : State} {tr : OpenTray} (h : s.reports.tray = some tr) (cause : CloseCause) :
    s.closeTray cause = { s with
      mem := (s.mem.writeWords tr.addr (headerWords s.reports.serial cause tr)).writeWord
        (s.pageAt (rackOffset tr.index 0)) rackFull
      port := { s.port with
        causes := s.port.causes.set .trayClosed true, seen := s.port.seen.set .trayClosed false }
      reports := { s.reports with
        serial := nextSerial s.reports.serial, tray := none, ageTimer := none, closeDue := false } } := by
  simp only [State.closeTray, h, State.storeWords, State.storeWord, State.raise, State.pageAt]

theorem State.closeTray_of_none {s : State} (h : s.reports.tray = none) (cause : CloseCause) : s.closeTray cause = s := by
  simp [State.closeTray, h]

/-- A search that finds a READY entry takes it, and one that finds none starts a starvation episode, where none stands (R162,
R163). -/
theorem State.searchRack_of_found {s : State} {i : Fin 16} (h : s.findReady = some i) : s.searchRack = s.takeTray i := by
  simp [State.searchRack, h]

theorem State.searchRack_of_starved {s : State} (h : s.findReady = none) (hs : s.reports.starved = true) :
    s.searchRack = s := by
  simp [State.searchRack, h, hs]

theorem State.findReady_eq_none {s : State} :
    s.findReady = none ↔ ∀ i ∈ searchOrder s.reports.cursor, s.pageWord (rackOffset i 0) ≠ rackReady := by
  simp [State.findReady]

/-- What one move leaves in memory and in the open tray, but for the close of a tray that it fills (R160, R164). -/
theorem State.moveOne_of_room {s : State} {x : Report} {rest : List Report} {tr : OpenTray} (hh : s.reports.held = x :: rest)
    (ht : s.reports.tray = some tr) (hc : tr.count ≠ 31) :
    s.moveOne.mem = s.mem.writeWords (tr.addr + countWord (placeOffset (tr.count + 1))) (reportWords x) ∧
      s.moveOne.reports = { s.reports with
        held := rest
        tray := some { tr with
          count := tr.count + 1
          firstPiece := some (tr.firstPiece.getD x.piece.number)
          lastPiece := some x.piece.number }
        ageTimer := if tr.count = 0 then some (s.now + s.plan.trayAge) else s.reports.ageTimer } := by
  have hc' : tr.count + 1 ≠ 32 := by omega
  simp [State.moveOne, hh, ht, hc', State.recomputeFeed, State.storeWords]

/-! ## The scan window (R30 to R38) -/

/-- A run that does not qualify leaves the list as it is; one that does joins it (R37, R38). -/
theorem closeRun_of_noise {pl : Plan} {sc : Scanner} {run : OpenRun} {e : Nat} (h : qualify pl sc run e = none)
    (st : ScannerState) : closeRun pl sc st run e = (⟨none, st.kept⟩, false) := by
  simp [closeRun, h]

theorem closeRun_of_qualifying {pl : Plan} {sc : Scanner} {run : OpenRun} {e : Nat} {k : KeptRun}
    (h : qualify pl sc run e = some k) (st : ScannerState) :
    closeRun pl sc st run e = (⟨none, (keepRun st.kept k).1⟩, (keepRun st.kept k).2) := by
  simp [closeRun, h]

/-- With no window open a step takes no sample set (R26). -/
theorem State.takeSet_of_free {s : State} (h : s.scan.window = none) : s.takeSet = s := by
  simp [State.takeSet, h]

/-! ## The grant (R82, R83) -/

/-- The merge test is made of a waiting pocket only, and a window that is not free grants nothing (R82). -/
theorem State.mergeTest_of_blocked {s : State} {leftOut : Option PieceNo}
    (h : s.pocket.state ≠ .waiting ∨ s.run.state.testsMerge = false ∨ s.windowFree leftOut = false) :
    s.mergeTest leftOut = s := by
  rcases h with h | h | h <;> simp [State.mergeTest, h]

theorem State.mergeTest_of_free {s : State} {leftOut : Option PieceNo} {p : PieceNo} (hw : s.pocket.state = .waiting)
    (hr : s.run.state.testsMerge = true) (hf : s.windowFree leftOut = true) (hp : s.pocket.occupant = some p) :
    s.mergeTest leftOut = s.grantRelease p := by
  simp [State.mergeTest, hw, hr, hf, hp]

/-! ## Covers and uncovers -/

@[simp] theorem State.capturedAt_present (s : State) : s.capturedAt .present = s.position := rfl

@[simp] theorem State.capturedAt_stepBefore (s : State) : s.capturedAt .stepBefore = s.position - 1 := rfl

/-- In IDLE and JAMMED a cover sets the level and the capture only (R3, R147). -/
theorem State.coverCell_of_not_running {s : State} (h : s.run.state.isRunning = false) (c : Cell) (q : Pos) :
    s.coverCell c q = s.setCell c { s.cell c with covered := true, coverAt := q } := by
  simp [State.coverCell, State.setCell, h]

/-- In the running states a cover is handled after its level and capture are set (R3). -/
theorem State.coverCell_of_running {s : State} (h : s.run.state.isRunning = true) (c : Cell) (q : Pos) :
    s.coverCell c q = (s.setCell c { s.cell c with covered := true, coverAt := q }).handleCover c q := by
  simp [State.coverCell, State.setCell, h]

/-- In IDLE and JAMMED an uncover sets the level and the capture only (R3). -/
theorem State.uncoverCell_of_not_running {s : State} (h : s.run.state.isRunning = false) (c : Cell) :
    s.uncoverCell c = s.setCell c { s.cell c with covered := false, uncoverAt := s.position } := by
  simp [State.uncoverCell, State.closeAhead, State.setCell, h]

/-- No forced close precedes an uncover of a cell other than SCAN. -/
theorem State.forcedCloseFirst_of_other {s : State} {c : Cell} (h : c ≠ .scan) : s.forcedCloseFirst c = false := by
  unfold State.forcedCloseFirst
  split <;> simp [h]

/-- In the running states an uncover that no forced close precedes is handled after its level and capture are set (R4). -/
theorem State.uncoverCell_of_running {s : State} (h : s.run.state.isRunning = true) {c : Cell}
    (hf : s.forcedCloseFirst c = false) :
    s.uncoverCell c =
      (s.setCell c { s.cell c with covered := false, uncoverAt := s.position }).handleUncover c s.position := by
  simp [State.uncoverCell, State.closeAhead, State.setCell, h, hf]

/-- A forced close leaves no window at a count of 1,023 (R28). -/
theorem State.forcedCloseDue_forceClose (s : State) : s.forceClose.forcedCloseDue = false := by
  unfold State.forceClose
  split
  · rename_i h
    simp [State.forcedCloseDue, h]
  · rename_i x h
    by_cases hc : 1023 ≤ x.count
    · simp [hc, State.forcedCloseDue, State.completeClose]
    · simp [hc, State.forcedCloseDue, h]

/-- Only a forced close that is due can come first. -/
theorem State.forcedCloseFirst_of_not_due {s : State} (h : s.forcedCloseDue = false) (c : Cell) :
    s.forcedCloseFirst c = false := by
  unfold State.forcedCloseDue at h
  unfold State.forcedCloseFirst
  split <;> simp_all

/-- An uncover that comes after an outstanding forced close is that close, then the uncover (R28). -/
theorem State.uncoverCell_of_forced {s : State} (h : s.run.state.isRunning = true) {c : Cell}
    (hf : s.forcedCloseFirst c = true) : s.uncoverCell c = s.forceClose.uncoverCell c := by
  simp [State.uncoverCell, State.closeAhead, h, hf,
    State.forcedCloseFirst_of_not_due (State.forcedCloseDue_forceClose s) c]

/-- A cover that finds its queue empty is STRAY (R9). -/
theorem State.matchCover_of_empty {s : State} {c : Cell} {q : Pos} (h : dropStale q (s.queue c) = []) :
    s.matchCover c q = (s.setQueue c []).trip .stray (some c) q none := by
  simp [State.matchCover, h]

/-- A cover outside the window of the head is STRAY, and the rest of the queue is not looked at (R9). -/
theorem State.matchCover_of_outside {s : State} {c : Cell} {q : Pos} {x : Expectation} {rest : List Expectation}
    (h : dropStale q (s.queue c) = x :: rest) (hw : s.insideWindow x q = false) :
    s.matchCover c q = (s.setQueue c (x :: rest)).trip .stray (some c) q none := by
  have hw' : (s.setQueue c (x :: rest)).insideWindow x q = false := hw
  simp [State.matchCover, h, hw']

/-- A cover inside the window of a tracked piece at the head matches it (R7). -/
theorem State.matchCover_of_tracked {s : State} {c : Cell} {q : Pos} {x : Expectation} {rest : List Expectation} {p : PieceNo}
    (h : dropStale q (s.queue c) = x :: rest) (hw : s.insideWindow x q = true) (hp : x.who = .piece p) :
    s.matchCover c q = (s.setQueue c (x :: rest)).matchTracked c p q := by
  have hw' : (s.setQueue c (x :: rest)).insideWindow x q = true := hw
  simp [State.matchCover, h, hw', hp]

/-- A cover inside the window of an untracked expectation at the head matches it (R19). -/
theorem State.matchCover_of_untracked {s : State} {c : Cell} {q : Pos} {x : Expectation} {rest : List Expectation}
    (h : dropStale q (s.queue c) = x :: rest) (hw : s.insideWindow x q = true) (hp : x.who = .untracked) :
    s.matchCover c q = ((s.setQueue c (x :: rest)).setQueue c rest).matchUntracked c q := by
  have hw' : (s.setQueue c (x :: rest)).insideWindow x q = true := hw
  simp [State.matchCover, h, hw', hp]

/-- A match that leaves the machine running hands the cover to the block that owns it (R4, R7). -/
theorem State.matchTracked_of_running {s : State} {c : Cell} {p : PieceNo} {q : Pos}
    (h : (((s.dropExpectation p).updateRecord p (arrivalRecord c q)).occupy c p q).run.state.isRunning = true) :
    s.matchTracked c p q =
      (((s.dropExpectation p).updateRecord p (arrivalRecord c q)).occupy c p q).handCover c p q := by
  simp [State.matchTracked, h]

/-- A match that trips the machine hands the cover to no block (R3, R117). -/
theorem State.matchTracked_of_tripped {s : State} {c : Cell} {p : PieceNo} {q : Pos}
    (h : (((s.dropExpectation p).updateRecord p (arrivalRecord c q)).occupy c p q).run.state.isRunning = false) :
    s.matchTracked c p q = ((s.dropExpectation p).updateRecord p (arrivalRecord c q)).occupy c p q := by
  simp [State.matchTracked, h]

/-! ## The ramp (R122, R127) -/

/-- Short of its target a ramp tick starts the timer again and makes no report (R122). -/
theorem State.tickRamp_of_short {s : State} (h : rampCode s.drive.code s.drive.target s.plan.codeStep ≠ s.drive.target) :
    s.tickRamp = { s with drive := { s.drive with
      code := rampCode s.drive.code s.drive.target s.plan.codeStep, rampTimer := some (s.now + s.plan.rampTick) } } := by
  simp [State.tickRamp, h]

/-- At its target a ramp tick stops the timer and reports the value reached (R122). -/
theorem State.tickRamp_of_reached {s : State} (h : rampCode s.drive.code s.drive.target s.plan.codeStep = s.drive.target) :
    s.tickRamp = { s with drive := { s.drive with
      code := s.drive.target, rampTimer := none, report := some s.drive.target } } := by
  simp [State.tickRamp, h]

@[simp] theorem State.takeReport_of_none {s : State} (h : s.drive.report = none) : s.takeReport = s := by
  simp [State.takeReport, h]

theorem State.takeReport_of_some {s : State} {v : Nat} (h : s.drive.report = some v) :
    s.takeReport = ({ s with drive := { s.drive with report := none } }).targetReached v := by
  simp [State.takeReport, h]

end Sys2Proof.Machine
end

