-- ==== Sys2Proof/Laws/Counters.lean ====
section
/-! SUPPORT. What the tally unit's additions do, said once in the terms of the statements: one addition, several one after another, and
the count of a report. -/

namespace Sys2Proof.Machine

open Sys2Proof.Safety

/-! ## The places of the counters -/

/-- The counters of the piece group in the order of their places. -/
def pieceOrder : List PieceCounter :=
  [.completed, .outcome .sorted, .outcome .culled, .outcome .stranded, .outcome .purged, .dest (some (.stk .stk1)),
    .dest (some (.stk .stk2)), .dest (some (.stk .stk3)), .dest (some (.stk .stk4)), .dest (some (.stk .stk5)),
    .dest (some .endCatch), .dest none, .attitude (some .aTop), .attitude (some .aBottom), .attitude (some .bTop),
    .attitude (some .bBottom), .attitude none, .cls (some .tag), .cls (some .meter), .cls none, .lengthBin 0,
    .lengthBin 1, .lengthBin 2, .lengthBin 3, .lengthBin 4, .cancel .full, .cancel .dieOnly, .cancel .incomplete,
    .cancel .unprinted]

/-- The counters of the event group in the order of their places. -/
def eventOrder : List EventCounter :=
  [.cull .overlength, .cull .underlength, .cull .shortGap, .cull .noIndicium, .cull .ambiguous, .cull .lateDecision,
    .cull .pocketBusy, .cull .noRoom, .untracked, .runsDropped, .truncated, .diverted, .mergeGaps, .trips]

theorem pieceOrder_at (c : PieceCounter) : pieceOrder[(pieceCounterIdx c).val]? = some c := by
  fun_cases pieceCounterIdx c <;> rfl

theorem eventOrder_at (c : EventCounter) : eventOrder[(eventCounterIdx c).val]? = some c := by
  fun_cases eventCounterIdx c <;> rfl

theorem pieceCounterIdx_injective {c d : PieceCounter} (h : pieceCounterIdx c = pieceCounterIdx d) : c = d := by
  have hc := pieceOrder_at c
  rw [h, pieceOrder_at d] at hc
  exact (Option.some.inj hc).symm

theorem eventCounterIdx_injective {c d : EventCounter} (h : eventCounterIdx c = eventCounterIdx d) : c = d := by
  have hc := eventOrder_at c
  rw [h, eventOrder_at d] at hc
  exact (Option.some.inj hc).symm

/-! ## One counter -/

/-- A counter to which nothing is added stays as it is. -/
theorem added_zero {m a : Nat} (h : a < m) (f : Bool) : added m 0 a a f f :=
  ⟨(Nat.mod_eq_of_lt h).symm, (or_iff_left (Nat.not_le.mpr h)).symm⟩

/-- Two sums, one after the other, pass the greatest value exactly when their whole does. -/
theorem modulus_le_add {m n n' a b : Nat} (h : b = (a + n) % m) :
    m ≤ a + (n + n') ↔ m ≤ a + n ∨ m ≤ b + n' := by
  subst h
  by_cases hm : m ≤ a + n
  · exact iff_of_true (by omega) (Or.inl hm)
  · rw [Nat.mod_eq_of_lt (by omega)]
    omega

/-- Two additions to one counter are the addition of both. -/
theorem added_trans {m n n' a b c : Nat} {f g h : Bool} (h1 : added m n a b f g) (h2 : added m n' b c g h) :
    added m (n + n') a c f h := by
  refine ⟨?_, ?_⟩
  · rw [h2.1, h1.1, Nat.mod_add_mod, Nat.add_assoc]
  · rw [h2.2, h1.2, or_assoc, modulus_le_add h1.1]

/-- A counter of some width to which n is added, its carry flag following the true sum (R154). -/
theorem added_toNat {w : Nat} (v x : BitVec w) (n : Nat) (f wraps : Bool) (hx : x.toNat = (v.toNat + n) % 2 ^ w)
    (hw : wraps = true ↔ 2 ^ w ≤ v.toNat + n) : added (2 ^ w) n v.toNat x.toNat f (f || wraps) :=
  ⟨hx, by rw [Bool.or_eq_true, hw]⟩

/-- A counter that counts one passes its greatest value from its greatest value only (R154). -/
theorem allOnes_iff {w : Nat} (v : BitVec w) : v = BitVec.allOnes w ↔ 2 ^ w ≤ v.toNat + 1 := by
  have h1 := v.isLt
  have h2 : 0 < 2 ^ w := Nat.two_pow_pos w
  rw [← BitVec.toNat_inj, BitVec.toNat_allOnes]
  omega

/-! ## Several additions -/

theorem pieceCount_lt (s : State) (c : PieceCounter) : pieceCount s c < 2 ^ 24 := BitVec.isLt _

theorem eventCount_lt (s : State) (c : EventCounter) : eventCount s c < 2 ^ 16 := BitVec.isLt _

/-- Raising a cause again changes nothing more. -/
theorem portRaised_twice (p : PageInterface) (c : AttentionCause) : portRaised (portRaised p c) c = portRaised p c := by
  cases c <;> rfl

/-- Nothing added calls for no CARRY. -/
theorem not_carryCalled_nil (s : State) : ¬ carryCalled s [] [] 0 := by
  rintro (⟨_, c, h⟩ | ⟨_, c, h⟩ | ⟨_, h⟩)
  · exact absurd h (Nat.not_le.mpr (pieceCount_lt s c))
  · exact absurd h (Nat.not_le.mpr (eventCount_lt s c))
  · exact absurd h (Nat.not_le.mpr s.tally.dots.isLt)

/-- Where tally and port are as they were, nothing has been added. -/
theorem tallied_of_same {s t : State} (ht : t.tally = s.tally) (hp : t.port = s.port) : tallied s t [] [] 0 := by
  refine ⟨⟨fun c => ?_, fun c => ?_, ?_, by rw [ht]⟩, fun h => absurd h (not_carryCalled_nil s), fun _ => hp⟩
  · simpa only [pieceCount, ht, List.count_nil] using added_zero (pieceCount_lt s c) _
  · simpa only [eventCount, ht, List.count_nil] using added_zero (eventCount_lt s c) _
  · simpa only [ht] using added_zero s.tally.dots.isLt _

/-- What calls for CARRY among additions made one after another. -/
theorem carryCalled_append {s t : State} {p p' : List PieceCounter} {e e' : List EventCounter} {d d' : Nat}
    (h : countsAdded s t p e d) (hp : t.plan = s.plan) :
    carryCalled s (p ++ p') (e ++ e') (d + d') ↔ carryCalled s p e d ∨ carryCalled t p' e' d' := by
  have hpw : (∃ c, 2 ^ 24 ≤ pieceCount s c + (p ++ p').count c) ↔
      (∃ c, 2 ^ 24 ≤ pieceCount s c + p.count c) ∨ ∃ c, 2 ^ 24 ≤ pieceCount t c + p'.count c := by
    rw [← exists_or]
    exact exists_congr fun c => by rw [List.count_append]; exact modulus_le_add (h.1 c).1
  have hew : (∃ c, 2 ^ 16 ≤ eventCount s c + (e ++ e').count c) ↔
      (∃ c, 2 ^ 16 ≤ eventCount s c + e.count c) ∨ ∃ c, 2 ^ 16 ≤ eventCount t c + e'.count c := by
    rw [← exists_or]
    exact exists_congr fun c => by rw [List.count_append]; exact modulus_le_add (h.2.1 c).1
  have hdw : 2 ^ 32 ≤ s.tally.dots.toNat + (d + d') ↔
      2 ^ 32 ≤ s.tally.dots.toNat + d ∨ 2 ^ 32 ≤ t.tally.dots.toNat + d' := modulus_le_add h.2.2.1.1
  unfold carryCalled
  rw [hpw, hew, hdw, hp]
  simp only [and_or_left]
  simp only [or_assoc, or_left_comm, or_comm]

/-- Additions made one after another are all of them made together (R153, R154). -/
theorem countsAdded_trans {s t u : State} {p p' : List PieceCounter} {e e' : List EventCounter} {d d' : Nat}
    (h : countsAdded s t p e d) (h' : countsAdded t u p' e' d') : countsAdded s u (p ++ p') (e ++ e') (d + d') := by
  refine ⟨fun c => ?_, fun c => ?_, added_trans h.2.2.1 h'.2.2.1, h'.2.2.2.trans h.2.2.2⟩
  · rw [List.count_append]
    exact added_trans (h.1 c) (h'.1 c)
  · rw [List.count_append]
    exact added_trans (h.2.1 c) (h'.2.1 c)

theorem tallied_trans {s t u : State} {p p' : List PieceCounter} {e e' : List EventCounter} {d d' : Nat}
    (h : tallied s t p e d) (h' : tallied t u p' e' d') (hp : t.plan = s.plan) :
    tallied s u (p ++ p') (e ++ e') (d + d') := by
  have hiff := carryCalled_append (p' := p') (e' := e') (d' := d') h.1 hp
  refine ⟨countsAdded_trans h.1 h'.1, fun hc => ?_, fun hc => ?_⟩
  · by_cases h2 : carryCalled t p' e' d'
    · rw [h'.2.1 h2]
      by_cases h1 : carryCalled s p e d
      · rw [h.2.1 h1, portRaised_twice]
      · rw [h.2.2 h1]
    · rw [h'.2.2 h2, h.2.1 ((hiff.mp hc).resolve_right h2)]
  · rw [h'.2.2 fun x => hc (hiff.mpr (Or.inr x)), h.2.2 fun x => hc (hiff.mpr (Or.inl x))]

/-- Additions hold of any two states that have the tally, the port and the plan of two of which they hold. -/
theorem tallied_congr {s s' t t' : State} {p : List PieceCounter} {e : List EventCounter} {d : Nat} (h : tallied s t p e d)
    (hs : s'.tally = s.tally) (hsp : s'.port = s.port) (hpl : s'.plan = s.plan) (ht : t'.tally = t.tally)
    (htp : t'.port = t.port) : tallied s' t' p e d := by
  simpa only [tallied, countsAdded, carryCalled, pieceCount, eventCount, hs, hsp, hpl, ht, htp] using h

/-! ## One addition -/

theorem State.raiseCarry_port (s : State) (wrapped masked : Bool) :
    (s.raiseCarry wrapped masked).port = if wrapped && !masked then portRaised s.port .carry else s.port := by
  unfold State.raiseCarry
  split <;> rfl

@[simp] theorem State.raiseCarry_tally (s : State) (wrapped masked : Bool) :
    (s.raiseCarry wrapped masked).tally = s.tally := by
  unfold State.raiseCarry
  split <;> rfl

/-- One more in a counter of the piece group (R152, R154). -/
theorem State.countPiece_tallied (s : State) (c : PieceCounter) : tallied s (s.countPiece c) [c] [] 0 := by
  have hcall : carryCalled s [c] [] 0 ↔
      (s.tally.pieces.get (pieceCounterIdx c) == BitVec.allOnes 24 && !s.plan.maskPiece) = true := by
    simp only [Bool.and_eq_true, beq_iff_eq, Bool.not_eq_true', allOnes_iff]
    constructor
    · rintro (⟨hm, d, h⟩ | ⟨_, d, h⟩ | ⟨_, h⟩)
      · by_cases hd : c = d
        · subst hd
          exact ⟨by simpa [pieceCount] using h, hm⟩
        · rw [List.count_singleton, if_neg (by simpa using hd)] at h
          exact absurd h (Nat.not_le.mpr (pieceCount_lt s d))
      · exact absurd h (Nat.not_le.mpr (eventCount_lt s d))
      · exact absurd h (Nat.not_le.mpr s.tally.dots.isLt)
    · exact fun h => Or.inl ⟨h.2, c, by simpa [pieceCount] using h.1⟩
  refine ⟨⟨fun d => ?_, fun d => ?_, ?_, ?_⟩, fun h => ?_, fun h => ?_⟩
  · by_cases hd : c = d
    · subst hd
      simp only [State.countPiece, pieceCount, State.raiseCarry_tally, get_put_same, List.count_singleton_self]
      exact added_toNat _ _ _ _ _ (by rw [BitVec.toNat_add]; rfl) (by rw [beq_iff_eq, allOnes_iff])
    · have hi : pieceCounterIdx d ≠ pieceCounterIdx c := fun h => hd (pieceCounterIdx_injective h).symm
      simp only [State.countPiece, pieceCount, State.raiseCarry_tally, get_put_other _ _ hi, List.count_singleton,
        if_neg (show ¬ (c == d) = true by simpa using hd)]
      exact added_zero (pieceCount_lt s d) _
  · simpa [State.countPiece, eventCount] using added_zero (eventCount_lt s d) (s.tally.eventCarry.get (eventCounterIdx d))
  · simpa [State.countPiece] using added_zero s.tally.dots.isLt s.tally.dotsCarry
  · simp [State.countPiece]
  · simp only [State.countPiece, State.raiseCarry_port, if_pos (hcall.mp h)]
  · simp only [State.countPiece, State.raiseCarry_port]
    rw [if_neg fun x => h (hcall.mpr x)]

/-- One more in a counter of the event group (R153, R154). -/
theorem State.countEvent_tallied (s : State) (c : EventCounter) : tallied s (s.countEvent c) [] [c] 0 := by
  have hcall : carryCalled s [] [c] 0 ↔
      (s.tally.events.get (eventCounterIdx c) == BitVec.allOnes 16 && !s.plan.maskEvent) = true := by
    simp only [Bool.and_eq_true, beq_iff_eq, Bool.not_eq_true', allOnes_iff]
    constructor
    · rintro (⟨_, d, h⟩ | ⟨hm, d, h⟩ | ⟨_, h⟩)
      · exact absurd h (Nat.not_le.mpr (pieceCount_lt s d))
      · by_cases hd : c = d
        · subst hd
          exact ⟨by simpa [eventCount] using h, hm⟩
        · rw [List.count_singleton, if_neg (by simpa using hd)] at h
          exact absurd h (Nat.not_le.mpr (eventCount_lt s d))
      · exact absurd h (Nat.not_le.mpr s.tally.dots.isLt)
    · exact fun h => Or.inr (Or.inl ⟨h.2, c, by simpa [eventCount] using h.1⟩)
  refine ⟨⟨fun d => ?_, fun d => ?_, ?_, ?_⟩, fun h => ?_, fun h => ?_⟩
  · simpa [State.countEvent, pieceCount] using added_zero (pieceCount_lt s d) (s.tally.pieceCarry.get (pieceCounterIdx d))
  · by_cases hd : c = d
    · subst hd
      simp only [State.countEvent, eventCount, State.raiseCarry_tally, get_put_same, List.count_singleton_self]
      exact added_toNat _ _ _ _ _ (by rw [BitVec.toNat_add]; rfl) (by rw [beq_iff_eq, allOnes_iff])
    · have hi : eventCounterIdx d ≠ eventCounterIdx c := fun h => hd (eventCounterIdx_injective h).symm
      simp only [State.countEvent, eventCount, State.raiseCarry_tally, get_put_other _ _ hi, List.count_singleton,
        if_neg (show ¬ (c == d) = true by simpa using hd)]
      exact added_zero (eventCount_lt s d) _
  · simpa [State.countEvent] using added_zero s.tally.dots.isLt s.tally.dotsCarry
  · simp [State.countEvent]
  · simp only [State.countEvent, State.raiseCarry_port, if_pos (hcall.mp h)]
  · simp only [State.countEvent, State.raiseCarry_port]
    rw [if_neg fun x => h (hcall.mpr x)]

/-- The dots of a column (R102, R154). -/
theorem State.countDots_tallied (s : State) (n : Nat) : tallied s (s.countDots n) [] [] n := by
  have hcall : carryCalled s [] [] n ↔
      (decide (4294967296 ≤ s.tally.dots.toNat + n) && !s.plan.maskDots) = true := by
    simp only [Bool.and_eq_true, decide_eq_true_eq, Bool.not_eq_true']
    constructor
    · rintro (⟨_, d, h⟩ | ⟨_, d, h⟩ | ⟨hm, h⟩)
      · exact absurd h (Nat.not_le.mpr (pieceCount_lt s d))
      · exact absurd h (Nat.not_le.mpr (eventCount_lt s d))
      · exact ⟨h, hm⟩
    · exact fun h => Or.inr (Or.inr ⟨h.2, h.1⟩)
  refine ⟨⟨fun d => ?_, fun d => ?_, ?_, ?_⟩, fun h => ?_, fun h => ?_⟩
  · simpa [State.countDots, pieceCount] using added_zero (pieceCount_lt s d) (s.tally.pieceCarry.get (pieceCounterIdx d))
  · simpa [State.countDots, eventCount] using added_zero (eventCount_lt s d) (s.tally.eventCarry.get (eventCounterIdx d))
  · simp only [State.countDots, State.raiseCarry_tally]
    exact added_toNat _ _ _ _ _ (by rw [BitVec.toNat_add, BitVec.toNat_ofNat, Nat.add_mod_mod])
      (by rw [decide_eq_true_eq]; norm_num)
  · simp [State.countDots]
  · simp only [State.countDots, State.raiseCarry_port, if_pos (hcall.mp h)]
  · simp only [State.countDots, State.raiseCarry_port]
    rw [if_neg fun x => h (hcall.mpr x)]

/-! ## The count of a report, and of dropped runs -/

/-- The counter of a record's primary reason. -/
theorem reasonCounters_eq (r : Record) : reasonCounters r = r.culls.primary.toList.map .cull := by
  simp only [reasonCounters, CullSet.primary, cullPrecedence, List.head?_filter]

/-- A report counts one in each counter of R152. -/
theorem State.countReport_tallied (s : State) (x : Report) :
    tallied s (s.countReport x) (reportCounters s.plan x.piece x.outcome) (reasonCounters x.piece) 0 := by
  have hd : x.countedDest = if x.outcome = .sorted ∨ x.outcome = .culled then x.piece.destination else none := by
    unfold Report.countedDest
    cases x.outcome <;> rfl
  have h7 := tallied_trans (tallied_trans (tallied_trans (tallied_trans (tallied_trans (tallied_trans
    (s.countPiece_tallied .completed) (State.countPiece_tallied _ (.outcome x.outcome)) (by simp))
    (State.countPiece_tallied _ (.dest x.countedDest)) (by simp))
    (State.countPiece_tallied _ (.attitude x.piece.attitude)) (by simp))
    (State.countPiece_tallied _ (.cls x.piece.cls)) (by simp))
    (State.countPiece_tallied _ (.lengthBin (lengthBin s.plan x.piece.length))) (by simp))
    (State.countPiece_tallied _ (.cancel x.piece.result)) (by simp)
  rw [reasonCounters_eq]
  unfold State.countReport
  cases hp : x.piece.culls.primary with
  | none =>
    simp only [reportCounters, ← hd]
    exact h7
  | some c =>
    have h8 := tallied_trans h7 (State.countEvent_tallied _ (.cull c)) (by simp)
    simp only [reportCounters, ← hd]
    exact h8

/-- Each dropped run counts one in RUNS_DROPPED (R38). -/
theorem State.noteDrops_tallied (p : PieceNo) (n : Nat) (s : State) :
    tallied s (s.noteDrops p n) [] (List.replicate n .runsDropped) 0 := by
  induction n generalizing s with
  | zero => exact tallied_of_same rfl rfl
  | succ n ih =>
    have h1 := tallied_trans (tallied_of_same (s := s)
      (t := s.updateRecord p (fun r => { r with flags := { r.flags with runsDropped := true } })) rfl rfl)
      (State.countEvent_tallied _ .runsDropped) rfl
    rw [List.replicate_succ]
    exact tallied_trans h1 (ih _) (by simp [State.updateRecord])

/-! ## Sample sets and window closes (R26, R27, R38) -/

theorem keepRun_drops (l : List KeptRun) (k : KeptRun) : (keepRun l k).2 = decide (4 ≤ l.length) := by
  unfold keepRun
  split <;> simp <;> omega

/-- A closed run is dropped, or drops another, where it qualifies and finds four kept. -/
theorem closeRun_drops (pl : Plan) (sc : Scanner) (st : ScannerState) (run : OpenRun) (e : Nat) :
    (closeRun pl sc st run e).2 = ((qualify pl sc run e).isSome && decide (4 ≤ st.kept.length)) := by
  cases hq : qualify pl sc run e with
  | none => simp [closeRun_of_noise hq]
  | some k => simp [closeRun_of_qualifying hq, keepRun_drops]

theorem sampleScanner_drops (pl : Plan) (sc : Scanner) (o : Nat) (x : Sample) (st : ScannerState) :
    (sampleScanner pl sc o x st).2 =
      ((if x.prompt.toNat < pl.offLevel then st.run.bind (fun r => qualify pl sc r o) else none).isSome &&
        decide (4 ≤ (keptAt pl sc o st.kept).length)) := by
  have hk : (if sc.isTrailing then st.kept.filter (fun k => decide (o + 1 < k.stop + pl.endWin)) else st.kept) =
      keptAt pl sc o st.kept := by
    cases sc <;> simp [Scanner.isTrailing, keptAt]
  unfold sampleScanner
  simp only [hk]
  cases st.run with
  | none => simp only [Option.bind_none]; split <;> simp
  | some r =>
    by_cases hp : pl.offLevel ≤ x.prompt.toNat
    · simp [hp, Nat.not_lt.mpr hp]
    · simp [hp, Nat.lt_of_not_le hp, closeRun_drops]

theorem edgeClose_drops (pl : Plan) (sc : Scanner) (w : Nat) (st : ScannerState) :
    (edgeClose pl sc w st).2 = ((st.run.bind (fun r => qualify pl sc r w)).isSome && decide (4 ≤ st.kept.length)) := by
  unfold edgeClose
  cases st.run with
  | none => simp
  | some r => simp [closeRun_drops]

theorem countP_scannerOrder (f : Scanner → Bool) :
    scannerOrder.countP f = (f .aTop).toNat + (f .bBottom).toNat + (f .bTop).toNat + (f .aBottom).toNat := by
  simp only [scannerOrder, List.countP_cons, List.countP_nil]
  cases f .aTop <;> cases f .bBottom <;> cases f .bTop <;> cases f .aBottom <;> rfl

/-- The drops of one sample set. -/
theorem droppedCount_sampleAll (s : State) (o : Nat) (x : SampleSet) :
    droppedCount (sampleAll s.plan o x s.scan.scanners) = dropsAt s x o := by
  simp only [droppedCount, sampleAll, sampleScanner_drops, dropsAt, closingRun, countP_scannerOrder, forScanner]
  rfl

/-- The drops of a window's close. -/
theorem droppedCount_edgeCloseAll (pl : Plan) (w : Nat) (v : PerScanner ScannerState) :
    droppedCount (edgeCloseAll pl w v) = closeDrops pl w v := by
  simp only [droppedCount, edgeCloseAll, edgeClose_drops, closeDrops, countP_scannerOrder, forScanner]
  rfl

/-- A sample set counts its drops and nothing else (R26, R38). -/
theorem State.takeSet_tallied {s : State} (h : s.forcedCloseDue = false) :
    tallied s s.takeSet [] (List.replicate (stepDrops s s.samples) .runsDropped) 0 := by
  unfold State.takeSet stepDrops
  cases hw : s.scan.window with
  | none => exact tallied_of_same rfl rfl
  | some w =>
    have hc : w.count < 1023 := by simpa [State.forcedCloseDue, hw] using h
    simp only [hc, if_true, droppedCount_sampleAll]
    exact tallied_congr (State.noteDrops_tallied w.piece _ { s with
      scan := ⟨some { w with count := w.count + 1 },
        scannerStates (sampleAll s.plan w.count s.samples s.scan.scanners)⟩ }) rfl rfl rfl rfl rfl

/-! ## The printhead and the merge hold (R85, R102) -/

/-- A column fired counts its dots and nothing else (R102). -/
theorem State.fireColumn_tallied (s : State) (j : Impression) :
    tallied s (s.fireColumn j) [] [] (dotsOf (s.columnWord j j.next)) := by
  have h := State.countDots_tallied
    (({ s with printer := { s.printer with head := s.columnWord j j.next } }).updateRecord j.piece
      (fun r => { r with dots := r.dots + dotsOf (s.columnWord j j.next) })) (dotsOf (s.columnWord j j.next))
  unfold State.fireColumn
  dsimp only
  split <;> exact tallied_congr h rfl rfl rfl rfl rfl

/-- A step counts the dots of the column it fires (R101, R102). -/
theorem State.printStep_tallied (s : State) : tallied s s.printStep [] [] (stepDots s s.position) := by
  unfold State.printStep stepDots
  cases s.printer.job with
  | none => exact tallied_of_same rfl rfl
  | some j =>
    by_cases hp : s.position = posAdd j.base j.next
    · simpa only [hp, if_true] using s.fireColumn_tallied j
    · simpa only [hp, if_false] using tallied_of_same rfl rfl

/-- A raising of MERGE_GAP counts one in MERGE_GAPS (R85). -/
theorem State.raiseMergeGap_tallied (s : State) : tallied s s.raiseMergeGap [] [.mergeGaps] 0 :=
  tallied_congr (State.countEvent_tallied (s.setMergeGap true) .mergeGaps) rfl rfl rfl rfl rfl

/-! ## A piece's end (R106, R119, R152) -/

theorem State.record?_congr {s t : State} (h : s.records = t.records) (q : PieceNo) : s.record? q = t.record? q := by
  simp [State.record?, h]

/-- The record of a piece as its report has it: PARTIAL where an impression of it is in progress (R106). -/
def endedRecord (s : State) (r : Record) : Record :=
  if s.printer.job.map (·.piece) = some r.number then
    { r with result := .incomplete, flags := { r.flags with incomplete := true } } else r

@[simp] theorem endedRecord_number (s : State) (r : Record) : (endedRecord s r).number = r.number := by
  unfold endedRecord
  split <;> rfl

/-- The records of a trip are those of pieces that end (R105, R106). -/
theorem tripRecords_eq (s : State) : tripRecords s = s.records.map (endedRecord s) := by
  unfold tripRecords endedRecord
  cases s.printer.job <;> simp [eq_comm]

/-- An impression that ends PARTIAL leaves its piece's record PARTIAL. -/
theorem State.record?_endImpressionPartial {s : State} {p : PieceNo} {r : Record} (h : s.record? p = some r)
    (hj : s.printer.job.map (·.piece) = some p) : s.endImpressionPartial.record? p = some (endedRecord s r) := by
  have hn := State.number_of_record? h
  obtain ⟨j, hj', rfl⟩ := Option.map_eq_some_iff.mp hj
  have h3 : s.endImpressionPartial.record? j.piece = (s.updateRecord j.piece (fun r => { r with
      result := .incomplete, flags := { r.flags with incomplete := true } })).record? j.piece := by
    apply State.record?_congr
    unfold State.endImpressionPartial
    rw [hj']
  rw [h3, State.record?_updateRecord_same _ _ _ (by intro; rfl), h]
  simp [endedRecord, hj', hn]

/-- A tracked piece's end: the impression of it, if any, ended, the report appended and counted, the record freed. -/
theorem State.endPiece_of_record {s : State} {p : PieceNo} {r : Record} (h : s.record? p = some r)
    (o : Record → PieceOutcome) :
    let last := endedRecord s r
    s.endPiece p o = (((if s.printer.job.map (·.piece) = some p then s.endImpressionPartial else s).appendReport
      ⟨last, o last⟩).countReport ⟨last, o last⟩).freeRecord last := by
  have hn := State.number_of_record? h
  unfold State.endPiece
  cases hj : s.printer.job with
  | none => simp [h, endedRecord, hj]
  | some j =>
    by_cases hp : j.piece = p
    · simp [hp, State.record?_endImpressionPartial h (by simp [hj, hp])]
    · simp [hp, hn, h, endedRecord, hj]

/-- A piece's end counts its report and nothing else (R119, R132, R150, R152). -/
theorem State.endPiece_tallied {s : State} {p : PieceNo} {r : Record} (h : s.record? p = some r)
    (o : Record → PieceOutcome) :
    tallied s (s.endPiece p o) (reportCounters s.plan (endedRecord s r) (o (endedRecord s r)))
      (reasonCounters (endedRecord s r)) 0 := by
  rw [State.endPiece_of_record h]
  have key : ∀ (w : State) (x : Report) (y : Record), w.tally = s.tally → w.port = s.port → w.plan = s.plan →
      tallied s (((w.appendReport x).countReport x).freeRecord y) (reportCounters s.plan x.piece x.outcome)
        (reasonCounters x.piece) 0 := by
    intro w x y h1 h2 h3
    have h4 := State.countReport_tallied (w.appendReport x) x
    rw [show (w.appendReport x).plan = s.plan from h3] at h4
    refine tallied_congr h4 h1.symm h2.symm h3.symm ?_ ?_ <;> simp
  apply key <;> split <;> simp

/-- The impression in progress after a piece's end. -/
theorem State.endPiece_job {s : State} {p : PieceNo} {r : Record} (h : s.record? p = some r) (o : Record → PieceOutcome) :
    (s.endPiece p o).printer.job = (if s.printer.job.map (·.piece) = some p then none else s.printer.job) := by
  rw [State.endPiece_of_record h]
  have hk : ∀ (u : State) (x : Report) (y : Record),
      (((u.appendReport x).countReport x).freeRecord y).printer.job = u.printer.job := by
    intro u x y
    simp [State.appendReport]
  rw [hk]
  split
  · unfold State.endImpressionPartial
    split <;> simp_all
  · rfl

end Sys2Proof.Machine
end

