-- ==== Sys2Proof/Tests/Slice0.lean ====
section
/-! SUPPORT. The model's own tests: the checks of WellFormed, small one-step tests of the commands with results worked out from
the rules and the worked cases of the spec, and for each statement with hypotheses a state that meets them. -/

set_option Elab.async false

namespace Sys2Proof.Tests

open Sys2Proof Sys2Proof.Machine Sys2Proof.Safety

/-! ## Well-formedness -/

theorem test_unaligned_store_refused : (Instr.pageScan ⟨[⟨0x10102, 1⟩], 11⟩).wellFormed = false := by decide
theorem test_aligned_store_accepted : (Instr.pageScan ⟨[⟨0x10100, 1⟩, ⟨0xFFFFFFFC, 0⟩], 1⟩).wellFormed = true := by
  decide
theorem test_defined_kind_refused : (Instr.unknownKind 0 0 10).wellFormed = false := by decide
theorem test_undefined_kinds_accepted :
    (Instr.unknownKind 0 0 0).wellFormed = true ∧ (Instr.unknownKind 7 0 11).wellFormed = true := by decide
/-- Each CONTROL row refuses a word without its ENABLE and RESET bits and accepts one with them (R169, R179). -/
theorem test_control_words :
    (Instr.setEnable 0).wellFormed = false ∧ (Instr.setEnable 3).wellFormed = false ∧
      (Instr.setEnable 0x51).wellFormed = true ∧ (Instr.clearEnable 1).wellFormed = false ∧
      (Instr.clearEnable 0x20).wellFormed = true ∧ (Instr.scanTap 2).wellFormed = false ∧
      (Instr.scanTap 0x51).wellFormed = true := by decide
theorem test_no_word_decodes : decodeTableWord 32 0 = none := by decide

/-! ## States the tests start from -/

/-- The state a command leaves. -/
def after (c : Instr) (s : State) : State :=
  match exec c s with
  | .next t => t
  | .fault _ => s
  | .refused _ => s

/-- The plan of the worked cases (sections 1.8, 2.7, 3.9, 6.6, 8.5, 9.8), word by word. -/
def planList : List Nat :=
  [300, 1200, 1900, 2300, 600, 3400, 3700, 4200, 4600, 5000, 5400, 5800, 6300, 140, 600, 60, 20, 20, 10, 60, 40, 160, 80,
    8, 40, 24, 120, 20, 100, 12] ++
  [2, 1, 2, 0, 8, 20, 1, 2, 3, 2, 2, 6, 80, 1500, 2, 900, 120, 64, 5, 200, 2, 400, 150, 250, 350, 450, 0, 2000]

def workPlan : Plan := planOfWords planList

/-- In IDLE with a valid plan, ENABLE 1, the page at 0x10000, images present and the stackers IN. -/
def ready : State :=
  { State.reset with
    plan := workPlan, planValid := true
    printer := { State.reset.printer with
      slots := Vector.replicate 2 ⟨[0x1FFF, 0xFFF], 0⟩, banks := Vector.replicate 4 [0xFF, 0xFF, 0xFF] }
    router := { State.reset.router with inService := Vector.replicate 5 true }
    drive := { State.reset.drive with still := true, stillTimer := none }
    port := { State.reset.port with enable := true, pageAddress := 0x10000, scanTimer := some 8 } }

/-- RUNNING at speed with nothing on the lane. -/
def rolling : State :=
  { ready with
    position := 5000
    run := { ready.run with state := .running, hold := { ready.run.hold with notRunning := false }, feedEnable := true }
    drive := { code := 900, target := 900, rampTimer := none, still := false, stillTimer := some 200, report := none } }

/-- A piece of the length and lead given, with nothing decided. -/
def piece (n : PieceNo) (ph : Phase) (lead : Pos) (len : Option Nat) : Record :=
  { rolling.newRecord lead with number := n, phase := ph, lead := lead, length := len }

/-- RUNNING with one piece tracked. -/
def withPiece (r : Record) : State := { rolling with records := [r] }

/-- A cell covered by a piece. -/
def coveredBy (s : State) (c : Cell) (o : Option Occupant) : State :=
  s.setCell c { s.cell c with covered := true, occupant := o }

/-- An expectation of a piece at a cell, its window from 4,995 to 5,015. -/
def expecting (s : State) (c : Cell) (who : Occupant) : State := s.setQueue c [⟨who, 4995, 5015⟩]

/-- The schedule with one entry due now. -/
def due (s : State) (k : EntryKind) (n : PieceNo) : State := { s with schedule := [⟨k, n, s.position⟩] }

/-- Every counter at the greatest value of its width, the three groups masked or not. -/
def brimful (s : State) (masked : Bool) : State :=
  { s with
    plan := { s.plan with maskPiece := masked, maskEvent := masked, maskDots := masked }
    tally := { s.tally with
      pieces := Vector.replicate 29 0xFFFFFF, events := Vector.replicate 14 0xFFFF, dots := 0xFFFFFFFF } }

def jammed : State :=
  { ready with
    run := { ready.run with state := .jammed }
    protect := { ready.protect with latch := true, cause := some .guardOpened }
    pocket := { ready.pocket with motor := .hold } }

def decidedTag : Decision := ⟨some .aTop, some .tag, 2700, 0, some ⟨18, 62⟩, .straight, 1⟩

def silent : SampleSet := PerScanner.all ⟨12, 0⟩

def bright : SampleSet := PerScanner.all ⟨60, 40⟩

/-! ## The register port and the resets -/

theorem test_resetInput_clears_page_and_service :
    (after .resetInput ready).port.pageAddress = 0 ∧ (after .resetInput ready).router.inService.get 0 = false := by
  decide +kernel
theorem test_controlReset_keeps_page : 
    (after .controlReset ready).port.pageAddress = 0x10000 ∧ (after (.setEnable 0x53) ready).port.enable = false := by
  decide +kernel
theorem test_setEnable_starts_timer :
    (after (.setEnable 0x51) State.reset).port.scanTimer = some 32 ∧ (after (.setEnable 0x61) State.reset).port.scanTap = 3 := by
  decide +kernel
theorem test_clearEnable_not_taken_in_running : (after (.clearEnable 0) rolling).port.enable = true := by decide +kernel
/-- ENABLE 0 stops the timer (R169); in a page scan in progress the rest of it is made first (log entry 34). -/
theorem test_clearEnable_taken_in_idle :
    let t := after (.clearEnable 0) { ready with port := { ready.port with scanLeft := scanParts } }
    (after (.clearEnable 0) ready).port.scanTimer = none ∧ t.port.enable = false ∧ t.pageWord 0x21C = 1 := by
  decide +kernel
theorem test_scanTap :
    (after (.scanTap 0x51) ready).port.scanTap = 5 ∧ (after (.scanTap 0x51) ready).port.scanTimer = some 8 := by decide +kernel
theorem test_pageAddress_low_bits : (after (.pageAddressWrite 0x12345678) State.reset).port.pageAddress = 0x12345000 := by
  decide +kernel
theorem test_pageAddress_ignored : (after (.pageAddressWrite 0) ready).port.pageAddress = 0x10000 := by decide +kernel
/-- JAM masked leaves REQUEST_DONE the top cause, code 5 (R175). -/
theorem test_mask_moves_top :
    (after (.attentionMaskWrite 1) ((ready.raise .jam).raise .requestDone)).topCause = 5 := by decide +kernel
/-- A read of the mask shows bits 0 to 4 of the word written, and no other (R168, R179; the rest 0: log entry
33). -/
theorem test_mask_reads_back : (after (.attentionMaskWrite 0xFFFFFFEA) ready).maskWord = 0xA := by decide +kernel
/-- Causes JAM and CARRY in bits 0 and 2, top cause JAM, code 1, in bits 8 to 10 (R175, R179), and no other bit (log entry 33). -/
theorem test_attentionRead_word : (after .attentionRead ((ready.raise .jam).raise .carry)).port.readData = 0x105 := by
  decide +kernel
theorem test_attentionWrite_unseen_stands : (after (.attentionWrite 31) (ready.raise .jam)).port.causes.jam = true := by
  decide +kernel
theorem test_attentionWrite_seen_clears :
    (after (.attentionWrite 1) (after .attentionRead (ready.raise .jam))).port.causes.jam = false := by decide +kernel

/-! ## Inputs and belt travel -/

theorem test_position_wraps : (after (.forwardStep ⟨silent, .stepFirst⟩) { rolling with position := 65535 }).position = 0 := by
  decide +kernel
theorem test_travel_stops_at_65535 :
    (after (.forwardStep ⟨silent, .stepFirst⟩) { rolling with admission := ⟨9, some 0, 65535, none⟩ }).admission.travel = 65535 := by
  decide +kernel
theorem test_reverseStep : (after .reverseStep rolling).position = 5000 := by decide +kernel
theorem test_guardClosing :
    (after .guardClosing { ready with protect := { ready.protect with guardIsOpen := true } }).protect.guardIsOpen = false := by
  decide +kernel
theorem test_endFull_holds_feed :
    (after (.fullInputChange .endCatch .active) rolling).run.feedEnable = false ∧
      (after (.fullInputChange (.stk .stk1) .active) rolling).run.feedEnable = true := by decide +kernel
/-- Gate entries, a deadline and an overstay are taken at their due (R59). -/
theorem test_gateOpen : (after .gateOpen (due rolling (.gateOpen .twist) 7)).gate .twist = .opened := by decide +kernel
theorem test_gateClose :
    (after .gateClose ((due rolling (.gateClose .pocket) 7).setGate .pocket .opened)).gate .pocket = .closed := by
  decide +kernel
theorem test_overstay_trips :
    (after .overstay (due (withPiece (piece 7 .downstream 4700 (some 300))) (.overstay .merge) 7)).protect.cause =
      some .overstay := by decide +kernel
theorem test_deadline_without_expectation : (after .cellDeadline (due rolling (.cellDeadline .scan) 7)).run.state = .running := by
  decide +kernel
theorem test_deadline_with_expectation :
    (after .cellDeadline (due (expecting rolling .scan (.piece 7)) (.cellDeadline .scan) 7)).protect.cause = some .missing := by
  decide +kernel

/-! ## Covers and uncovers -/

/-- A cover of ENTRY at 5,000 with D_SCAN 300 and CELL_TOL 10: SCAN expected from 5,290 to 5,310, deadline 5,311, OVERSTAY at
6,023 (R5, R8, R11). -/
theorem test_entry_cover :
    (after (.cover ⟨.entry, .present⟩) rolling).queue .scan = [⟨.piece 1, 5290, 5310⟩] ∧
      (after (.cover ⟨.entry, .present⟩) rolling).schedule = [⟨.cellDeadline .scan, 1, 5311⟩, ⟨.overstay .entry, 1, 6023⟩] := by
  decide +kernel
/-- A piece of 99 steps is UNDERLENGTH with MIN_LEN 140 (R15). -/
theorem test_entry_uncover_underlength :
    (after (.uncover .entry) (coveredBy (withPiece (piece 7 .entering 4901 none)) .entry (some (.piece 7)))).records.map
      (fun r => (r.length, r.culls.underlength, r.culls.overlength)) = [(some 99, true, false)] := by decide +kernel
/-- The destination is STK1 for a TAG piece (R111); its gate opens 20 steps before the lead at the gate: 5,000 + 800 − 20, and
CANCEL is expected 300 steps on (R69, R8). With the gate 21 steps beyond MERGE its open is due one step after the cover's position:
ahead of the present one, and taken at once where the cover was captured one step earlier (R58). -/
theorem test_merge_cover_routes :
    let r := { piece 7 .travelling 1600 (some 300) with decision := some decidedTag }
    let s := expecting (withPiece r) .merge (.piece 7)
    let t := after (.cover ⟨.merge, .present⟩) s
    let near := { s with plan := { workPlan with dStk1 := 3421 } }
    let late := after (.cover ⟨.merge, .stepBefore⟩) near
    t.records.map (·.destination) = [some (.stk .stk1)] ∧ t.queue .cancel = [⟨.piece 7, 5290, 5310⟩] ∧
      (⟨.gateOpen (.stk .stk1), 7, 5780⟩ : Entry) ∈ t.schedule ∧
      (after (.cover ⟨.merge, .present⟩) near).gate (.stk .stk1) = .closed ∧ late.gate (.stk .stk1) = .opened ∧
      (late.cell .merge).coverAt = 4999 ∧ late.queue .cancel = [⟨.piece 7, 5289, 5309⟩] := by decide +kernel
/-- R43: of equal bests the first scanner of the tie order wins; R45: second × 16 at least best × 12 is AMBIGUOUS. -/
theorem test_tie_is_ambiguous :
    let l : PerScanner (List KeptRun) := ⟨[], [⟨8, 40, .tag, 900⟩], [], [⟨8, 40, .tag, 900⟩]⟩
    (winner l).map (·.1) = some .bBottom ∧ evidenceCulls workPlan CullSet.none l = CullSet.none.add .ambiguous := by
  decide +kernel
/-- Section 2.8: of 800, 450, 1,200, 450 and 450 the newest 450 is dropped; of 800, 450, 1,200, 450 and 600 the second 450. -/
theorem test_crowded_corner :
    let l : List KeptRun := [⟨8, 34, .tag, 800⟩, ⟨36, 62, .tag, 450⟩, ⟨64, 94, .tag, 1200⟩, ⟨96, 122, .tag, 450⟩]
    (keepRun l ⟨124, 150, .tag, 450⟩).1 = l ∧
      ((keepRun l ⟨152, 180, .tag, 600⟩).1.map (·.start)) = [8, 36, 64, 152] := by decide +kernel
/-- A completion: the piece leaves the table and its report is held (R119, R158). -/
theorem test_destination_uncover :
    let s := coveredBy (withPiece { piece 7 .downstream 4700 (some 300) with destination := some .endCatch }) .endCell
      (some (.piece 7))
    (after (.uncover .endCell) s).records = [] ∧
      (after (.uncover .endCell) s).reports.held.map (·.outcome) = [.sorted] := by decide +kernel

/-- R154's own numbers: 32 dots on DOTS at 4,294,967,280 leave 16, the carry flag set and, with the group unmasked, CARRY raised. -/
theorem test_dots_carry :
    let t := fun m : Bool => ({ brimful rolling m with tally := { rolling.tally with dots := 4294967280 } }).countDots 32
    (t false).tally.dots = 16 ∧ (t false).tally.dotsCarry = true ∧ (t false).port.causes.carry = true ∧
      (t true).tally.dots = 16 ∧ (t true).tally.dotsCarry = true ∧ (t true).port.causes.carry = false := by decide +kernel

/-! ## Guard, timers and counts -/

theorem test_guardOpening_trips :
    (after .guardOpening rolling).run.state = .jammed ∧ (after .guardOpening rolling).drive.target = 120 := by decide +kernel
theorem test_guardOpening_in_jam_cuts :
    (after .guardOpening { jammed with drive := ⟨500, 120, some 3, false, some 9, none⟩ }).drive.code = 0 ∧
      (after .guardOpening jammed).protect.furtherTrips = 1 := by decide +kernel
/-- From 896 a step of 64 does not pass the target 900 (R122), and START ends (R127). -/
theorem test_rampTick_ends_start :
    let s := { ready with
      run := { ready.run with state := .starting, request := some ⟨.start, 2, 99⟩ }
      drive := ⟨896, 900, some 5, false, some 200, none⟩ }
    let t := after (.rampTick .withTick) s
    t.drive.code = 900 ∧ t.run.state = .running ∧ t.pageWord (requestOffset 2 7) = 900 := by decide +kernel
/-- The tick that reaches RUN_CODE, then a STOP, then the report with the value of that tick: the STOP has made the run STOPPING and
the START SUPERSEDED, code 10, and the report makes no difference; without the STOP it ends the START (R127). -/
theorem test_stop_between_tick_and_report :
    let s := { ready with
      run := { ready.run with state := .starting, request := some ⟨.start, 2, 99⟩ }
      drive := ⟨896, 900, some 5, false, some 200, none⟩ }
    let t := after (.rampTick .afterwards) s
    let u := after (.rampTick .withTick) (after (.stop 1 4) t)
    t.drive.code = 900 ∧ t.run.state = .starting ∧ (after (.rampTick .withTick) t).run.state = .running ∧
      u.run.state = .stopping ∧ u.drive.code = 900 ∧ u.drive.target = 0 ∧ u.drive.report = none ∧
      u.pageWord (requestOffset 2 6) = 10 := by decide +kernel
theorem test_still_expiry_ends_stop :
    (after .stillTimerExpiry { rolling with
      run := { rolling.run with state := .stopping, request := some ⟨.stop, 1, 5⟩ }
      drive := ⟨0, 0, none, false, some 200, none⟩ }).run.state = .idle := by decide +kernel
/-- A CANCEL cover in JAMMED has no effect: the jam record shows MERGE, code 4. Where the OVERSTAY of the match is overdue, with a
length of 1, CELL_TOL 0 and a cover captured a step before, the trip leaves no destination expectation and the jam record shows
CANCEL, code 5 (R3, R58, R117, R140, R147). -/
theorem test_jam_record_of_cancel_covers :
    let r := { piece 7 .downstream 4700 (some 1) with lastCell := .merge, destination := some .endCatch }
    let s := { expecting { jammed with records := [r] } .cancel (.piece 7) with
      position := 5000, drive := ⟨0, 0, none, false, some 9, none⟩ }
    let u := { (withPiece r).setQueue .cancel [⟨.piece 7, 4999, 4999⟩] with plan := { workPlan with cellTol := 0 } }
    let v := after (.cover ⟨.cancel, .stepBefore⟩) u
    ((after .stillTimerExpiry (after (.cover ⟨.cancel, .present⟩) s)).pageWord 0x434).extractLsb' 4 4 = 4 ∧
      v.protect.cause = some .overstay ∧ v.queue .endCell = [] ∧ v.queue .cancel = [] ∧
      ((after .stillTimerExpiry v).pageWord 0x434).extractLsb' 4 4 = 5 := by decide +kernel
theorem test_dwell_ends_waiting :
    (after .dwellTimerExpiry { withPiece (piece 7 .pocketed 2700 (some 300)) with
      records := [piece 7 .pocketed 2700 (some 300), piece 8 .travelling 2200 (some 300)]
      pocket := { rolling.pocket with
        state := .dwell, occupant := some 7, dwellTimer := some 80, motor := .hold } }).pocket.holdTimer = some 1580 := by
  decide +kernel
theorem test_hold_expiry_raises_merge_gap :
    (after .holdTimerExpiry { withPiece (piece 7 .pocketed 2700 (some 300)) with
      records := [piece 7 .pocketed 2700 (some 300), piece 8 .travelling 2200 (some 300)]
      pocket := { rolling.pocket with state := .waiting, occupant := some 7, holdTimer := some 1500, motor := .hold } }
        ).run.hold.mergeGap = true := by decide +kernel
theorem test_tray_age_without_enable :
    (after .trayAgeExpiry { State.reset with
      reports := { State.reset.reports with ageTimer := some 4, tray := some ⟨3, 0x40000, 1, some 7, some 7⟩ } }
        ).reports.closeDue = true := by decide +kernel
theorem test_intake_starts_dwell :
    (after .intakeComplete { withPiece (piece 7 .pocketed 2700 (some 300)) with
      pocket := { rolling.pocket with state := .entering, occupant := some 7, intake := 300 } }).pocket.dwellTimer =
        some 80 := by decide +kernel
theorem test_forced_close_flags :
    (after .forcedClose { withPiece (piece 7 .scanning 3700 none) with
      scan := ⟨some ⟨7, 3977, 1023⟩, PerScanner.all ⟨none, []⟩⟩ }).records.map
        (fun r => (r.flags.forcedClose, r.culls.noIndicium)) = [(true, true)] := by decide +kernel
/-- A window opened by a late cover reaches 1,023 sets at the open position + 1,024: its SCAN uncover comes after the forced close; at
the open position + 1,023 steps the uncover may come first, and the close is normal (R27, R28). -/
theorem test_forced_close_before_uncover :
    let s := fun o : Pos => coveredBy { withPiece (piece 7 .scanning 3700 none) with
      scan := ⟨some ⟨7, o, 1023⟩, PerScanner.all ⟨none, []⟩⟩ } .scan (some (.piece 7))
    (after (.uncover .scan) (s 3976)).records.map (·.flags.forcedClose) = [true] ∧
      (after (.uncover .scan) (s 3977)).records.map (·.flags.forcedClose) = [false] := by decide +kernel
theorem test_crawl_ends_with_cut :
    (after .crawlEnd { jammed with
      plan := workPlan, drive := ⟨120, 120, none, false, some 9, none⟩
      protect := { jammed.protect with crawling := true, crawlCount := 400 } }).drive.code = 0 := by decide +kernel
theorem test_print_start_fires_column :
    let r := { piece 7 .downstream 4700 (some 300) with plan := some ⟨.full, 10, some 2, 3, 2⟩ }
    (after .printStart (due (withPiece r) .printStart 7)).printer.head = 0xFF ∧
      (after .printStart (due (withPiece r) .printStart 7)).tally.dots = 8 := by decide +kernel
theorem test_move_reports_fills_tray :
    let s := { rolling with reports := { rolling.reports with
      held := [⟨piece 7 .downstream 4700 (some 300), .sorted⟩], tray := some ⟨1, 0x40000, 0, none, none⟩ } }
    (after .moveReports s).mem.readWord 0x40020 = 7 ∧ (after .moveReports s).reports.ageTimer = some 2000 := by
  decide +kernel

/-! ## The page scan and requests -/

/-- A POSTED SNAPSHOT TALLIES is taken and answered within the scan, with its tag and the snapshot number; of two STARTs POSTED at one
scan the lower index is decided first, so the second finds the wrong state (R126, R155, R172, R173). -/
theorem test_page_scan_takes_posted :
    let t := after (.pageScan ⟨[⟨0x10144, 8⟩, ⟨0x10148, 77⟩, ⟨0x10140, 1⟩, ⟨0x10164, 2⟩, ⟨0x10160, 1⟩, ⟨0x10124, 2⟩,
      ⟨0x10120, 1⟩], 11⟩) ready
    t.pageWord (requestOffset 2 0) = cellDone ∧ t.pageWord (requestOffset 2 2) = 77 ∧
      t.pageWord (requestOffset 2 7) = 1 ∧ t.pageWord (requestOffset 1 0) = cellTaken ∧ t.run.state = .starting ∧
      t.pageWord (requestOffset 3 6) = 3 := by decide +kernel
/-- A belt step between the status block and step 2 ends still, so that step 2 writes no jam record; without it the rest of the scan
writes the record COMPLETE (R145, R170). -/
theorem test_page_scan_in_two_goes :
    let first := after (.pageScan ⟨[], 1⟩) jammed
    let rest := after (.pageScan ⟨[], 10⟩)
    first.pageWord 0x22C = 1 ∧ first.port.scanTimer = some 16 ∧ (rest first).pageWord 0x400 = recordComplete ∧
      (rest (after (.forwardStep ⟨silent, .stepFirst⟩) first)).pageWord 0x400 = 0 ∧ (rest first).port.scanLeft = [] := by
  decide +kernel
theorem test_loadPlan_blank_fails_check_1 :
    (after (.loadPlan 0 9) ready).pageWord (requestOffset 0 6) = 4 ∧
      (after (.loadPlan 0 9) ready).pageWord (requestOffset 0 7) = 1 := by decide +kernel
theorem test_worked_plan_passes : firstFailing (planChecks planList) = none := by decide +kernel
theorem test_start_accepted :
    (after (.start 0 9) ready).run.state = .starting ∧ (after (.start 0 9) ready).drive.rampTimer = some 5 := by decide +kernel
theorem test_start_guard_open :
    (after (.start 0 9) { ready with protect := { ready.protect with guardIsOpen := true } }).pageWord
      (requestOffset 0 6) = 7 := by decide +kernel
theorem test_drain_with_work :
    (after (.drain 1 4) (withPiece (piece 7 .travelling 4000 (some 300)))).run.state = .draining := by decide +kernel
theorem test_stop_supersedes :
    (after (.stop 1 4) { rolling with run := { rolling.run with state := .draining, request := some ⟨.drain, 3, 8⟩ } }
      ).pageWord (requestOffset 3 6) = 10 := by decide +kernel
theorem test_setImpression_refused_in_running :
    (after (.setImpression 1 4 0 2) rolling).pageWord (requestOffset 1 6) = 6 ∧
      (after (.setImpression 1 4 1 2) rolling).printer.waiting = some 1 := by decide +kernel
theorem test_loadKiller_97_columns : (after (.loadKiller 1 4 0 97) ready).pageWord (requestOffset 1 6) = 2 := by decide +kernel
theorem test_setStacker_out :
    (after (.setStacker 1 4 5 0) ready).router.inService.get 4 = false ∧
      (after (.setStacker 1 4 6 0) ready).pageWord (requestOffset 1 6) = 2 := by decide +kernel
theorem test_snapshot_clears :
    (after (.snapshotTallies 1 4 1) (ready.countPiece .completed)).tally.snapshot = 1 ∧
      (after (.snapshotTallies 1 4 1) (ready.countPiece .completed)).pageWord (tallyOffset + 32) = 1 := by decide +kernel
theorem test_closeTray_none : (after (.closeTray 1 4) ready).pageWord (requestOffset 1 6) = 12 := by decide +kernel
theorem test_clearJam_covered :
    (after (.clearJam 1 4) (jammed.setCell .endCell { clearCell with covered := true })).pageWord (requestOffset 1 7) = 11 := by
  decide +kernel
theorem test_clearJam_purges : (after (.clearJam 1 4) jammed).run.state = .idle := by decide +kernel
theorem test_unknownKind : (after (.unknownKind 1 4 11) ready).pageWord (requestOffset 1 6) = 1 := by decide +kernel
theorem test_empty_queue_ticks : step State.reset = .next { State.reset with now := 1 } := rfl

/-! ## States that meet the statements' hypotheses, clause by clause -/

/-- Every cell is clear, with an empty queue. -/
theorem rolling_cells (c : Cell) : (rolling.cell c).covered = false ∧ rolling.queue c = [] := by
  rcases c with _ | _ | _ | _ | _ | k | _ <;> first | exact ⟨rfl, rfl⟩ | (cases k <;> exact ⟨rfl, rfl⟩)

theorem jammed_cells (c : Cell) : (jammed.cell c).covered = false := by
  rcases c with _ | _ | _ | _ | _ | k | _ <;> first | rfl | (cases k <;> rfl)

/-- A report held. -/
def held (s : State) (n : Nat) : State :=
  { s with reports := { s.reports with held := List.replicate n ⟨piece 7 .downstream 4700 (some 300), .sorted⟩ } }

/-- A tray open, far from the run page. -/
def trayOpen (s : State) (n : Nat) : State :=
  { s with reports := { s.reports with tray := some ⟨3, 0x40000, n, some 5, some 6⟩, ageTimer := some 2000 } }

/-- The pocket waiting, with a main-lane piece in its window and without one. -/
def waiting (lead : Pos) : State :=
  { rolling with
    records := [piece 7 .pocketed 2700 (some 300), piece 8 .travelling lead (some 300)]
    pocket := { rolling.pocket with
      state := .waiting, occupant := some 7, passes := 1, holdTimer := some 1500, motor := .hold } }

/-- With the three groups masked no count calls for CARRY. -/
theorem brimful_masked (s : State) (pieces : List PieceCounter) (events : List EventCounter) (dots : Nat) :
    ¬ carryCalled (brimful s true) pieces events dots := by
  rintro (⟨h, _⟩ | ⟨h, _⟩ | ⟨h, _⟩) <;> exact absurd h (by simp [brimful])

/-- With them unmasked a count of the piece group, one of the event group and one dot each call for it. -/
theorem brimful_called (s : State) (c : PieceCounter) (e : EventCounter) :
    carryCalled (brimful s false) [c] [] 0 ∧ carryCalled (brimful s false) [] [e] 0 ∧
      carryCalled (brimful s false) [] [] 1 := by
  refine ⟨Or.inl ⟨rfl, c, ?_⟩, Or.inr (Or.inl ⟨rfl, e, ?_⟩), Or.inr (Or.inr ⟨rfl, ?_⟩)⟩
  · simp [brimful, pieceCount, Vector.get]
  · simp [brimful, eventCount, Vector.get]
  · simp [brimful]

theorem witness_ResetsRestoreEveryBlock : (2 : Word).getLsbD 1 = true ∧ (0x53 : Word).getLsbD 1 = true := by decide

/-- A page scan in progress with n of its parts worked. -/
def scanBroken (s : State) (n : Nat) : State := after (.pageScan ⟨[], n⟩) s

/-- A word for each of the clauses, with the tap codes 5, 6 and 0; and a page scan in progress, in IDLE and in a run. -/
theorem witness_PortWrites :
    ((0x51 : Word).getLsbD 1 = false ∧ (0x51 : Word).getLsbD 0 = ready.port.enable) ∧
      ((0x61 : Word).getLsbD 1 = false ∧ (0x61 : Word).getLsbD 0 = true ∧ State.reset.port.enable = false ∧
        State.reset.reports.tray = none ∧ (held (trayOpen State.reset 1) 1).port.enable = false ∧
        (held (trayOpen State.reset 1) 1).reports.tray ≠ none ∧ (held (trayOpen State.reset 1) 1).reports.held ≠ []) ∧
      ((0 : Word).getLsbD 1 = false ∧ (0 : Word).getLsbD 0 = false ∧ rolling.port.enable = true ∧
        rolling.run.state.isRunning = true ∧ ready.port.enable = true ∧ ready.run.state.isRunning = false ∧
        ready.port.scanLeft = [] ∧ rolling.port.scanLeft = []) ∧
      (∀ s ∈ [ready, rolling, (after (.start 0 9) ready)], (scanBroken s 1).port.scanLeft ≠ [] ∧
        (scanBroken s 1).port.enable = true) := by
  decide +kernel

theorem witness_InputsAreFollowed : feedFollows rolling := by decide +kernel

/-- In both orders, an entry standing two steps ahead where the entries come first; with an entry due at the present position, a
window at its last count, an intake and a crawl at their end; and with an open, a close, a deadline and an overstay due one step ahead,
which the entries-first order takes at the new position and the other leaves: the open moves its gate, and the overstay has tripped
the machine before the open window sees the step, which then takes no sample set. -/
theorem witness_ForwardStepCounts :
    let s := { rolling with schedule := [⟨.gateOpen .twist, 7, 5002⟩] }
    let w := { withPiece (piece 7 .scanning 3700 none) with scan := ⟨some ⟨7, 3977, 1023⟩, PerScanner.all ⟨none, []⟩⟩ }
    let i := { withPiece (piece 7 .pocketed 2700 (some 300)) with
      pocket := { rolling.pocket with state := .entering, occupant := some 7, intake := 300 } }
    let c := { jammed with plan := workPlan, protect := { jammed.protect with crawling := true, crawlCount := 400 } }
    stepsAlone rolling .stepFirst ∧ stepsAlone s .entriesFirst ∧ s.dueEntry = none ∧ s.forcedCloseDue = false ∧
      s.intakeDone = false ∧ s.crawlEnds = false ∧ s.scan.window = none ∧ s.printer.job = none ∧
      (due rolling (.gateOpen .twist) 7).dueEntry = some ⟨.gateOpen .twist, 7, 5000⟩ ∧
      (w.dueEntry = none ∧ w.forcedCloseDue = true ∧ (after .forcedClose w).dueEntry = none) ∧
      (i.dueEntry = none ∧ i.forcedCloseDue = false ∧ i.intakeDone = true) ∧
      (c.dueEntry = none ∧ c.forcedCloseDue = false ∧ c.intakeDone = false ∧ c.crawlEnds = true) ∧
      (∀ k ∈ [EntryKind.gateOpen .twist, .gateClose .twist, .cellDeadline .scan, .overstay .scan],
        let g := { withPiece (piece 7 .scanning 3700 none) with
          schedule := [⟨k, 7, 5001⟩], scan := ⟨some ⟨7, 4800, 200⟩, PerScanner.all ⟨none, []⟩⟩ }
        let first := after (.forwardStep ⟨bright, .entriesFirst⟩) g
        let later := after (.forwardStep ⟨bright, .stepFirst⟩) g
        g.dueEntry = none ∧ g.forcedCloseDue = false ∧ g.intakeDone = false ∧ g.crawlEnds = false ∧
          (stepMoved g bright).dueEntry = some ⟨k, 7, 5001⟩ ∧ first.schedule = [] ∧ later.schedule = [⟨k, 7, 5001⟩] ∧
          (first.gate .twist = .opened ↔ k = .gateOpen .twist) ∧ later.gate .twist = .closed ∧
          (first.run.state = .jammed ↔ k = .overstay .scan) ∧ later.run.state = .running ∧
          (first.scan.window = none ↔ k = .overstay .scan) ∧ later.scan.window.map (·.count) = some 201) := by
  decide +kernel

/-- Four scanners, one for each of the four clauses, with the sample count at its last value that takes a set. -/
def sampling (kept : List KeptRun) : ScanContext :=
  ⟨some ⟨7, 3978, 1022⟩,
    ⟨⟨none, [⟨8, 34, .tag, 800⟩]⟩, ⟨none, []⟩, ⟨some ⟨1000, 700, 200, 300⟩, []⟩, ⟨some ⟨990, 700, 400, 300⟩, kept⟩⟩⟩

def windowSamples : SampleSet := ⟨⟨59, 0⟩, ⟨60, 0⟩, ⟨40, 0⟩, ⟨39, 0⟩⟩

/-- With an empty list at the run that closes, and with four kept; with nothing printing, and with another piece printing. -/
theorem witness_ForwardStepSamples :
    let w : Window := ⟨7, 3978, 1022⟩
    let full := sampling (List.replicate 4 ⟨900, 930, .tag, 200⟩)
    let s := { withPiece (piece 7 .scanning 3700 none) with scan := sampling [] }
    let u := { s with scan := full, printer := { s.printer with job := some ⟨8, 4990, 3, 2, some 2, 0, 1, false⟩ } }
    s.dueEntry = none ∧ s.intakeDone = false ∧ s.crawlEnds = false ∧ stepsAlone s .entriesFirst ∧
      s.scan.window = some w ∧ w.count < 1023 ∧ s.record? w.piece ≠ none ∧ s.printer.job = none ∧
      (forScanner s.scan.scanners .aTop).run = none ∧ (forScanner windowSamples .aTop).prompt.toNat < s.plan.onLevel ∧
      (forScanner s.scan.scanners .bBottom).run = none ∧
      s.plan.onLevel ≤ (forScanner windowSamples .bBottom).prompt.toNat ∧
      (forScanner s.scan.scanners .bTop).run ≠ none ∧
      s.plan.offLevel ≤ (forScanner windowSamples .bTop).prompt.toNat ∧
      (forScanner s.scan.scanners .aBottom).run = some ⟨990, 700, 400, 300⟩ ∧
      (forScanner windowSamples .aBottom).prompt.toNat < s.plan.offLevel ∧
      qualify s.plan .aBottom ⟨990, 700, 400, 300⟩ 1022 = some ⟨990, 1022, .tag, 300⟩ ∧
      dropsAt s windowSamples 1022 = 0 ∧ dropsAt u windowSamples 1022 = 1 ∧ u.dueEntry = none ∧
      u.scan.window = some w ∧ u.printer.job.map (·.piece) = some 8 := by decide +kernel

/-- A TAG run, a METER run, one that is neither, and one that starts at END_WIN, too late for a leading-end scanner; a list short of
four and one of four; a scanner with a run still open at the close and one without. -/
theorem witness_RunListDropsWeakest :
    qualify workPlan .aTop ⟨8, 700, 400, 70000⟩ 40 = some ⟨8, 40, .tag, 65535⟩ ∧
      qualify workPlan .bTop ⟨800, 700, 50, 300⟩ 832 = some ⟨800, 832, .meter, 300⟩ ∧
      qualify workPlan .aTop ⟨8, 700, 150, 300⟩ 40 = none ∧
      qualify workPlan .aTop ⟨159, 700, 400, 300⟩ 190 ≠ none ∧ qualify workPlan .aTop ⟨160, 700, 400, 300⟩ 190 = none ∧
      ([] : List KeptRun).length < 4 ∧ (List.replicate 3 (⟨8, 34, .tag, 800⟩ : KeptRun)).length < 4 ∧
      (List.replicate 4 (⟨8, 34, .tag, 800⟩ : KeptRun)).length = 4 ∧
      (let v : PerScanner ScannerState := ⟨⟨some ⟨8, 700, 400, 300⟩, []⟩, ⟨none, []⟩, ⟨none, []⟩, ⟨none, []⟩⟩
       (forScanner v .aTop).run.bind (fun r => qualify workPlan .aTop r 40) = some ⟨8, 40, .tag, 300⟩ ∧
        (forScanner v .bTop).run.bind (fun r => qualify workPlan .bTop r 40) = none) := by decide +kernel

/-- One killer column and one die column to print, with the next column given. -/
def printing (base : Pos) (next : Nat) : State :=
  { withPiece (piece 7 .downstream 4700 (some 300)) with
    printer := { rolling.printer with job := some ⟨7, base, 1, 1, some 2, 0, next, false⟩ } }

/-- A step to the due of a column that is the last, to that of the first of two, and to neither; one with a window open; a column of
the bank and one of the slot. -/
theorem witness_ForwardStepFiresColumn :
    let s := { printing 5000 1 with scan := sampling [] }
    (printing 5000 1).dueEntry = none ∧ (printing 5000 1).forcedCloseDue = false ∧
      (printing 5000 1).intakeDone = false ∧ (printing 5000 1).crawlEnds = false ∧
      stepsAlone (printing 5000 1) .entriesFirst ∧ (printing 5000 1).scan.window = none ∧
      (printing 5000 1).position + 1 = posAdd 5000 1 ∧ (printing 5001 0).dueEntry = none ∧
      (printing 5001 0).position + 1 = posAdd 5001 0 ∧ (printing 5001 0).record? 7 ≠ none ∧
      (printing 5001 1).position + 1 ≠ posAdd 5001 1 ∧ s.dueEntry = none ∧ s.forcedCloseDue = false ∧
      s.scan.window ≠ none ∧ (rolling.printer.banks.get 2)[0]? = some 0xFF ∧
      (rolling.printer.slots.get 0).columns[1 - 1]? = some 0x1FFF := by decide +kernel

/-- Counters that wrap, with the groups masked and unmasked: an untracked piece, and a trip. -/
theorem witness_CountersWrap_untracked (m : Bool) :
    let s := brimful (held rolling 48) m
    s.run.state.isRunning = true ∧ (s.cell .entry).covered = false ∧ s.canAdmit = false ∧
      s.protect.guardIsOpen = false := by
  cases m <;> decide +kernel

/-- A column of eight dots. -/
theorem witness_CountersWrap_dots (m : Bool) :
    let s := brimful (printing 5001 0) m
    s.dueEntry = none ∧ s.forcedCloseDue = false ∧ s.position + 1 = posAdd 5001 0 ∧
      stepDots s (s.position + 1) = 8 := by
  cases m <;> decide +kernel

/-- A run dropped at a set, and at the close. -/
theorem witness_CountersWrap_drops (m : Bool) :
    let crowd := List.replicate 4 (⟨900, 930, .tag, 200⟩ : KeptRun)
    let s := brimful { withPiece (piece 7 .scanning 3700 (some 300)) with
      scan := ⟨some ⟨7, 3978, 1022⟩, PerScanner.all ⟨some ⟨990, 700, 400, 300⟩, crowd⟩⟩ } m
    s.dueEntry = none ∧ s.forcedCloseDue = false ∧ 0 < stepDrops s silent ∧
      0 < closeDrops s.plan 1022 s.scan.scanners := by
  cases m <;> decide +kernel

/-- A MERGE_GAP at a MERGE uncover and at the hold timer's expiry, with the window free and not. -/
theorem witness_CountersWrap_mergeGaps (m : Bool) (lead : Pos) (h : lead = 2200 ∨ lead = 4000) :
    let s := brimful (waiting lead) m
    s.pocket.state = .waiting ∧ s.pocket.holdTimer = some 1500 ∧ s.windowFree none = decide (lead = 4000) ∧
      s.pocket.mergeHold = false ∧ s.plan.mergeRatio ≤ min 255 (s.pocket.passes + 1) := by
  rcases h with rfl | rfl <;> cases m <;> decide +kernel

/-- A culled piece with no length and no decision, completing at END. -/
theorem witness_CountersWrap_report (m : Bool) :
    let r := ({ piece 7 .downstream 4700 none with destination := some .endCatch }).cull .shortGap
    let s := brimful (coveredBy (withPiece r) .endCell (some (.piece 7))) m
    s.run.state.isRunning = true ∧ (s.cell .endCell).covered = true ∧ (s.cell .endCell).occupant = some (.piece 7) ∧
      s.record? 7 = some r ∧ r.culls ≠ CullSet.none ∧ reasonCounters r = [.cull .shortGap] := by
  cases m <;> decide +kernel

theorem witness_CellsOutsideRun :
    (coveredBy ready .scan none |>.cell .scan).covered = true ∧ (ready.cell .scan).covered = false ∧
      ready.run.state = .idle ∧ jammed.run.state = .jammed ∧ (jammed.cell .endCell).covered = false := by
  decide +kernel

/-- A waiting pocket, whose window the new piece leaves free; one whose window a piece blocks; and an empty one. -/
theorem witness_EntryCoverAdmits :
    (∀ s ∈ [rolling, waiting 4000, waiting 2200],
      s.run.state.isRunning = true ∧ s.protect.latch = false ∧ (s.cell .entry).covered = false ∧ s.canAdmit = true ∧
        s.record? s.admission.nextPiece = none ∧ s.schedule = [] ∧
        (∀ k ∈ [Capture.present, .stepBefore],
          isAhead (posAdd (posAdd (posAdd (coverPos s k) s.plan.dScan) s.plan.cellTol) 1) s.position = true) ∧
        s.plan.dRelease + s.plan.cellTol < 32767 ∧ s.run.state.testsMerge = true) ∧
      (∀ lead c, (waiting lead).queue c = rolling.queue c) ∧ unknownPiece rolling rolling.admission.nextPiece ∧
      rolling.pocket.occupant = none ∧ (waiting 4000).pocket.state = .waiting ∧
      (after (.cover ⟨.entry, .present⟩) (waiting 4000)).pocket.state = .releasing ∧
      (after (.cover ⟨.entry, .present⟩) (waiting 2200)).pocket.state = .waiting :=
  ⟨by decide +kernel, fun _ _ => rfl,
    ⟨by decide +kernel, by decide +kernel, fun c x hx => by simp [(rolling_cells c).2] at hx⟩, by decide +kernel,
    by decide +kernel, by decide +kernel, by decide +kernel⟩

/-- A short gap behind an undecided piece. -/
theorem witness_EntryCoverAdmits_shortGap :
    let s := { withPiece (piece 7 .entering 4700 (some 250)) with
      admission := ⟨8, some 4950, 50, some (.piece 7)⟩ }
    s.canAdmit = true ∧ s.gapIsShort = true ∧ s.undecidedPrevious = some 7 := by decide +kernel

/-- 48 held reports and tracked pieces, at 7 and at 8 untracked expectations. -/
theorem witness_EntryCoverUntracked :
    let s := held rolling 48
    let t := s.setQueue .scan (List.replicate 7 ⟨.untracked, 4995, 5015⟩)
    let u := s.setQueue .scan (List.replicate 8 ⟨.untracked, 4995, 5015⟩)
    t.run.state.isRunning = true ∧ (t.cell .entry).covered = false ∧ t.canAdmit = false ∧ t.untrackedCount = 7 ∧
      u.run.state.isRunning = true ∧ (u.cell .entry).covered = false ∧ u.canAdmit = false ∧ u.untrackedCount = 8 := by
  decide +kernel

/-- With no expectation; with one whose window ended a step before; and with one whose window starts at the present position, which a
cover captured there meets and one captured a step before misses. -/
theorem witness_StrayCoverTrips :
    rolling.mem.wf = true ∧ rolling.run.state.isRunning = true ∧ rolling.protect.latch = false ∧
      (rolling.cell .merge).covered = false ∧ dropStale rolling.position (rolling.queue .merge) = [] ∧
      (let s := rolling.setQueue .merge [⟨.piece 7, 4979, 4999⟩]
       dropStale s.position (s.queue .merge) = [⟨.piece 7, 4979, 4999⟩] ∧
        2 * s.plan.cellTol < (s.position - 4979).toNat) ∧
      (let s := rolling.setQueue .merge [⟨.piece 7, 5000, 5020⟩]
       let pos := coverPos s .stepBefore
       pos = 4999 ∧ dropStale pos (s.queue .merge) = [⟨.piece 7, 5000, 5020⟩] ∧
        2 * s.plan.cellTol < (pos - 5000).toNat ∧ ¬ (2 * s.plan.cellTol < (s.position - 5000).toNat)) := by decide +kernel

/-- A queue whose head is an untracked expectation that is stale at 4,999 and at 5,000, before one of piece 7. -/
def behindStale (s : State) (c : Cell) : State := s.setQueue c [⟨.untracked, 4950, 4970⟩, ⟨.piece 7, 4995, 5015⟩]

/-- At a pocket reserved for the piece, and behind a stale head; the window's first and last positions match, and so they do for a
cover captured a step before; a stay of the length, and of a length not known; and at CANCEL, a stay of one step overdue. -/
theorem witness_TrackedCoverMatches :
    let r := piece 7 .travelling 4700 (some 300)
    let s := { behindStale (withPiece r) .pocket with pocket := { rolling.pocket with state := .reserved, occupant := some 7 } }
    let y := piece 7 .downstream 4700 (some 1)
    let u := { (withPiece y).setQueue .cancel [⟨.piece 7, 4999, 4999⟩] with plan := { workPlan with cellTol := 0 } }
    s.run.state.isRunning = true ∧ s.protect.latch = false ∧ (s.cell .pocket).covered = false ∧
      s.record? 7 = some r ∧ distanceAhead s.position 5000 ≤ 2 * s.plan.cellTol ∧
      distanceAhead s.position 4980 ≤ 2 * s.plan.cellTol ∧
      distanceAhead (coverPos s .stepBefore) 4999 ≤ 2 * s.plan.cellTol ∧
      distanceAhead (coverPos s .stepBefore) 4979 ≤ 2 * s.plan.cellTol ∧
      (∀ k ∈ [Capture.present, .stepBefore],
        dropStale (coverPos s k) (s.queue .pocket) = [⟨.piece 7, 4995, 5015⟩] ∧
          isAhead (stayDue s.plan (coverPos s k) (some 300)) s.position = true ∧
          isAhead (stayDue s.plan (coverPos s k) none) s.position = true) ∧ s.pocket.state = .reserved ∧
      (u.mem.wf = true ∧ u.run.state.isRunning = true ∧ u.protect.latch = false ∧ (u.cell .cancel).covered = false ∧
        u.record? 7 = some y ∧ coverPos u .stepBefore = 4999 ∧
        dropStale 4999 (u.queue .cancel) = [⟨.piece 7, 4999, 4999⟩] ∧
        distanceAhead (4999 : Pos) 4999 ≤ 2 * u.plan.cellTol ∧ isAhead (stayDue u.plan 4999 (some 1)) u.position = false) := by
  decide +kernel

/-- With the deadline of STK5 ahead, and with one overdue; the head of the queue stale. -/
theorem witness_CancelCoverExpectsDestination :
    let r := { piece 7 .downstream 4700 (some 300) with destination := some (.stk .stk5) }
    let old := { r with lead := 2000 }
    let s := behindStale (withPiece r) .cancel
    let u := behindStale (withPiece old) .cancel
    let deadline := fun x : Record =>
      posAdd (posAdd (posAdd x.lead (workPlan.destDistance (.stk .stk5) - workPlan.dMerge)) workPlan.cellTol) 1
    (∀ v ∈ [s, u], v.run.state.isRunning = true ∧ v.protect.latch = false ∧ (v.cell .cancel).covered = false ∧
      v.mem.wf = true ∧
      ∀ k ∈ [Capture.present, .stepBefore], dropStale (coverPos v k) (v.queue .cancel) = [⟨.piece 7, 4995, 5015⟩] ∧
        distanceAhead (coverPos v k) 4995 ≤ 2 * v.plan.cellTol ∧
        isAhead (stayDue v.plan (coverPos v k) (some 300)) v.position = true) ∧
      s.record? 7 = some r ∧ u.record? 7 = some old ∧ isAhead (deadline r) s.position = true ∧
      isAhead (deadline old) u.position = false := by decide +kernel

/-- A piece routed by its class to a stacker, with every due ahead; one that inherits the END of the piece it is coupled to; one whose
impression does not fit; a gate's open that is overdue for a cover captured a step before; and a METER piece, a culled one and one
with policy NOTHING. -/
theorem witness_MergeCoverRoutes :
    let r := { piece 7 .travelling 1600 (some 300) with decision := some decidedTag, coupledTo := some 6 }
    let s := behindStale (withPiece r) .merge
    let u := { s with router := { s.router with lastRouted := some (6, .endCatch) } }
    let v := { s with
      records := [{ r with decision := some { decidedTag with span := some ⟨250, 280⟩ } }]
      printer := { s.printer with banks := Vector.replicate 4 (List.replicate 96 0xFF) } }
    let ahead := fun l : List Entry => ∀ e ∈ l, isAhead e.due s.position = true
    s.run.state.isRunning = true ∧ s.protect.latch = false ∧ (s.cell .merge).covered = false ∧ s.record? 7 = some r ∧
      (∀ k ∈ [Capture.present, .stepBefore], dropStale (coverPos s k) (s.queue .merge) = [⟨.piece 7, 4995, 5015⟩] ∧
        isAhead (stayDue s.plan (coverPos s k) (some 300)) s.position = true) ∧
      distanceAhead s.position 4995 ≤ 2 * s.plan.cellTol ∧
      s.destAvailable (routeOf s.plan r).primary = true ∧ plannedPolicy s.plan r = some (.tag, ⟨18, 62⟩) ∧
      s.router.lastRouted = none ∧ ahead (arrivalEntries s.plan 7 s.position 300 (some 10) (.stk .stk1)) ∧
      u.record? 7 = some r ∧ u.router.lastRouted = some (6, .endCatch) ∧
      ahead (arrivalEntries u.plan 7 u.position 300 none .endCatch) ∧
      0 < availableLength v.plan 300 ⟨250, 280⟩ ∧ availableLength v.plan 300 ⟨250, 280⟩ < 96 + 2 ∧
      distanceAhead (coverPos s .stepBefore) 4995 ≤ 2 * s.plan.cellTol ∧
      (let near := arrivalEntries { workPlan with dStk1 := 3421 } 7 (coverPos s .stepBefore) 300 none (.stk .stk1)
       (⟨.gateOpen (.stk .stk1), 7, 5000⟩ : Entry) ∈ near ∧ isAhead 5000 s.position = false ∧
        (⟨.gateClose (.stk .stk1), 7, 5340⟩ : Entry) ∈ near ∧ isAhead 5340 s.position = true) ∧
      plannedPolicy s.plan { r with decision := some { decidedTag with cls := some .meter } } = some (.meter, ⟨18, 62⟩) ∧
      plannedPolicy s.plan (r.cull .noRoom) = none ∧ (r.cull .noRoom).culls ≠ CullSet.none ∧
      plannedPolicy { s.plan with policyTag := .nothing } r = none := by decide +kernel

theorem witness_UntrackedCoverMatches :
    let s := expecting rolling .merge .untracked
    s.run.state.isRunning = true ∧ (s.cell .merge).covered = false ∧ s.pocket.state ≠ .releasing ∧
      ∀ k ∈ [Capture.present, .stepBefore],
        dropStale (coverPos s k) (s.queue .merge) = [⟨.untracked, 4995, 5015⟩] ∧
          distanceAhead (coverPos s k) 4995 ≤ 2 * s.plan.cellTol := by decide +kernel

def releasing : State :=
  { withPiece (piece 7 .released 2700 (some 300)) with
    pocket := { rolling.pocket with state := .releasing, occupant := some 7, cellClear := true, motor := .outward } }

theorem witness_PocketCoverTakenBack :
    releasing.run.state.isRunning = true ∧ (releasing.cell .pocket).covered = false ∧ releasing.pocket.state = .releasing ∧
      releasing.pocket.cellClear = true ∧ releasing.pocket.occupant = some 7 := by decide +kernel

theorem witness_EntryUncoverMeasures :
    let s := coveredBy (withPiece (piece 7 .entering 4700 none)) .entry (some (.piece 7))
    let u := coveredBy rolling .entry (some .untracked)
    s.run.state.isRunning = true ∧ (s.cell .entry).covered = true ∧ (s.cell .entry).occupant = some (.piece 7) ∧
      s.record? 7 ≠ none ∧ u.run.state.isRunning = true ∧ (u.cell .entry).covered = true := by decide +kernel

/-- At each cell the statement names; at SCAN with no window open, and with that of another piece. -/
theorem witness_UncoverHandedToNobody :
    let s := coveredBy rolling .cancel (some (.piece 7))
    let u := coveredBy rolling .merge none
    let v := coveredBy rolling .endCell (some .untracked)
    let w := coveredBy rolling .scan (some (.piece 7))
    let x := { w with scan := ⟨some ⟨8, 4800, 200⟩, PerScanner.all ⟨none, []⟩⟩ }
    s.run.state.isRunning = true ∧ (s.cell .cancel).covered = true ∧ (u.cell .merge).covered = true ∧
      (u.cell .merge).occupant = none ∧ (v.cell .endCell).covered = true ∧
      (v.cell .endCell).occupant = some .untracked ∧
      ((w.cell .scan).covered = true ∧ (w.cell .scan).occupant = some (.piece 7) ∧ w.scan.window = none) ∧
      (x.cell .scan).occupant = some (.piece 7) ∧ x.scan.window.map (·.piece) = some 8 := by decide +kernel

/-- A normal close with runs open at it, and a forced one, alone and ahead of an uncover one step beyond the window; the entries of each
turning lie ahead at both. -/
theorem witness_WindowCloseDecides :
    let x : Window := ⟨7, 4700, 300⟩
    let runs : PerScanner ScannerState := PerScanner.all ⟨some ⟨20, 700, 200, 300⟩, []⟩
    let s := coveredBy { withPiece (piece 7 .scanning 4400 (some 300)) with scan := ⟨some x, runs⟩ } .scan (some (.piece 7))
    let u := { withPiece (piece 7 .scanning 4000 (some 1030)) with scan := ⟨some ⟨7, 3977, 1023⟩, runs⟩ }
    s.run.state.isRunning = true ∧ (s.cell .scan).covered = true ∧ (s.cell .scan).occupant = some (.piece 7) ∧
      (s.record? 7).bind (·.length) = some 300 ∧ s.scan.window = some x ∧ s.protect.latch = false ∧
      (u.record? 7).bind (·.length) = some 1030 ∧ u.scan.window = some ⟨7, 3977, 1023⟩ ∧ u.forcedCloseDue = true ∧
      u.protect.latch = false ∧ rolling.forcedCloseDue = false ∧ x.count < 1023 ∧
      (let v := coveredBy { u with scan := ⟨some ⟨7, 3976, 1023⟩, runs⟩ } .scan (some (.piece 7))
       v.run.state.isRunning = true ∧ (v.cell .scan).covered = true ∧ (v.cell .scan).occupant = some (.piece 7) ∧
        1023 < distanceAhead v.position 3976 ∧ ¬ 1023 < distanceAhead v.position 3977) ∧
      ∀ turn ∈ [Turning.straight, .twist, .reverse, .both],
        (∀ e ∈ decisionEntries s.plan 7 4400 300 turn, isAhead e.due s.position = true) ∧
          ∀ e ∈ decisionEntries u.plan 7 4000 1030 turn, isAhead e.due u.position = true := by decide +kernel

theorem witness_WinnerIsStrongest :
    let l : PerScanner (List KeptRun) := ⟨[], [⟨8, 40, .tag, 900⟩], [], [⟨8, 40, .tag, 900⟩]⟩
    winner l = some (.bBottom, ⟨8, 40, .tag, 900⟩) ∧ winner ⟨[], [], [], []⟩ = none := by decide +kernel

/-- A reversal in time and too late, with the first turning gate's open due one step ahead and at the present position; an
ambiguous reading; a straight one. -/
theorem witness_JudgementTurnsOnlySafely :
    let r := piece 7 .scanning 3000 (some 300)
    let rev : PerScanner (List KeptRun) := ⟨[], [], [⟨8, 40, .tag, 900⟩], []⟩
    let up : PerScanner (List KeptRun) := ⟨[⟨8, 40, .tag, 900⟩], [], [], []⟩
    let amb : PerScanner (List KeptRun) := ⟨[⟨8, 40, .tag, 16⟩], [⟨8, 40, .tag, 12⟩], [], []⟩
    (evidenceCulls workPlan r.culls rev).primary = none ∧ calledTurning rev = .reverse ∧
      isAhead (openDue workPlan r.lead workPlan.dRev) 4879 = true ∧
      isAhead (openDue workPlan r.lead workPlan.dRev) 4880 = false ∧
      evidenceCulls workPlan r.culls rev = CullSet.none ∧ evidenceCulls workPlan r.culls amb ≠ CullSet.none ∧
      (evidenceCulls workPlan r.culls up).primary = none ∧ calledTurning up = .straight ∧
      (evidenceCulls workPlan r.culls amb).primary ≠ none ∧ winner ⟨[], [], [], []⟩ = none := by decide +kernel

/-- A pocket in each of its six states. -/
theorem witness_PocketUncoverTaken :
    ∀ st : PocketState,
      let s := coveredBy { withPiece (piece 7 .pocketed 2700 (some 300)) with
        pocket := { rolling.pocket with state := st, occupant := some 7 } } .pocket (some (.piece 7))
      s.run.state.isRunning = true ∧ s.protect.latch = false ∧ (s.cell .pocket).covered = true ∧
        (s.cell .pocket).occupant = some (.piece 7) ∧ s.pocket.state = st := by
  intro st; cases st <;> decide +kernel

/-- A released occupant in DRAINING with nothing tracked, at speed and with the belt still at code 0. -/
theorem witness_PocketUncoverTaken_drain :
    let s := coveredBy { releasing with records := [], run := { releasing.run with state := .draining } } .pocket
      (some (.piece 7))
    let u := { s with drive := ⟨0, 900, some 5, true, none, none⟩ }
    s.run.state = .draining ∧ s.records = [] ∧ s.pocket.state = .releasing ∧
      ¬ (s.drive.code = 0 ∧ s.drive.still = true) ∧ u.run.state = .draining ∧ u.drive.code = 0 ∧ u.drive.still = true ∧
      u.mem.wf = true := by decide +kernel

theorem witness_MergeUncoverPasses :
    let s := coveredBy (waiting 2200) .merge (some .untracked)
    let u := coveredBy (waiting 4000) .merge (some .untracked)
    let m := { s with pocket := { s.pocket with mergeHold := true } }
    let f := { s with pocket := { s.pocket with passes := 0 } }
    s.run.state.isRunning = true ∧ (s.cell .merge).covered = true ∧ (s.cell .merge).occupant = some .untracked ∧
      s.pocket.state = .waiting ∧ s.pocket.occupant = some 7 ∧ (s.record? 7).bind (·.length) = some 300 ∧
      s.windowFree none = false ∧ s.plan.mergeRatio ≤ min 255 (s.pocket.passes + 1) ∧ s.pocket.mergeHold = false ∧
      u.run.state.testsMerge = true ∧ u.windowFree none = true ∧ u.pocket.occupant = some 7 ∧ u.protect.latch = false ∧
      u.plan.dRelease + u.plan.cellTol < 32767 ∧ rolling.pocket.state ≠ .waiting ∧ m.pocket.mergeHold = true ∧
      m.windowFree none = false ∧ min 255 (f.pocket.passes + 1) < f.plan.mergeRatio ∧ f.windowFree none = false := by
  decide +kernel

/-- A completion in RUNNING; that of the piece under the head; the last one in DRAINING, at speed and with the belt still at code 0. -/
theorem witness_DestinationUncoverCompletes :
    let r := { piece 7 .downstream 4700 (some 300) with destination := some (.stk .stk3) }
    let s := coveredBy (withPiece r) (.stk .stk3) (some (.piece 7))
    let v := { s with printer := { s.printer with job := some ⟨7, 4990, 3, 2, some 2, 0, 1, false⟩ } }
    let u := { s with run := { s.run with state := .draining, request := some ⟨.drain, 3, 8⟩ } }
    let w := { u with drive := ⟨0, 0, none, true, none, none⟩ }
    s.run.state.isRunning = true ∧ (s.cell (.stk .stk3)).covered = true ∧
      (s.cell (.stk .stk3)).occupant = some (.piece 7) ∧ s.record? 7 = some r ∧ s.printer.job = none ∧
      v.printer.job.map (·.piece) = some 7 ∧ u.run.state = .draining ∧ u.records.filter (fun y => y.number != 7) = [] ∧
      u.pocket.state = .empty ∧ ¬ (u.drive.code = 0 ∧ u.drive.still = true) ∧ w.run.state = .draining ∧
      w.drive.code = 0 ∧ w.drive.still = true ∧ w.mem.wf = true ∧
      ([149, 150, 249, 250, 349, 350, 449, 450].map (fun n => (lengthBin workPlan (some n)).val) = [0, 1, 1, 2, 2, 3, 3, 4] ∧
        workPlan.b1 = 150 ∧ workPlan.b2 = 250 ∧ workPlan.b3 = 350 ∧ workPlan.b4 = 450) := by decide +kernel

theorem witness_GuardOpeningTrips :
    let o := { ready with protect := { ready.protect with guardIsOpen := true } }
    o.mem.wf = true ∧ o.protect.guardIsOpen = true ∧ ready.protect.guardIsOpen = false ∧ ready.protect.latch = false ∧
      ready.run.state.isRunning = false ∧ rolling.protect.guardIsOpen = false ∧ rolling.run.state.isRunning = true ∧
      jammed.mem.wf = true ∧ jammed.protect.guardIsOpen = false ∧ jammed.protect.latch = true ∧
      ({ jammed with protect := { jammed.protect with recordWritten := true } }).port.enable = true := by decide +kernel

/-- At an expiry, and with a scan in progress; request cell 7 POSTED; the jam record due, and its rewrite; an age close due; rack entry
3 READY, and no entry READY. -/
theorem witness_PageScanWritesStatusAndTakes :
    let posted := ready.applyStores [⟨0x101E0, 1⟩]
    let racked := held (rolling.applyStores [⟨0x10258, 1⟩, ⟨0x1025C, 0x40000⟩]) 2
    let rewrite := { jammed with protect := { jammed.protect with recordWritten := true, rewriteDue := true } }
    let aged := trayOpen rolling 1
    ready.mem.wf = true ∧ ready.port.scanTimer = some 8 ∧ State.reset.port.scanTimer = none ∧ ready.port.scanLeft = [] ∧
      (scanBroken ready 1).port.scanLeft.length = 10 ∧ (scanBroken ready 1).mem.wf = true ∧ (scanBroken ready 11).port.scanLeft = [] ∧
      posted.pageWord (requestOffset 7 0) = cellPosted ∧ takesCell posted 7 ∧ ¬ takesCell ready 7 ∧
      (jammed.protect.latch = true ∧ jammed.drive.still = true ∧ jammed.port.enable = true ∧
        jammed.protect.recordWritten = false ∧ jammed.records.length ≤ 32) ∧
      (rewrite.protect.rewriteDue = true ∧ rewrite.port.enable = true) ∧
      ({ aged with reports := { aged.reports with closeDue := true } }).reports.tray ≠ none ∧
      firstReady racked 3 ∧ racked.reports.held ≠ [] ∧ racked.reports.tray = none ∧
      (∀ i : Fin 16, (held ready 1).pageWord (rackOffset i 0) ≠ rackReady) ∧ ready.reports.starved = false := by
  decide +kernel

/-- A ramp short of its target, at a target that is no event, at the end of a START, and at code 0 in STOPPING with the belt still and
pieces tracked that no tray takes; and a report outstanding, in STARTING, in STOPPING and after a STOP has come between. -/
theorem witness_RampTickMovesCode :
    let s := { rolling with drive := ⟨300, 900, some 5, false, some 200, none⟩ }
    let u := { rolling with drive := ⟨840, 900, some 5, false, some 200, none⟩ }
    let v := { u with run := { u.run with state := .starting, request := some ⟨.start, 2, 9⟩ } }
    s.mem.wf = true ∧ min (s.drive.code + s.plan.codeStep) s.drive.target ≠ s.drive.target ∧
      min (u.drive.code + u.plan.codeStep) u.drive.target = u.drive.target ∧ u.run.state = .running ∧
      v.drive.target = v.plan.runCode ∧ v.run.state = .starting ∧ v.run.request ≠ none ∧
      (let o := { v with drive := ⟨900, 900, none, false, some 200, some 900⟩ }
       let p := { rolling with run := { rolling.run with state := .stopping }, drive := ⟨0, 0, none, true, none, some 0⟩ }
       o.drive.report = some o.plan.runCode ∧ o.mem.wf = true ∧ o.run.state = .starting ∧ p.drive.report = some 0 ∧
        p.run.state = .stopping ∧ p.drive.still = true ∧ (after (.stop 1 4) o).drive.report = some 900) ∧
      (let w := { waiting 2200 with
          run := { rolling.run with state := .stopping, request := some ⟨.stop, 1, 5⟩ }
          drive := ⟨64, 0, some 5, true, none, none⟩ }
       w.mem.wf = true ∧ w.drive.rampTimer = some 5 ∧ max (w.drive.code - w.plan.codeStep) w.drive.target = 0 ∧
        w.run.state = .stopping ∧ w.drive.still = true ∧ (w.records.map (·.number)).Nodup ∧ w.records.length = 2 ∧
        w.reports.tray = none ∧ pocketHeld w ∧ w.record? 7 ≠ none ∧
        ∀ i : Fin 16, w.pageWord (rackOffset i 0) ≠ rackReady) ∧
      State.reset.drive.rampTimer = none := by decide +kernel

/-- In RUNNING; in STOPPING with nothing tracked, and with two pieces that no tray takes; and in JAMMED with 32. -/
theorem witness_StillExpiryTells :
    let s := { rolling with
      run := { rolling.run with state := .stopping, request := some ⟨.stop, 1, 5⟩ }, drive := ⟨0, 0, none, false, some 200, none⟩ }
    let u := { jammed with
      drive := ⟨0, 0, none, false, some 200, none⟩, records := List.replicate 32 (piece 7 .downstream 4700 (some 300)) }
    let p := { s with records := (waiting 2200).records, pocket := (waiting 2200).pocket }
    (p.mem.wf = true ∧ p.run.state = .stopping ∧ p.drive.code = 0 ∧ p.protect.latch = false ∧
        (p.records.map (·.number)).Nodup ∧ p.records.length = 2 ∧ p.reports.tray = none ∧ pocketHeld p ∧
        p.record? 7 ≠ none ∧ ∀ i : Fin 16, p.pageWord (rackOffset i 0) ≠ rackReady) ∧
      rolling.mem.wf = true ∧ rolling.drive.stillTimer = some 200 ∧ rolling.run.state ≠ .stopping ∧
      rolling.protect.latch = false ∧ s.run.state = .stopping ∧ s.drive.code = 0 ∧ s.protect.latch = false ∧
      s.records = [] ∧ s.reports.held = [] ∧ s.reports.tray = none ∧ u.mem.wf = true ∧ u.run.state = .jammed ∧
      u.protect.latch = true ∧ u.port.enable = true ∧ u.protect.recordWritten = false ∧ u.records.length ≤ 32 ∧
      ({ u with port := { u.port with enable := false } }).drive.stillTimer = some 200 ∧
      ready.drive.stillTimer = none := by decide +kernel

theorem witness_StrandingReportsEveryPiece :
    let s := waiting 2200
    (s.records.map (·.number)).Nodup ∧ s.printer.job = none ∧ s.pocket.occupant = some 7 ∧ s.record? 7 ≠ none ∧
      s.pocket.state ≠ .empty := by decide +kernel

theorem witness_PocketTimersExpire :
    let d := fun lead : Pos => { waiting lead with
      pocket := { (waiting lead).pocket with state := .dwell, holdTimer := none, dwellTimer := some 80 } }
    let m := { waiting 2200 with pocket := { (waiting 2200).pocket with mergeHold := true } }
    (d 4000).pocket.dwellTimer = some 80 ∧ (d 4000).windowFree none = true ∧ (d 4000).pocket.occupant ≠ none ∧
      (d 2200).windowFree none = false ∧ (waiting 4000).pocket.holdTimer = some 1500 ∧
      (waiting 4000).run.state.testsMerge = true ∧ (waiting 4000).windowFree none = true ∧
      (waiting 2200).windowFree none = false ∧ (waiting 2200).pocket.mergeHold = false ∧ m.pocket.mergeHold = true ∧
      (d 4000).protect.latch = false ∧ (d 4000).plan.dRelease + (d 4000).plan.cellTol < 32767 ∧
      (waiting 2200).pocket.state ≠ .dwell ∧ (d 2200).pocket.state ≠ .waiting ∧
      rolling.pocket.dwellTimer = none ∧ rolling.pocket.holdTimer = none := by decide +kernel

/-- An open tray whose eight header words lie apart from the rack entry of the page. -/
theorem header_apart (k : Nat) (hk : k < 8) :
    wordsApart (0x40000 + BitVec.ofNat 32 (4 * k)) (rolling.pageAt (rackOffset 3 0)) ∧
      ∀ w, w < 8 → wordsApart (0x40000 + BitVec.ofNat 32 (4 * k)) (rolling.pageAt (requestOffset 1 w)) := by
  have hk' : k = 0 ∨ k = 1 ∨ k = 2 ∨ k = 3 ∨ k = 4 ∨ k = 5 ∨ k = 6 ∨ k = 7 := by omega
  refine ⟨?_, fun w hw => ?_⟩
  · rcases hk' with rfl | rfl | rfl | rfl | rfl | rfl | rfl | rfl <;> unfold wordsApart <;> decide +kernel
  · have hw' : w = 0 ∨ w = 1 ∨ w = 2 ∨ w = 3 ∨ w = 4 ∨ w = 5 ∨ w = 6 ∨ w = 7 := by omega
    rcases hk' with rfl | rfl | rfl | rfl | rfl | rfl | rfl | rfl <;>
      rcases hw' with rfl | rfl | rfl | rfl | rfl | rfl | rfl | rfl <;> unfold wordsApart <;> decide +kernel

theorem witness_TrayAgeCloses :
    State.reset.reports.ageTimer = none ∧ (trayOpen State.reset 1).reports.ageTimer = some 2000 ∧
      (trayOpen State.reset 1).port.enable = false ∧ (trayOpen rolling 1).mem.wf = true ∧
      (trayOpen rolling 1).reports.ageTimer = some 2000 ∧ (trayOpen rolling 1).port.enable = true ∧
      (trayOpen rolling 1).reports.tray = some ⟨3, 0x40000, 1, some 5, some 6⟩ ∧ (trayOpen rolling 1).reports.held = [] ∧
      (held (trayOpen rolling 1) 2).reports.tray = some ⟨3, 0x40000, 1, some 5, some 6⟩ ∧
      ∀ k, k < 8 → wordsApart (0x40000 + BitVec.ofNat 32 (4 * k)) ((trayOpen rolling 1).pageAt (rackOffset 3 0)) :=
  ⟨by decide +kernel, by decide +kernel, by decide +kernel, by decide +kernel, by decide +kernel, by decide +kernel,
    by decide +kernel, by decide +kernel, by decide +kernel, fun k hk => (header_apart k hk).1⟩

/-- At the boundary of each count: reached, and one short of it. -/
theorem witness_IntakeAndCrawlComplete :
    let s := fun n : Nat => { withPiece (piece 7 .pocketed 2700 (some 300)) with
      pocket := { rolling.pocket with state := .entering, occupant := some 7, intake := n } }
    let u := fun n : Nat => { jammed with
      plan := workPlan, protect := { jammed.protect with crawling := true, crawlCount := n } }
    (s 300).intakeDone = true ∧ (s 299).intakeDone = false ∧ (u 400).crawlEnds = true ∧ (u 399).crawlEnds = false := by
  decide +kernel

theorem witness_GateEntriesMoveGates :
    (due rolling (.gateOpen .twist) 7).dueEntry = some ⟨.gateOpen .twist, 7, 5000⟩ ∧
      (due rolling (.gateClose (.stk .stk5)) 7).dueEntry = some ⟨.gateClose (.stk .stk5), 7, 5000⟩ ∧
      jammed.protect.latch = true ∧ rolling.protect.latch = false ∧ isAhead 5000 rolling.position = false := by
  decide +kernel

theorem witness_SameGateSpansJoin : rolling.protect.latch = false ∧ isAhead 5001 rolling.position = true := by
  decide +kernel

/-- Two columns and one; nothing printing and piece 8 printing; the due of piece 7 one step ahead, at which piece 8 has a column to fire
and has none; and dues that are overdue by none of five columns, by one, by all but the last and by all. -/
theorem witness_PrintStartFiresFirstColumn :
    let pl : CancelPlan := ⟨.full, 10, some 2, 3, 2⟩
    let one : CancelPlan := ⟨.dieOnly, 10, none, 0, 1⟩
    let s := due (withPiece { piece 7 .downstream 4700 (some 300) with plan := some pl }) .printStart 7
    let u := due (withPiece { piece 7 .downstream 4700 (some 300) with plan := some one }) .printStart 7
    let v := fun base : Pos => { s with
      schedule := [⟨.printStart, 7, 5001⟩]
      records := [piece 8 .downstream 4300 (some 300), { piece 7 .downstream 4700 (some 300) with plan := some pl }]
      printer := { s.printer with job := some ⟨8, base, 3, 2, some 2, 0, 2, false⟩ } }
    s.dueEntry = some ⟨.printStart, 7, s.position⟩ ∧ s.printer.job = none ∧ (s.record? 7).map (·.plan) = some (some pl) ∧
      1 < pl.killer + pl.die ∧ u.dueEntry = some ⟨.printStart, 7, u.position⟩ ∧ u.printer.job = none ∧
      (u.record? 7).map (·.plan) = some (some one) ∧ one.killer + one.die = 1 ∧
      (due (v 4999) .printStart 7).dueEntry = some ⟨.printStart, 7, 5000⟩ ∧
      (v 4999).schedule = [⟨.printStart, 7, (v 4999).position + 1⟩] ∧ (v 4999).protect.latch = false ∧
      (v 4999).scan.window = none ∧ (v 4999).intakeDone = false ∧ (v 4999).crawlEnds = false ∧
      ((v 4999).record? 7).map (·.plan) = some (some pl) ∧ (v 4999).record? 8 ≠ none ∧ 2 + 1 < 3 + 2 ∧
      (v 4999).position + 1 = posAdd 4999 2 ∧ (v 5000).position + 1 ≠ posAdd 5000 2 ∧
      (∀ d ∈ [0, 1, 4, 5], isAhead ((v 4999).position - BitVec.ofNat 16 d) (v 4999).position = false) ∧
      pl.killer + pl.die = 5 := by decide +kernel

theorem witness_DeadlinesTrip :
    let s := due (expecting rolling .scan (.piece 7)) (.cellDeadline .scan) 7
    let u := due rolling (.cellDeadline .scan) 7
    let v := due rolling (.overstay .merge) 7
    s.mem.wf = true ∧ s.run.state.isRunning = true ∧ s.dueEntry = some ⟨.cellDeadline .scan, 7, 5000⟩ ∧
      (∃ x ∈ s.queue .scan, x.who = .piece 7) ∧ u.dueEntry = some ⟨.cellDeadline .scan, 7, 5000⟩ ∧
      (∀ x ∈ u.queue .scan, x.who ≠ .piece 7) ∧ v.dueEntry = some ⟨.overstay .merge, 7, 5000⟩ ∧
      s.protect.latch = false ∧ isAhead 5000 s.position = false ∧ isAhead 4999 s.position = false := by decide +kernel

/-- One report into the last place of a tray, and two into places 30 and 31; nothing held; ENABLE 0; no tray, before and after the
shortage of trays has been found. -/
theorem witness_ReportsFillOpenTray :
    let s := held (trayOpen rolling 31) 1
    let u := held (trayOpen rolling 29) 2
    let v := { held rolling 2 with reports := { (held rolling 2).reports with starved := true } }
    s.port.enable = true ∧ s.reports.tray = some ⟨3, 0x40000, 31, some 5, some 6⟩ ∧ s.reports.held.length = 1 ∧
      u.reports.tray = some ⟨3, 0x40000, 29, some 5, some 6⟩ ∧ u.reports.held.length = 2 ∧ 29 + 2 < 32 ∧
      u.mem.wf = true ∧ State.reset.port.enable = false ∧ rolling.reports.held = [] ∧
      (held rolling 2).port.enable = true ∧ (held rolling 2).reports.held ≠ [] ∧ (held rolling 2).reports.tray = none ∧
      (held rolling 2).reports.starved = false ∧ v.reports.starved = true := by decide +kernel

theorem witness_WrongStateIsRefused :
    rolling.mem.wf = true ∧ rolling.canTake 7 = true ∧ rolling.run.state ≠ .idle ∧ rolling.run.state ≠ .jammed ∧
      ready.mem.wf = true ∧ ready.canTake 0 = true ∧ ready.run.state ≠ .starting ∧ ready.run.state ≠ .running ∧
      ready.run.state ≠ .draining := by decide +kernel

/-- The worked plan in the plan area, and the blank one, which fails check 1. -/
def planPosted : State := ready.storeWords 0x10000 (planList.map (BitVec.ofNat 32))

theorem posted_rows_low (n : Nat) (h1 : 1 ≤ n) (h2 : n ≤ 19) : planRow (fun o => (planPosted.pageWord o).toNat) n := by
  interval_cases n <;> simp only [planRow] <;> decide +kernel

theorem posted_rows_high (n : Nat) (h1 : 20 ≤ n) (h2 : n ≤ 38) : planRow (fun o => (planPosted.pageWord o).toNat) n := by
  interval_cases n <;> simp only [planRow] <;> decide +kernel

theorem witness_LoadPlanChecks :
    (∀ s ∈ [ready, planPosted], s.mem.wf = true ∧ s.canTake 0 = true ∧ s.run.state = .idle ∧ s.protect.latch = false) ∧
      planFailsAt (fun o => (ready.pageWord o).toNat) 1 ∧ planPasses (fun o => (planPosted.pageWord o).toNat) := by
  refine ⟨by decide +kernel, ⟨by decide, by decide, ?_, fun m h1 h2 => by omega⟩, fun n h1 h2 => ?_⟩
  · simp only [planRow]; decide +kernel
  · rcases Nat.lt_or_ge n 20 with h | h
    · exact posted_rows_low n h1 (by omega)
    · exact posted_rows_high n h h2

/-- A copy that meets every row, one that fails the first row and one that meets all but the last. -/
theorem witness_PassingPlanIsUsable :
    planPasses (fun o => planList.getD (o / 4) 0) ∧ planFailsAt (fun o => (planList.set 0 0).getD (o / 4) 0) 1 ∧
      planFailsAt (fun o => (planList.set 1 301).getD (o / 4) 0) 38 := by
  refine ⟨fun n h1 h2 => ?_, ⟨by decide, by decide, ?_, fun m h1 h2 => by omega⟩,
    ⟨by decide, by decide, ?_, fun n h1 h2 => ?_⟩⟩
  · interval_cases n <;> simp only [planRow] <;> decide +kernel
  · simp only [planRow]; decide +kernel
  · simp only [planRow]; decide +kernel
  · interval_cases n <;> simp only [planRow] <;> decide +kernel

theorem witness_StartIsChecked :
    ready.mem.wf = true ∧ ready.canTake 0 = true ∧ ready.run.state = .idle ∧ ready.planValid = true ∧
      ready.imagesReady = true ∧ ready.protect.guardIsOpen = false ∧ ready.drive.code ≠ ready.plan.runCode ∧
      ready.plan.policyTag ≠ .nothing ∧ (ready.printer.slots.get 0).columns ≠ [] ∧
      ready.printer.banks.get ready.plan.bankTag ≠ [] ∧ ({ ready with planValid := false }).canTake 0 = true ∧
      ({ ready with printer := State.reset.printer }).imagesReady = false ∧
      ({ ready with protect := { ready.protect with guardIsOpen := true } }).imagesReady = true := by decide +kernel

/-- With work on the lane and without; in STARTING with a START pending; and on a still belt at code 0, in STARTING with two pieces and
in RUNNING with none. -/
theorem witness_DrainAndStopAreAccepted :
    let w := withPiece (piece 7 .travelling 4000 (some 300))
    let s := { rolling with run := { rolling.run with state := .starting, request := some ⟨.start, 3, 8⟩ } }
    let u := { s with drive := ⟨0, 900, some 5, true, none, none⟩ }
    w.mem.wf = true ∧ w.canTake 1 = true ∧ w.run.state = .running ∧ w.run.request = none ∧ w.records ≠ [] ∧
      rolling.canTake 1 = true ∧ rolling.run.request = none ∧ rolling.records = [] ∧ rolling.pocket.state = .empty ∧
      ¬ (rolling.drive.code = 0 ∧ rolling.drive.still = true) ∧ s.canTake 1 = true ∧ s.run.state = .starting ∧
      ¬ (s.drive.code = 0 ∧ s.drive.still = true) ∧ u.canTake 1 = true ∧ u.drive.code = 0 ∧ u.drive.still = true ∧
      (let p := { u with records := (waiting 2200).records, pocket := (waiting 2200).pocket }
       p.canTake 1 = true ∧ p.run.state = .starting ∧ p.drive.code = 0 ∧ p.drive.still = true ∧
        (p.records.map (·.number)).Nodup ∧ p.records.length = 2 ∧ p.reports.tray = none ∧
        (∀ i : Fin 16, p.pageWord (rackOffset i 0) ≠ rackReady)) ∧
      (let e := { rolling with drive := ⟨0, 900, some 5, true, none, none⟩ }
       e.canTake 1 = true ∧ e.run.state = .running ∧ e.run.request = none ∧ e.records = [] ∧ e.pocket.state = .empty ∧
        e.drive.code = 0 ∧ e.drive.still = true) := by
  decide +kernel

/-- The least and the greatest arguments that are taken, and the nearest that are not. -/
theorem witness_SetImpressionLoads :
    ready.mem.wf = true ∧ ready.canTake 1 = true ∧ ready.printer.active = 0 ∧ ready.run.state = .idle ∧
      rolling.canTake 1 = true ∧ rolling.run.state ≠ .idle ∧ (rolling.printer.slots.get 1).inUse = 0 ∧
      ((ready.releaseSlot 0).openRecord 0 |>.printer.slots.get 0).inUse = 1 ∧
      ¬ (2 ≤ (1 : Word).toNat ∨ (64 : Word).toNat < 1 ∨ 64 < (64 : Word).toNat) ∧
      (2 ≤ (2 : Word).toNat ∨ (65 : Word).toNat < 1 ∨ 64 < (65 : Word).toNat) ∧
      (let s := { rolling with printer := { rolling.printer with slots := put rolling.printer.slots 1 ⟨[1], 1⟩ } }
       0 < (s.printer.slots.get 1).inUse ∧ s.canTake 1 = true ∧ s.printer.active ≠ 1) := by decide +kernel

theorem witness_LoadKillerRule :
    ready.mem.wf = true ∧ ready.canTake 1 = true ∧ ready.run.state = .idle ∧ rolling.canTake 1 = true ∧
      rolling.run.state ≠ .idle ∧ ¬ (3 < (3 : Word).toNat ∨ (96 : Word).toNat < 1 ∨ 96 < (96 : Word).toNat) ∧
      (3 < (4 : Word).toNat ∨ (1 : Word).toNat < 1 ∨ 96 < (1 : Word).toNat) := by decide +kernel

theorem witness_SetStackerRule :
    ready.mem.wf = true ∧ ready.canTake 1 = true ∧
      ¬ ((5 : Word).toNat < 1 ∨ 5 < (5 : Word).toNat ∨ 1 < (1 : Word).toNat) ∧
      ((6 : Word).toNat < 1 ∨ 5 < (6 : Word).toNat ∨ 1 < (0 : Word).toNat) := by decide +kernel

theorem witness_SnapshotCopiesCounters :
    ready.mem.wf = true ∧ ready.canTake 1 = true ∧ (1 : Word).toNat ≤ 1 ∧ 1 < (2 : Word).toNat := by decide +kernel

/-- With no tray open; with one and nothing held; and with one and two reports held. -/
theorem witness_CloseTrayCloses :
    ready.reports.tray = none ∧ ready.canTake 1 = true ∧ (trayOpen rolling 1).mem.wf = true ∧
      (trayOpen rolling 1).canTake 1 = true ∧ (trayOpen rolling 1).reports.tray ≠ none ∧
      (trayOpen rolling 1).reports.held = [] ∧ (held (trayOpen rolling 1) 2).reports.tray ≠ none ∧
      (held (trayOpen rolling 1) 2).canTake 1 = true ∧ (held (trayOpen rolling 1) 2).reports.held ≠ [] ∧
      ∀ k, k < 8 → wordsApart (0x40000 + BitVec.ofNat 32 (4 * k)) ((trayOpen rolling 1).pageAt (rackOffset 3 0)) ∧
        ∀ w, w < 8 →
          wordsApart (0x40000 + BitVec.ofNat 32 (4 * k)) ((trayOpen rolling 1).pageAt (requestOffset 1 w)) :=
  ⟨by decide +kernel, by decide +kernel, by decide +kernel, by decide +kernel, by decide +kernel, by decide +kernel,
    by decide +kernel, by decide +kernel, by decide +kernel, fun k hk => header_apart k hk⟩

/-- With no piece tracked, and with two, the pocket's occupant among them, the other named by a MISSING trip. -/
theorem witness_ClearJamPurges :
    let two := { jammed with
      records := [piece 7 .pocketed 2700 (some 300), piece 8 .downstream 2200 (some 300)]
      pocket := { jammed.pocket with state := .dwell, occupant := some 7 }
      protect := { jammed.protect with cause := some .missing, piece := some 8 } }
    jammed.mem.wf = true ∧ jammed.canTake 1 = true ∧ jammed.run.state = .jammed ∧ jammed.drive.still = true ∧
      (∀ c, (jammed.cell c).covered = false ∧ (two.cell c).covered = false) ∧ jammed.run.request = none ∧
      ({ jammed with drive := ⟨0, 0, none, false, some 9, none⟩ }).drive.still = false ∧
      (jammed.setCell .endCell { clearCell with covered := true }).firstCovered = some .endCell ∧ jammed.records = [] ∧
      jammed.reports.held = [] ∧ jammed.reports.tray = none ∧ jammed.protect.recordWritten = false ∧
      ({ jammed with protect := { jammed.protect with recordWritten := true } }).canTake 1 = true ∧
      (two.canTake 1 = true ∧ roomKept two ∧ two.run.state = .jammed ∧ two.drive.still = true ∧ two.run.request = none ∧
        (two.records.map (·.number)).Nodup ∧ two.printer.job = none ∧ two.reports.tray = none ∧
        (∀ i : Fin 16, two.pageWord (rackOffset i 0) ≠ rackReady) ∧ pocketHeld two ∧ two.record? 7 ≠ none) :=
  ⟨by decide +kernel, by decide +kernel, by decide +kernel, by decide +kernel,
    fun c => ⟨jammed_cells c, jammed_cells c⟩, by decide +kernel, by decide +kernel, by decide +kernel, by decide +kernel,
    by decide +kernel, by decide +kernel, by decide +kernel, by decide +kernel, by decide +kernel⟩

theorem witness_UnknownKindIsAnswered :
    ready.mem.wf = true ∧ ready.canTake 7 = true ∧ (Instr.unknownKind 7 3 11).wellFormed = true ∧
      (Instr.unknownKind 7 3 0).wellFormed = true := by decide +kernel

/-- The laws hold in a state that is in the middle of a run and in one that is jammed, and a step from them answers; a latch that is
set is cleared by CLEAR JAM and by a page scan that takes one, POSTED with kind 10, and stands after a scan that takes none. -/
theorem witness_StepKeeps :
    (∀ s ∈ [rolling, jammed, waiting 2200, { jammed with pending := [.clearJam 1 4] }],
      jamSafe s ∧ motorFollows s ∧ pocketHeld s ∧ roomKept s ∧ feedFollows s.recomputeFeed ∧ planHeld s ∧ rampFollows s ∧
        tallyBalances s ∧ memoryKept s ∧ portKept s ∧ seenOnlySet s) ∧
      requestFits rolling ∧ requestFits jammed ∧ step rolling = .next { rolling with now := 1 } ∧
      jammed.protect.latch = true ∧ (after (.clearJam 1 4) jammed).protect.latch = false ∧
      (after (.pageScan ⟨[⟨0x10144, 10⟩, ⟨0x10140, 1⟩], 11⟩) jammed).protect.latch = false ∧
      (after (.pageScan ⟨[⟨0x10144, 10⟩], 11⟩) jammed).protect.latch = true ∧
      (let s := after (.pageScan ⟨[⟨0x10144, 10⟩, ⟨0x10140, 1⟩], 2⟩) jammed
       s.protect.latch = true ∧ portKept s ∧ (after (.clearEnable 0) s).protect.latch = false) := by
  exact ⟨by decide +kernel, rfl, rfl, rfl, rfl, by decide +kernel, by decide +kernel, by decide +kernel, by decide +kernel⟩

end Sys2Proof.Tests
end

/-! PROOFS. SET STACKER (R109), on a rule for every request that is taken and answered in one act (R172, R173). -/

namespace Sys2Proof.Machine

open Sys2Proof.Safety

/-! ## A request taken and answered at once (R172, R173) -/

/-- TAKEN is the only word a cell receives before its request is decided (R172). -/
theorem State.takeCell_keptOutside (s : State) (cell : Fin 8) :
    keptOutside s (s.takeCell cell) (cellStateBytes s cell) :=
  fun _ ha => Memory.read_writeWord_other _ _ _ ha

/-- A completion writes memory and the port only. -/
theorem State.completeRequest_eq (s : State) (cell : Fin 8) (tag : Word) (r : ResultCode) (value : Word) :
    let t := s.completeRequest cell tag r value
    t = { s with mem := t.mem, port := t.port } := by
  have hframe := State.completeRequest_frame s cell tag r value
  generalize s.completeRequest cell tag r value = t at hframe ⊢
  cases t
  simp_all

/-- An owner that has changed neither memory nor the port since the cell was TAKEN, and then completes the request, has
answered it (R173). -/
theorem answered_completeRequest {s u : State} {cell : Fin 8} (hwf : s.mem.wf = true)
    (hmem : u.mem = (s.takeCell cell).mem) (hport : u.port = s.port) (tag : Word) (r : ResultCode) (value : Word) :
    answered s (u.completeRequest cell tag r value) cell tag r value := by
  have hpage : ∀ off, u.pageAt off = s.pageAt off := fun off => by simp only [State.pageAt, hport]
  have hpage' : ∀ off, (u.completeRequest cell tag r value).pageAt off = u.pageAt off := fun off => by
    simp [State.pageAt]
  have hu : u.mem.wf = true := hmem ▸ Memory.wf_writeWord hwf _ _
  obtain ⟨-, hcode, hvalue, htag, hdone, -, hkept⟩ := State.completeRequest_words hu cell tag r value
  refine ⟨?_, fun a ha => ?_, ?_⟩
  · simp only [holdsAnswer, State.pageWord, hpage']
    exact ⟨hdone, htag, hcode, hvalue⟩
  · simp only [answerBytes, cellStateBytes, pageBytes, List.mem_append, not_or] at ha
    obtain ⟨⟨⟨h0, h2⟩, h6⟩, h7⟩ := ha
    simp only [hpage] at hkept
    rw [hkept a h6 h7 h2 h0, hmem]
    exact State.takeCell_keptOutside s cell a h0
  · rw [← hport]
    rfl

/-! ## SET STACKER (R109) -/

/-- The arguments of SET STACKER that R109 refuses. -/
theorem setStacker_refused_iff (stacker service : Word) :
    (inRange 1 5 stacker.toNat = false ∨ 2 ≤ service.toNat) ↔
      (stacker.toNat < 1 ∨ 5 < stacker.toNat ∨ 1 < service.toNat) := by
  simp only [inRange, Bool.and_eq_false_iff, decide_eq_false_iff_not]
  omega

theorem State.decideSetStacker_of_bad (s : State) (cell : Fin 8) (tag : Word) {stacker service : Word}
    (h : stacker.toNat < 1 ∨ 5 < stacker.toNat ∨ 1 < service.toNat) :
    s.decideSetStacker cell tag stacker service = s.completeRequest cell tag .badArgument 0 := by
  rw [State.decideSetStacker, if_pos ((setStacker_refused_iff stacker service).mpr h)]

/-- One stacker's service as SET STACKER leaves it. -/
def State.withService (s : State) (i : Fin 5) (on : Bool) : State :=
  { s with router := { s.router with inService := put s.router.inService i on } }

@[simp] theorem State.withService_router (s : State) (i : Fin 5) (on : Bool) :
    (s.withService i on).router = { s.router with inService := put s.router.inService i on } := rfl

/-- The result of SET STACKER is the availability after the change: IN, with the full input inactive (R109). -/
theorem countWord_available (service : Word) (level : FullLevel) :
    countWord (service.toNat == 1 && level == .inactive).toNat = if service = 1 ∧ level = .inactive then 1 else 0 := by
  by_cases hs : service = 1
  · subst hs
    cases level <;> rfl
  · have hne : service.toNat ≠ 1 := fun h => hs (BitVec.eq_of_toNat_eq h)
    rw [beq_false_of_ne hne, if_neg fun h => hs h.1]
    rfl

/-- A service changed on the TAKEN state and answered: the answer in memory and port, and one service in the router. -/
theorem State.withService_answered {s : State} (hwf : s.mem.wf = true) (cell : Fin 8) (tag : Word) (i : Fin 5) (on : Bool)
    (r : ResultCode) (value : Word) :
    let t := ((s.takeCell cell).withService i on).completeRequest cell tag r value
    answered s t cell tag r value ∧ t.router.inService = put s.router.inService i on ∧
      t = { s with mem := t.mem, port := t.port, router := { s.router with inService := t.router.inService } } := by
  intro t
  have hinService : t.router.inService = put s.router.inService i on := by simp [t]
  refine ⟨answered_completeRequest (u := (s.takeCell cell).withService i on) hwf rfl rfl tag r value, hinService, ?_⟩
  rw [hinService]
  exact State.completeRequest_eq _ _ _ _ _

theorem State.decideSetStacker_of_good (s : State) (cell : Fin 8) (tag : Word) {stacker service : Word}
    (h : ¬ (stacker.toNat < 1 ∨ 5 < stacker.toNat ∨ 1 < service.toNat)) :
    let i : Fin 5 := Fin.ofNat 5 (stacker.toNat - 1)
    s.decideSetStacker cell tag stacker service =
      (s.withService i (service.toNat == 1)).completeRequest cell tag .ok
        (if service = 1 ∧ s.router.full.get i = .inactive then 1 else 0) := by
  intro i
  rw [State.decideSetStacker, if_neg (mt (setStacker_refused_iff stacker service).mp h), ← countWord_available]
  rfl

/-- SET STACKER, where its request can be taken, is the router's decision on the state with the cell TAKEN. -/
theorem exec_setStacker_of_canTake {s : State} {cell : Fin 8} (h : s.canTake cell = true) (tag stacker service : Word) :
    exec (.setStacker cell tag stacker service) s =
      .next ((s.takeCell cell).decideSetStacker cell tag stacker service) :=
  congrArg Host.Outcome.next (State.onRequest_of_canTake h _)

/-- Settles O49: each branch of the decision is one completion, of the TAKEN state or of it with one service changed. -/
theorem setStackerRule : Obligations.SetStackerRule := by
  intro s cell tag stacker service hwf htake bad i
  rw [exec_setStacker_of_canTake htake]
  refine ⟨fun hbad => ⟨_, rfl, ?_⟩, fun hgood => ⟨_, rfl, ?_⟩⟩
  · rw [State.decideSetStacker_of_bad _ _ _ hbad]
    exact ⟨answered_completeRequest hwf rfl rfl _ _ _, State.completeRequest_eq _ _ _ _ _⟩
  · have hrouter : (s.takeCell cell).router = s.router := by simp
    obtain ⟨hanswered, hservice, hframe⟩ := State.withService_answered hwf cell tag i (service.toNat == 1) .ok
      (if service = 1 ∧ s.router.full.get i = .inactive then 1 else 0)
    rw [State.decideSetStacker_of_good _ _ _ hgood, hrouter]
    refine ⟨hanswered, ?_, fun k hk => ?_, hframe⟩
    · rw [hservice, get_put_same, beq_iff_eq]
      exact BitVec.toNat_inj (y := 1)
    · rw [hservice, get_put_other _ _ hk]

end Sys2Proof.Machine

/-! PROOFS. ATTENTION (R175, R176): the bits of a read, and what a read, a write and a raise do to a cause and its seen mark. -/

namespace Sys2Proof.Machine

/-! ## Bits of packed words -/

theorem testBit_packedBits (l : List Bool) (i : Nat) :
    (l.foldr (fun b acc => 2 * acc + Bool.toNat b) 0).testBit i = l.getD i false := by
  induction l generalizing i with
  | nil => simp
  | cons b l ih =>
    rw [List.foldr_cons, ← Nat.bit_val]
    cases i with
    | zero => rw [Nat.testBit_bit_zero, List.getD_cons_zero]
    | succ i => rw [Nat.testBit_bit_succ, List.getD_cons_succ, ih]

theorem getLsbD_bitsWord (l : List Bool) {i : Nat} (h : i < 32) : (bitsWord l).getLsbD i = l.getD i false := by
  rw [bitsWord, BitVec.getLsbD_ofNat, testBit_packedBits, decide_eq_true h, Bool.true_and]

/-- Above its list a word of flags is 0. -/
theorem extractLsb'_bitsWord (l : List Bool) {lo width : Nat} (hlo : l.length ≤ lo) (h : lo + width ≤ 32) :
    (bitsWord l).extractLsb' lo width = 0 := by
  ext k hk
  rw [BitVec.getElem_extractLsb', getLsbD_bitsWord l (by omega), List.getD_eq_default _ _ (by omega)]
  simp

theorem getLsbD_fieldAt_of_lt {lo i : Nat} (width : Nat) (x : Word) (h : i < lo) : (fieldAt lo width x).getLsbD i = false := by
  simp [fieldAt, h]

theorem extractLsb'_fieldAt {lo width : Nat} (x : Word) (h : lo + width ≤ 32) :
    (fieldAt lo width x).extractLsb' lo width = x.setWidth width := by
  ext k hk
  simp [fieldAt, hk, show lo + k < 32 by omega, show k < 32 by omega]

/-! ## One value per cause (R168) -/

@[simp] theorem PerCause.get_zip {α β γ : Type} (f : α → β → γ) (a : PerCause α) (b : PerCause β) (c : AttentionCause) :
    (a.zip f b).get c = f (a.get c) (b.get c) := by
  cases c <;> rfl

@[simp] theorem PerCause.get_set_same {α : Type} (p : PerCause α) (c : AttentionCause) (x : α) : (p.set c x).get c = x := by
  cases c <;> rfl

@[simp] theorem get_causeBits (v : Word) (c : AttentionCause) : (causeBits v).get c = v.getLsbD (causeBit c) := by
  cases c <;> rfl

theorem causeBit_lt (c : AttentionCause) : causeBit c < 5 := by
  cases c <;> decide

/-- The five causes stand in a word of flags at the places R179 gives them. -/
theorem getLsbD_bitsWord_allCauses (p : PerCause Bool) (c : AttentionCause) :
    (bitsWord (allCauses.map p.get)).getLsbD (causeBit c) = p.get c := by
  rw [getLsbD_bitsWord _ (Nat.lt_trans (causeBit_lt c) (by decide))]
  cases c <;> rfl

/-! ## What a read of ATTENTION shows (R175, R179) -/

theorem State.topCause_le (s : State) : s.topCause ≤ 5 := by
  unfold State.topCause
  split
  · exact Nat.zero_le 5
  · exact causeBit_lt _

theorem State.attentionWord_getLsbD_causeBit (s : State) (c : AttentionCause) :
    s.attentionWord.getLsbD (causeBit c) = s.port.causes.get c := by
  have hlow : causeBit c < 8 := Nat.lt_trans (causeBit_lt c) (by decide)
  rw [State.attentionWord, BitVec.getLsbD_or, getLsbD_bitsWord_allCauses, getLsbD_fieldAt_of_lt _ _ hlow, Bool.or_false]

theorem State.attentionWord_topCauseField (s : State) : (s.attentionWord.extractLsb' 8 3).toNat = s.topCause := by
  have hcode : s.topCause < 8 := Nat.lt_of_le_of_lt s.topCause_le (by decide)
  have hflags : (bitsWord (allCauses.map s.port.causes.get)).extractLsb' 8 3 = 0 :=
    extractLsb'_bitsWord _ (by simp [allCauses]) (by decide)
  have hfield : s.attentionWord.extractLsb' 8 3 = (countWord s.topCause).setWidth 3 := by
    rw [State.attentionWord, BitVec.extractLsb'_or, hflags, extractLsb'_fieldAt _ (by decide)]
    exact BitVec.zero_or
  rw [hfield, countWord, BitVec.toNat_setWidth, BitVec.toNat_ofNat]
  omega

/-! ## Raises, reads and writes of ATTENTION (R175, R176) -/

@[simp] theorem State.raise_causes_same (s : State) (c : AttentionCause) : (s.raise c).port.causes.get c = true :=
  PerCause.get_set_same _ _ _

@[simp] theorem State.raise_seen_same (s : State) (c : AttentionCause) : (s.raise c).port.seen.get c = false :=
  PerCause.get_set_same _ _ _

theorem State.readAttention_seen_get (s : State) (c : AttentionCause) :
    s.readAttention.port.seen.get c = (s.port.seen.get c || s.port.causes.get c) :=
  PerCause.get_zip _ _ _ _

/-- A write clears a cause exactly where it names it and its seen mark is yes. -/
theorem State.writeAttention_causes_get (s : State) (v : Word) (c : AttentionCause) :
    (s.writeAttention v).port.causes.get c =
      (s.port.causes.get c && !(v.getLsbD (causeBit c) && s.port.seen.get c)) := by
  simp only [State.writeAttention, PerCause.get_zip, get_causeBits]
  cases s.port.causes.get c <;> simp

/-- A write takes the seen mark from the causes it clears and from no other. -/
theorem State.writeAttention_seen_get (s : State) (v : Word) (c : AttentionCause) :
    (s.writeAttention v).port.seen.get c =
      (s.port.seen.get c && !(v.getLsbD (causeBit c) && s.port.causes.get c)) := by
  simp only [State.writeAttention, PerCause.get_zip, get_causeBits]
  cases s.port.seen.get c <;> simp

/-- A cause raised and not yet read is cleared by no write (R176). -/
theorem State.writeAttention_raise_causes (s : State) (v : Word) (c : AttentionCause) :
    ((s.raise c).writeAttention v).port.causes.get c = true := by
  rw [State.writeAttention_causes_get, State.raise_causes_same, State.raise_seen_same, Bool.and_false]
  rfl

/-- A cause raised before a read is shown by it and marked seen (R176). -/
theorem State.readAttention_raise (s : State) (c : AttentionCause) :
    (s.raise c).readAttention.port.readData.getLsbD (causeBit c) = true ∧
      (s.raise c).readAttention.port.seen.get c = true := by
  constructor
  · exact ((s.raise c).attentionWord_getLsbD_causeBit c).trans (s.raise_causes_same c)
  · rw [State.readAttention_seen_get, State.raise_causes_same, Bool.or_true]

/-- Settles O6: the read and the write act on each cause by itself, and an unread raise carries no seen mark,
without which no write clears it. -/
theorem seenMarksGuardCauses : Obligations.SeenMarksGuardCauses := by
  intro s v
  refine ⟨⟨s.readAttention, rfl, rfl, ?_⟩, ⟨s.writeAttention v, rfl, rfl, ?_⟩, ⟨_, rfl, rfl, rfl⟩, fun c => ?_, fun c => ?_⟩
  · exact ⟨s.attentionWord_getLsbD_causeBit, s.attentionWord_topCauseField, s.readAttention_seen_get,
      fun c => ⟨State.raise_causes_same _ c, State.raise_seen_same _ c⟩⟩
  · exact ⟨s.writeAttention_causes_get v, s.writeAttention_seen_get v,
      fun c => ⟨State.raise_causes_same _ c, State.raise_seen_same _ c⟩⟩
  · exact ⟨_, rfl, s.readAttention_raise c⟩
  · exact ⟨_, rfl, s.writeAttention_raise_causes v c⟩

end Sys2Proof.Machine

/-! PROOFS. The trip (R139, R140): what it leaves, said once. -/

namespace Sys2Proof.Machine

open Sys2Proof.Safety

/-! ## The acts of a trip -/

theorem portRaised_port (s : State) (c : AttentionCause) : (s.raise c).port = portRaised s.port c := rfl

theorem State.safeOutputs_eq (s : State) :
    s.safeOutputs = { s with
      gates := Vector.replicate 7 .closed, records := tripRecords s,
      printer := { s.printer with job := none, head := 0 } } := by
  cases hj : s.printer.job with
  | none => simp [State.safeOutputs, State.endImpressionPartial, State.closeAllGates, tripRecords, hj]
  | some j => simp [State.safeOutputs, State.endImpressionPartial, State.closeAllGates, tripRecords, hj, State.updateRecord]

theorem State.abandonWork_eq (s : State) :
    s.abandonWork = { s with
      scan := if s.scan.window.isSome then ScanContext.free else s.scan,
      pocket := { s.pocket with dwellTimer := none, holdTimer := none, motor := .hold } } := by
  unfold State.abandonWork State.abandonScan
  split <;> rfl

/-- A completed run request leaves no run request, and nothing else in run control changed. -/
theorem State.completeRun_run (s : State) (r : ResultCode) (value : Word) :
    (s.completeRun r value).run = { s.run with request := none } := by
  unfold State.completeRun
  split
  · next h => rw [← h]
  · simp

theorem State.completeRun_port (s : State) (r : ResultCode) (value : Word) :
    (s.completeRun r value).port =
      if s.run.request.isSome then portRaised s.port .requestDone else s.port := by
  unfold State.completeRun
  split <;> simp_all [State.completeRequest, portRaised_port]

theorem State.completeRun_of_none {s : State} (h : s.run.request = none) (r : ResultCode) (value : Word) :
    s.completeRun r value = s := by
  rw [State.completeRun, h]

theorem State.completeRun_mem_of_some {s : State} {q : RunRequest} (h : s.run.request = some q) (r : ResultCode)
    (value : Word) : (s.completeRun r value).mem = (s.completeRequest q.cell q.tag r value).mem := by
  rw [State.completeRun, h]

/-- The crawl flag and the drive as the protect mode leaves them (R142, R143). -/
theorem State.protectAction_drive (s : State) :
    (s.protectAction.drive.code, s.protectAction.drive.target) = tripDrive s := by
  rw [State.protectAction, tripDrive]
  cases s.plan.protectMode with
  | cut => rfl
  | ramp => rfl
  | crawlThenCut =>
    dsimp only
    split
    · rfl
    · rfl

theorem State.protectAction_protect (s : State) :
    s.protectAction.protect = { s.protect with
      crawling := s.protect.crawling || (s.plan.protectMode == .crawlThenCut && s.plan.crawlSteps != 0) } := by
  unfold State.protectAction
  split <;> rename_i hm
  · rw [hm, show (ProtectMode.cut == .crawlThenCut) = false from rfl, Bool.false_and, Bool.or_false]
    rfl
  · rw [hm, show (ProtectMode.ramp == .crawlThenCut) = false from rfl, Bool.false_and, Bool.or_false]
    rfl
  · split <;> rename_i hc
    · simp [hc]
    · simp [hm, hc]

/-- What an answer leaves in the request cell and outside it, in every state with the memory and the page of the completion
(R173). -/
theorem answer_of_completeRequest {s t u : State} (hwf : s.mem.wf = true) {cell : Fin 8} {tag value : Word} {r : ResultCode}
    (hu : u.mem = s.mem) (hpage : u.port.pageAddress = s.port.pageAddress)
    (ht : t.mem = (u.completeRequest cell tag r value).mem) (htpage : t.port.pageAddress = s.port.pageAddress) :
    holdsAnswer t cell tag r value ∧ keptOutside s t (answerBytes s cell) := by
  obtain ⟨-, hcode, hvalue, htag, hdone, -, hkept⟩ := State.completeRequest_words (hu ▸ hwf) cell tag r value
  simp only [State.pageAt, hpage, hu] at hcode hvalue htag hdone hkept
  refine ⟨?_, fun a ha => ?_⟩
  · simp only [holdsAnswer, State.pageWord, State.pageAt, htpage, ht]
    exact ⟨hdone, htag, hcode, hvalue⟩
  · simp only [answerBytes, cellStateBytes, pageBytes, State.pageAt, List.mem_append, not_or] at ha
    obtain ⟨⟨⟨h0, h2⟩, h6⟩, h7⟩ := ha
    rw [ht]
    exact hkept a h6 h7 h2 h0

/-- The records of a trip are as many as it found. -/
@[simp] theorem tripRecords_length (s : State) : (tripRecords s).length = s.records.length := by
  unfold tripRecords
  split <;> simp

/-! ## The trip -/

/-- The acts of a trip before its count and its cause are raised (R140, steps 1 to 5). -/
def State.tripActs (s : State) (cause : TripCause) (cell : Option Cell) (at' : Pos) (piece : Option PieceNo) : State :=
  (s.setLatch cause cell at' piece).safeOutputs.jamRun.abandonWork.protectAction

theorem State.trip_eq_tripActs {s : State} (h : s.run.state.isRunning = true) (hl : s.protect.latch = false)
    (cause : TripCause) (cell : Option Cell) (at' : Pos) (piece : Option PieceNo) :
    s.trip cause cell at' piece = ((s.tripActs cause cell at' piece).countEvent .trips).raise .jam :=
  State.trip_of_running h hl cause cell at' piece

section
variable (s : State) (cause : TripCause) (cell : Option Cell) (at' : Pos) (piece : Option PieceNo)

@[simp] theorem State.tripActs_protect : (s.tripActs cause cell at' piece).protect = { s.protect with
    latch := true, cause := some cause, cell := cell, position := at', piece := piece, furtherTrips := 0,
    crawlCount := 0, crawling := s.plan.protectMode == .crawlThenCut && s.plan.crawlSteps != 0,
    recordWritten := false, rewriteDue := false } := by
  simp [State.tripActs, State.protectAction_protect, State.setLatch]

@[simp] theorem State.tripActs_gates : (s.tripActs cause cell at' piece).gates = Vector.replicate 7 .closed := by
  simp [State.tripActs, State.safeOutputs_eq]

@[simp] theorem State.tripActs_printer :
    (s.tripActs cause cell at' piece).printer = { s.printer with job := none, head := 0 } := by
  simp [State.tripActs, State.safeOutputs_eq]

@[simp] theorem State.tripActs_records : (s.tripActs cause cell at' piece).records = tripRecords s := by
  simp [State.tripActs, State.safeOutputs_eq, tripRecords]

@[simp] theorem State.tripActs_scan :
    (s.tripActs cause cell at' piece).scan = if s.scan.window.isSome then ScanContext.free else s.scan := by
  simp [State.tripActs, State.abandonWork_eq]

@[simp] theorem State.tripActs_pocket : (s.tripActs cause cell at' piece).pocket =
    { s.pocket with dwellTimer := none, holdTimer := none, motor := .hold } := by
  simp [State.tripActs, State.abandonWork_eq]

@[simp] theorem State.tripActs_schedule : (s.tripActs cause cell at' piece).schedule = s.schedule := by
  simp [State.tripActs]

@[simp] theorem State.tripActs_tally : (s.tripActs cause cell at' piece).tally = s.tally := by
  simp [State.tripActs]

@[simp] theorem State.tripActs_reports : (s.tripActs cause cell at' piece).reports = s.reports := by
  simp [State.tripActs]

@[simp] theorem State.tripActs_router : (s.tripActs cause cell at' piece).router = s.router := by
  simp [State.tripActs]

@[simp] theorem State.tripActs_plan : (s.tripActs cause cell at' piece).plan = s.plan := by
  simp [State.tripActs]

/-- The machine is JAMMED with no request pending, and the feed follows that (R134, R136). -/
theorem State.tripActs_run : (s.tripActs cause cell at' piece).run =
    { state := .jammed, request := none
      hold :=
        { notRunning := true, tableMargin := decide (30 ≤ s.records.length),
          reportSpace := decide (46 ≤ s.reports.held.length + s.records.length), mergeGap := s.run.hold.mergeGap,
          endFull := s.run.hold.endFull }
      feedEnable := false } := by
  simp [State.tripActs, State.jamRun, State.completeRun_run, State.safeOutputs_eq, State.setRunState,
    State.recomputeFeed_run, State.feedHoldNow, FeedHold.anyStands]

@[simp] theorem State.tripActs_run_state : (s.tripActs cause cell at' piece).run.state = .jammed := by
  rw [State.tripActs_run]

@[simp] theorem State.tripActs_run_request : (s.tripActs cause cell at' piece).run.request = none := by
  rw [State.tripActs_run]

@[simp] theorem State.tripActs_run_feedEnable : (s.tripActs cause cell at' piece).run.feedEnable = false := by
  rw [State.tripActs_run]

theorem State.tripActs_drive :
    ((s.tripActs cause cell at' piece).drive.code, (s.tripActs cause cell at' piece).drive.target) = tripDrive s := by
  rw [State.tripActs, State.protectAction_drive]
  simp [tripDrive]

/-- The state in which a trip completes the pending request has the memory, the port and the request it found. -/
theorem State.tripActs_completes : ∃ u : State, u.mem = s.mem ∧ u.port = s.port ∧ u.run.request = s.run.request ∧
    (s.tripActs cause cell at' piece).mem = (u.completeRun .tripped 0).mem ∧
    (s.tripActs cause cell at' piece).port = (u.completeRun .tripped 0).port :=
  ⟨(s.setLatch cause cell at' piece).safeOutputs.setRunState .jammed, by simp, by simp, by simp,
    by simp [State.tripActs, State.jamRun], by simp [State.tripActs, State.jamRun]⟩

theorem State.tripActs_port : (s.tripActs cause cell at' piece).port =
    if s.run.request.isSome then portRaised s.port .requestDone else s.port := by
  obtain ⟨u, -, hport, hreq, -, h⟩ := s.tripActs_completes cause cell at' piece
  rw [h, State.completeRun_port, hport, hreq]

end

/-- A trip made with the latch clear in a running state leaves all that R140 asks for. -/
theorem State.trip_tripped {s : State} (hwf : s.mem.wf = true) (h : s.run.state.isRunning = true)
    (hl : s.protect.latch = false) (cause : TripCause) (cell : Option Cell) (at' : Pos) (piece : Option PieceNo) :
    tripped s (s.trip cause cell at' piece) cause cell at' piece := by
  rw [State.trip_eq_tripActs h hl]
  set u := s.tripActs cause cell at' piece with hu
  have hport : u.port = if s.run.request.isSome then portRaised s.port .requestDone else s.port :=
    State.tripActs_port s cause cell at' piece
  have hcalled : carryCalled u [] [.trips] 0 ↔ carryCalled s [] [.trips] 0 := by
    simp only [carryCalled, pieceCount, eventCount, hu, State.tripActs_tally, State.tripActs_plan]
  obtain ⟨hcounts, hcarry, hquiet⟩ := u.countEvent_tallied .trips
  have hcounts' : countsAdded s (u.countEvent .trips) [] [.trips] 0 := by
    simpa only [countsAdded, pieceCount, eventCount, hu, State.tripActs_tally] using hcounts
  obtain ⟨v, hvmem, hvport, hvreq, hmem, -⟩ := s.tripActs_completes cause cell at' piece
  refine ⟨by simp [hu], by simp [hu], by simp [hu], by simp [hu], by simp [hu], by simp [hu], by simp [hu], by simp [hu],
    by simp [hu], by simp [hu], ?_, ⟨hcounts', fun hc => ?_, fun hc => ?_⟩, fun q hq => ?_, fun hq => ?_⟩
  · simpa [hu] using State.tripActs_drive s cause cell at' piece
  · rw [portRaised_port, hcarry (hcalled.mpr hc), hport]
  · rw [portRaised_port, hquiet (mt hcalled.mp hc), hport]
  · exact answer_of_completeRequest hwf hvmem (by rw [hvport])
      (by simpa [hu, State.completeRun_mem_of_some (hvreq.trans hq)] using hmem) (by simp [hu, State.tripActs])
  · have : u.mem = s.mem := by
      rw [hu, hmem, State.completeRun_of_none (hvreq.trans hq), hvmem]
    simpa using this

end Sys2Proof.Machine

/-! PROOFS. The laws that every step keeps: what it is to keep them, and that each shared act does (R14, R121, R125, R135, R136,
R141, R152, R168, R175). -/

namespace Sys2Proof.Machine

open Sys2Proof.Safety

/-! ## What it is to keep the laws -/

/-- The two reasons that follow other blocks than run control stand as those blocks have them (R83, R85, R110). -/
abbrev ownersFollowed (s : State) : Prop :=
  s.run.hold.mergeGap = s.pocket.mergeHold ∧ s.run.hold.endFull = (s.router.endFull == FullLevel.active)

/-- The feed follows its causes in every state with the run control and the causes of one in which it does. -/
theorem feedFollows_of_same {s t : State} (hrun : t.run = s.run) (hrecords : t.records.length = s.records.length)
    (hheld : t.reports.held.length = s.reports.held.length) (hmerge : t.pocket.mergeHold = s.pocket.mergeHold)
    (hfull : t.router.endFull = s.router.endFull) (h : feedFollows s) : feedFollows t := by
  simp only [feedFollows, hrun, hrecords, hheld, hmerge, hfull]
  exact h

/-- Of `s` and `t`: every law of `s` but those of the port, the pending request and the plan holds of `t`. A law that an act leaves alone is kept by the field's own default. -/
structure KeepsLaws (s t : State) : Prop where
  jam : jamSafe s ∧ motorFollows s ∧ pocketHeld s → jamSafe t ∧ motorFollows t ∧ pocketHeld t := by
    simp +contextual [jamSafe, motorFollows, pocketHeld]
  room : roomKept s → roomKept t := by simp [roomKept]
  owners : ownersFollowed s → ownersFollowed t := by simp [ownersFollowed]
  feed : feedFollows s → feedFollows t := by
    exact feedFollows_of_same (by simp) (by simp) (by simp) (by simp) (by simp)
  ramp : rampFollows s → rampFollows t := by simp [rampFollows]
  tally : tallyBalances s → tallyBalances t := by simp [tallyBalances, pieceSum]
  memory : memoryKept s → memoryKept t := by simp [memoryKept]
  seen : seenOnlySet s → seenOnlySet t := by simp [seenOnlySet]

/-- Of `s` and `t`: every law of `s` but that of the port holds of `t`. -/
structure KeepsUnlatched (s t : State) : Prop extends KeepsLaws s t where
  request : requestFits s ∧ planHeld s → requestFits t ∧ planHeld t := by simp [requestFits, planHeld]

/-- Of `s` and `t`: every law of `s` but that of the port holds of `t`, and a jam latch set in `s` is set in `t`. -/
structure Keeps (s t : State) : Prop extends KeepsUnlatched s t where
  latch : s.protect.latch = true → t.protect.latch = true := by simp

theorem Keeps.laws {s t : State} (h : Keeps s t) : KeepsLaws s t := h.toKeepsUnlatched.toKeepsLaws

theorem Keeps.refl (s : State) : Keeps s s where

theorem KeepsLaws.trans {s t u : State} (h : KeepsLaws s t) (h' : KeepsLaws t u) : KeepsLaws s u where
  jam := h'.jam ∘ h.jam
  room := h'.room ∘ h.room
  owners := h'.owners ∘ h.owners
  feed := h'.feed ∘ h.feed
  ramp := h'.ramp ∘ h.ramp
  tally := h'.tally ∘ h.tally
  memory := h'.memory ∘ h.memory
  seen := h'.seen ∘ h.seen

theorem KeepsUnlatched.trans {s t u : State} (h : KeepsUnlatched s t) (h' : KeepsUnlatched t u) : KeepsUnlatched s u where
  toKeepsLaws := h.toKeepsLaws.trans h'.toKeepsLaws
  request := h'.request ∘ h.request

theorem Keeps.trans {s t u : State} (h : Keeps s t) (h' : Keeps t u) : Keeps s u where
  toKeepsUnlatched := h.toKeepsUnlatched.trans h'.toKeepsUnlatched
  latch := h'.latch ∘ h.latch

/-- An act made or left out. -/
theorem Keeps.ite {s t u : State} {c : Prop} [Decidable c] (h : Keeps s t) (h' : Keeps t u) :
    Keeps s (if c then u else t) := by
  split
  · exact h.trans h'
  · exact h

/-- What every round of a fold keeps, the fold keeps. -/
theorem Keeps.foldl {α : Type} {f : State → α → State} (h : ∀ s a, Keeps s (f s a)) (l : List α) (s : State) :
    Keeps s (l.foldl f s) := by
  induction l generalizing s with
  | nil => exact .refl s
  | cons a l ih => exact (h s a).trans (ih (f s a))

/-! ## Memory, attention and the feed -/

theorem State.storeWord_keeps (s : State) (a w : Word) : Keeps s (s.storeWord a w) where
  memory := fun h => State.wf_storeWord h a w

theorem State.storeWords_keeps (s : State) (a : Word) (ws : List Word) : Keeps s (s.storeWords a ws) where
  memory := fun h => State.wf_storeWords h a ws

theorem PerCause.get_set_other {α : Type} (p : PerCause α) {c d : AttentionCause} (x : α) (h : d ≠ c) :
    (p.set c x).get d = p.get d := by
  cases c <;> cases d <;> simp_all [PerCause.get, PerCause.set]

theorem State.raise_keeps (s : State) (c : AttentionCause) : Keeps s (s.raise c) where
  seen := by
    intro h d hd
    by_cases hc : d = c
    · subst hc
      simp
    · simpa [State.raise, PerCause.get_set_other _ _ hc] using h d hd

/-- A recomputation makes the feed true to its causes, where the reasons of other blocks are (R135, R136). -/
theorem State.recomputeFeed_follows {s : State} (h : ownersFollowed s) : feedFollows s.recomputeFeed :=
  ⟨rfl, rfl, rfl, h.1, h.2, rfl⟩

/-- A recomputation keeps a jammed machine's feed off. -/
theorem State.recomputeFeed_jam {s : State} (h : jamSafe s ∧ motorFollows s ∧ pocketHeld s) :
    jamSafe s.recomputeFeed ∧ motorFollows s.recomputeFeed ∧ pocketHeld s.recomputeFeed := by
  obtain ⟨⟨hlatch, hsafe⟩, hmotor, hheld⟩ := h
  refine ⟨⟨by simpa using hlatch, fun hl => ?_⟩, hmotor, hheld⟩
  obtain ⟨hgates, -, hjob, hhead, hhold⟩ := hsafe (by simpa using hl)
  have hjammed : s.run.state = .jammed := hlatch.mp (by simpa using hl)
  exact ⟨hgates, State.recomputeFeed_off (by simp [hjammed]), hjob, hhead, hhold⟩

theorem State.recomputeFeed_keeps (s : State) : Keeps s s.recomputeFeed where
  jam := State.recomputeFeed_jam
  feed := fun h => State.recomputeFeed_follows ⟨h.2.2.2.1, h.2.2.2.2.1⟩

theorem State.setMergeGap_follows {s : State} (h : s.run.hold.endFull = (s.router.endFull == FullLevel.active)) (b : Bool) :
    feedFollows (s.setMergeGap b) :=
  State.recomputeFeed_follows ⟨rfl, h⟩

theorem State.setMergeGap_keeps (s : State) (b : Bool) : Keeps s (s.setMergeGap b) where
  jam := fun h => State.recomputeFeed_jam (s := { s with
    pocket := { s.pocket with mergeHold := b }
    run := { s.run with hold := { s.run.hold with mergeGap := b } } }) h
  owners := fun h => ⟨rfl, h.2⟩
  feed := fun h => State.setMergeGap_follows h.2.2.2.2.1 b

theorem State.setEndFull_keeps (s : State) (level : FullLevel) : Keeps s (s.setEndFull level) where
  jam := fun h => State.recomputeFeed_jam (s := { s with
    router := { s.router with endFull := level }
    run := { s.run with hold := { s.run.hold with endFull := level == FullLevel.active } } }) h
  owners := fun h => ⟨h.1, rfl⟩
  feed := fun h => State.recomputeFeed_follows ⟨h.2.2.2.1, rfl⟩

/-- A change between run states other than JAMMED keeps every law but that of the pending request. -/
theorem State.setRunState_keepsLaws {s : State} {r : RunState} (h : s.run.state ≠ .jammed) (hr : r ≠ .jammed) :
    KeepsLaws s (s.setRunState r) where
  jam := fun ⟨hjam, hmotor, hheld⟩ => by
    have hlatch : s.protect.latch = false := by simpa [h] using hjam.1
    exact ⟨⟨iff_of_false (by simp [hlatch]) hr, by simp [hlatch]⟩, hmotor, hheld⟩
  feed := fun h => State.recomputeFeed_follows ⟨h.2.2.2.1, h.2.2.2.2.1⟩

/-! ## Counters -/

theorem State.raiseCarry_keeps (s : State) (wrapped masked : Bool) : Keeps s (s.raiseCarry wrapped masked) := by
  unfold State.raiseCarry
  split
  · exact s.raise_keeps _
  · exact .refl s

/-- A change of the tally outside the piece group keeps every law. -/
theorem Keeps.of_tally (s : State) (t : Tally) (h : t.pieces = s.tally.pieces) : Keeps s { s with tally := t } where
  tally := by simp [tallyBalances, pieceSum, h]

theorem State.countEvent_keeps (s : State) (c : EventCounter) : Keeps s (s.countEvent c) := by
  refine Keeps.trans ?_ (State.raiseCarry_keeps _ _ _)
  exact Keeps.of_tally s _ rfl

theorem State.countDots_keeps (s : State) (n : Nat) : Keeps s (s.countDots n) := by
  refine Keeps.trans ?_ (State.raiseCarry_keeps _ _ _)
  exact Keeps.of_tally s _ rfl

theorem State.countPiece_seen {s : State} (h : seenOnlySet s) (c : PieceCounter) : seenOnlySet (s.countPiece c) :=
  (State.raiseCarry_keeps _ _ _).seen h

/-- The additions to a group of counters come to its sum. -/
theorem pieceSum_of_countsAdded {s t : State} {p : List PieceCounter} {e : List EventCounter} {d : Nat}
    (h : countsAdded s t p e d) (g : List PieceCounter) :
    pieceSum t g = pieceSum s g + BitVec.ofNat 24 (g.map (fun c => p.count c)).sum := by
  have hone : ∀ c, t.tally.pieces.get (pieceCounterIdx c) =
      s.tally.pieces.get (pieceCounterIdx c) + BitVec.ofNat 24 (p.count c) := fun c => by
    obtain ⟨hcount, -⟩ := h.1 c
    apply BitVec.eq_of_toNat_eq
    simpa [pieceCount] using hcount
  induction g with
  | nil => simp [pieceSum]
  | cons c g ih =>
    simp only [pieceSum, List.map_cons, List.foldr_cons, List.sum_cons, BitVec.ofNat_add] at ih ⊢
    rw [ih, hone]
    ac_rfl

/-- A report counts one in each subgroup of the piece group (R152). -/
theorem reportCounters_once (pl : Plan) (r : Record) (o : PieceOutcome) {g : List PieceCounter} (h : g ∈ subgroups) :
    (g.map (fun c => (reportCounters pl r o).count c)).sum = 1 := by
  unfold reportCounters
  generalize (if o = .sorted ∨ o = .culled then r.destination else none) = d
  generalize r.decision.bind (·.attitude) = a
  generalize r.decision.bind (·.cls) = k
  generalize lengthBin pl r.length = b
  generalize r.result = c
  simp only [subgroups, List.mem_cons, List.not_mem_nil, or_false] at h
  obtain rfl | rfl | rfl | rfl | rfl | rfl := h
  · cases o <;> simp [List.count_cons]
  · rcases d with _ | ⟨_ | _ | _ | _ | _⟩ | _ <;> simp [List.count_cons]
  · rcases a with _ | _ | _ | _ | _ <;> simp [List.count_cons]
  · rcases k with _ | _ | _ <;> simp [List.count_cons]
  · fin_cases b <;> simp [List.count_cons]
  · cases c <;> simp [List.count_cons]

theorem State.countReport_keeps (s : State) (x : Report) : Keeps s (s.countReport x) where
  tally := fun h g hg => by
    obtain ⟨hadded, -, -⟩ := s.countReport_tallied x
    have hcompleted := pieceSum_of_countsAdded hadded [.completed]
    rw [pieceSum_of_countsAdded hadded g, reportCounters_once _ _ _ hg, h g hg]
    simpa [pieceSum, reportCounters] using hcompleted.symm
  seen := fun h => by
    have h7 := State.countPiece_seen (State.countPiece_seen (State.countPiece_seen (State.countPiece_seen
      (State.countPiece_seen (State.countPiece_seen (State.countPiece_seen h .completed) (.outcome x.outcome))
      (.dest x.countedDest)) (.attitude x.piece.attitude)) (.cls x.piece.cls))
      (.lengthBin (lengthBin s.plan x.piece.length))) (.cancel x.piece.result)
    rw [State.countReport]
    split
    · exact (State.countEvent_keeps _ _).seen h7
    · exact h7

end Sys2Proof.Machine

/-! PROOFS. That the acts on records, cells, gates, the schedule, the printer, the report unit, the protect unit and run control keep the laws. -/

namespace Sys2Proof.Machine

open Sys2Proof.Safety

/-! ## Records, cells, gates and requests -/

theorem State.updateRecord_keeps (s : State) (p : PieceNo) (f : Record → Record) : Keeps s (s.updateRecord p f) where

theorem State.setCell_keeps (s : State) (c : Cell) (x : CellState) : Keeps s (s.setCell c x) where

theorem State.setQueue_keeps (s : State) (c : Cell) (q : List Expectation) : Keeps s (s.setQueue c q) where

theorem State.filterQueues_keeps (s : State) (keep : Expectation → Bool) : Keeps s (s.filterQueues keep) where

/-- A gate closed keeps every law: among closed gates it changes none. -/
theorem State.setGate_closed_keeps (s : State) (g : Gate) : Keeps s (s.setGate g .closed) where
  jam := fun ⟨⟨hlatch, hsafe⟩, hmotor, hheld⟩ =>
    ⟨⟨hlatch, fun hl => ⟨by rw [State.setGate, (hsafe hl).1, put_closed], (hsafe hl).2⟩⟩, hmotor, hheld⟩

/-- A gate opened with the latch clear keeps every law. -/
theorem State.setGate_opened_keeps {s : State} (h : s.protect.latch = false) (g : Gate) : Keeps s (s.setGate g .opened) where
  jam := by simp +contextual [jamSafe, motorFollows, pocketHeld, h]

theorem State.completeRequest_keeps (s : State) (cell : Fin 8) (tag : Word) (r : ResultCode) (value : Word) :
    Keeps s (s.completeRequest cell tag r value) :=
  ((((s.storeWord_keeps _ _).trans (State.storeWord_keeps _ _ _)).trans (State.storeWord_keeps _ _ _)).trans
    (State.storeWord_keeps _ _ _)).trans (State.raise_keeps _ _)

/-- Whatever request is pending, the laws that do not speak of it hold as before. -/
theorem KeepsLaws.of_request (s : State) (q : Option RunRequest) :
    KeepsLaws s { s with run := { s.run with request := q } } where
  feed := fun h => h

theorem State.completeRun_keepsLaws (s : State) (r : ResultCode) (value : Word) : KeepsLaws s (s.completeRun r value) := by
  unfold State.completeRun
  split
  · exact (Keeps.refl s).laws
  · next q _ => exact (s.completeRequest_keeps q.cell q.tag r value).laws.trans (KeepsLaws.of_request _ none)

/-! ## The drive (R121, R123) -/

theorem State.setTarget_keeps (s : State) (v : Nat) : Keeps s (s.setTarget v) where
  ramp := fun _ => by
    by_cases h : s.drive.code = v <;> simp [rampFollows, State.setTarget, h]

theorem State.cut_keeps (s : State) : Keeps s s.cut where
  ramp := fun _ => ⟨fun _ => rfl, fun _ => rfl⟩

/-! ## The pocket (R72, R73) -/

/-- A change of pocket state, and of the pocket's timers and counts with it, keeps every law where the occupant goes with the new
state. -/
theorem Keeps.of_pocket {s : State} (p : Pocket) (hmotor : p.motor = motorFor p.state s.protect.latch)
    (hheld : pocketHeld s → (p.state = .empty ↔ p.occupant = none)) (hgap : p.mergeHold = s.pocket.mergeHold) :
    Keeps s { s with pocket := p } where
  jam := fun ⟨⟨hlatch, hsafe⟩, _, hpocket⟩ => by
    refine ⟨⟨hlatch, fun hl => ?_⟩, hmotor, hheld hpocket⟩
    obtain ⟨hgates, hfeed, hjob, hhead, -⟩ := hsafe hl
    exact ⟨hgates, hfeed, hjob, hhead, hmotor.trans (by rw [show s.protect.latch = true from hl]; rfl)⟩
  owners := by simp [ownersFollowed, hgap]
  feed := feedFollows_of_same rfl rfl rfl hgap rfl

theorem State.emptyPocket_keeps (s : State) : Keeps s s.emptyPocket where
  jam := fun ⟨⟨hlatch, hsafe⟩, _, _⟩ => by
    refine (State.setMergeGap_keeps _ false).jam ⟨⟨hlatch, fun hl => ?_⟩, rfl, iff_of_true rfl rfl⟩
    obtain ⟨hgates, hfeed, hjob, hhead, -⟩ := hsafe hl
    exact ⟨hgates, hfeed, hjob, hhead, by simp [motorFor, show s.protect.latch = true from hl]⟩
  owners := fun h => ⟨rfl, h.2⟩
  feed := fun h => State.setMergeGap_follows h.2.2.2.2.1 false

/-! ## The printer (R99 to R105) -/

/-- A change of what the printer does with the latch clear, or to doing nothing more, keeps every law. -/
theorem Keeps.of_printer {s : State} (p : Printer)
    (h : jamSafe s → s.protect.latch = true → p.job = none ∧ p.head = 0) :
    Keeps s { s with printer := p } where
  jam := fun ⟨hjam, hmotor, hheld⟩ => by
    refine ⟨⟨hjam.1, fun hl => ?_⟩, hmotor, hheld⟩
    obtain ⟨hgates, hfeed, -, -, hhold⟩ := hjam.2 hl
    obtain ⟨hjob, hhead⟩ := h hjam hl
    exact ⟨hgates, hfeed, hjob, hhead, hhold⟩

theorem State.endImpression_keeps (s : State) (j : Impression) : Keeps s (s.endImpression j) :=
  (s.updateRecord_keeps _ _).trans (Keeps.of_printer _ fun hjam hl => ⟨rfl, (hjam.2 hl).2.2.2.1⟩)

theorem State.endImpressionPartial_keeps (s : State) : Keeps s s.endImpressionPartial := by
  unfold State.endImpressionPartial
  split
  · exact .refl s
  · exact (s.updateRecord_keeps _ _).trans (Keeps.of_printer _ fun hjam hl => ⟨rfl, (hjam.2 hl).2.2.2.1⟩)

/-- The state in which the column of an impression has been presented and its dots counted (R101, R102). -/
def State.columnShown (s : State) (j : Impression) : State :=
  (({ s with printer := { s.printer with head := s.columnWord j j.next } }).updateRecord j.piece
    (fun r => { r with dots := r.dots + dotsOf (s.columnWord j j.next) })).countDots (dotsOf (s.columnWord j j.next))

/-- After the column shown the next one is awaited, or the impression is over (R102, R103). -/
theorem State.fireColumn_eq (s : State) (j : Impression) :
    s.fireColumn j =
      if j.next + 1 < j.killer + j.die then
        { s.columnShown j with printer := { (s.columnShown j).printer with job := some { j with next := j.next + 1 } } }
      else (s.columnShown j).endImpression { j with next := j.next + 1 } := rfl

@[simp] theorem State.endImpression_length (s : State) (j : Impression) :
    (s.endImpression j).records.length = s.records.length := State.length_updateRecord _ _ _

@[simp] theorem State.columnShown_length (s : State) (j : Impression) :
    (s.columnShown j).records.length = s.records.length := by
  simp [State.columnShown]

@[simp] theorem State.fireColumn_length (s : State) (j : Impression) :
    (s.fireColumn j).records.length = s.records.length := by
  rw [State.fireColumn_eq]
  split <;> simp

theorem State.columnShown_seen {s : State} (h : seenOnlySet s) (j : Impression) : seenOnlySet (s.columnShown j) :=
  (State.countDots_keeps _ _).seen h

/-- A column fired where a jammed machine fires none keeps every law. -/
theorem State.fireColumn_keeps {s : State} (h : jamSafe s → s.protect.latch = false) (j : Impression) :
    Keeps s (s.fireColumn j) where
  jam := fun ⟨hjam, hmotor, hheld⟩ =>
    ⟨⟨by simpa using hjam.1, by simp [h hjam]⟩, by simpa [motorFollows] using hmotor, by simpa [pocketHeld] using hheld⟩
  seen := fun h => by
    rw [State.fireColumn_eq]
    split
    · exact State.columnShown_seen h j
    · exact (State.endImpression_keeps _ _).seen (State.columnShown_seen h j)

/-- A PRINT_START taken with the latch clear keeps every law. -/
theorem State.startImpression_keeps {s : State} (h : s.protect.latch = false) (p : PieceNo) (base : Pos) :
    Keeps s (s.startImpression p base) := by
  have hended := s.endImpressionPartial_keeps
  simp only [State.startImpression]
  split
  · exact hended
  · split
    · exact hended
    · split
      · exact hended.trans (State.fireColumn_keeps (fun _ => by simpa using h) _)
      · exact hended.trans (State.endImpression_keeps _ _)

/-! ## The trip (R139, R140) -/

/-- A change of the protect unit that leaves its latch keeps every law. -/
theorem Keeps.of_protect (s : State) (p : Protect) (h : p.latch = s.protect.latch) : Keeps s { s with protect := p } where
  jam := by simp +contextual [jamSafe, motorFollows, pocketHeld, h]
  latch := fun hl => h.trans hl

theorem State.protectAction_keeps (s : State) : Keeps s s.protectAction := by
  unfold State.protectAction
  split
  · exact s.cut_keeps
  · exact s.setTarget_keeps 0
  · split
    · exact s.cut_keeps
    · exact (s.setTarget_keeps _).trans (Keeps.of_protect _ _ rfl)

theorem State.tripActs_keeps {s : State} (h : s.run.state.isRunning = true) (cause : TripCause) (cell : Option Cell)
    (at' : Pos) (piece : Option PieceNo) : Keeps s (s.tripActs cause cell at' piece) where
  jam := fun ⟨_, _, hheld⟩ =>
    ⟨⟨by simp, fun _ => ⟨by simp, by simp, by simp, by simp, by simp⟩⟩, by simp [motorFollows, motorFor],
      by simpa [pocketHeld] using hheld⟩
  owners := by simp [ownersFollowed, State.tripActs_run]
  feed := fun ⟨_, _, _, hgap, hfull, _⟩ =>
    ⟨by simp [State.tripActs_run], by simp [State.tripActs_run], by simp [State.tripActs_run],
      by simpa [State.tripActs_run] using hgap, by simpa [State.tripActs_run] using hfull,
      by simp [State.tripActs_run, FeedHold.anyStands]⟩
  ramp := fun hr => (State.protectAction_keeps _).ramp (by simpa [rampFollows] using hr)
  tally := by simp [tallyBalances, pieceSum]
  memory := fun hm => by
    obtain ⟨u, hmem, -, -, h, -⟩ := s.tripActs_completes cause cell at' piece
    rw [memoryKept, h]
    exact (State.completeRun_keepsLaws u _ _).memory (by simpa [memoryKept, hmem] using hm)
  seen := fun hs => by
    obtain ⟨u, -, hport, -, -, h⟩ := s.tripActs_completes cause cell at' piece
    rw [seenOnlySet, h]
    exact (State.completeRun_keepsLaws u _ _).seen (by simpa [seenOnlySet, hport] using hs)
  request := fun ⟨_, hplan⟩ => by
    have : s.run.state ≠ .idle := by rintro h'; simp [h', RunState.isRunning] at h
    exact ⟨by simp [requestFits], fun _ => by simpa [State.tripActs] using hplan this⟩

theorem State.trip_keeps (s : State) (cause : TripCause) (cell : Option Cell) (at' : Pos) (piece : Option PieceNo) :
    Keeps s (s.trip cause cell at' piece) := by
  by_cases h : s.run.state.isRunning = true ∧ s.protect.latch = false
  · rw [State.trip_eq_tripActs h.1 h.2]
    exact ((State.tripActs_keeps h.1 cause cell at' piece).trans (State.countEvent_keeps _ _)).trans (State.raise_keeps _ _)
  · rw [State.trip_of_not (by simpa [Classical.or_iff_not_imp_left] using h)]
    exact .refl s

/-! ## The schedule and the expectations (R5, R6, R56 to R63) -/

/-- A change of the schedule keeps every law. -/
theorem Keeps.of_schedule (s : State) (l : List Entry) : Keeps s { s with schedule := l } where

theorem State.takeEntry_keeps {s : State} (h : s.protect.latch = false) (e : Entry) : Keeps s (s.takeEntry e) := by
  unfold State.takeEntry
  split
  · exact State.setGate_opened_keeps h _
  · exact s.setGate_closed_keeps _
  · exact State.startImpression_keeps h _ _
  · split
    · exact s.trip_keeps _ _ _ _
    · exact .refl s
  · exact s.trip_keeps _ _ _ _

theorem State.insertEntry_keeps (s : State) (e : Entry) : Keeps s (s.insertEntry e) := by
  cases hl : s.protect.latch with
  | true => rw [State.insertEntry_of_latch hl]; exact .refl s
  | false =>
    cases ha : isAhead e.due s.position with
    | true => rw [State.insertEntry_of_ahead hl ha]; exact .of_schedule s _
    | false =>
      rw [State.insertEntry_of_overdue hl ha]
      refine (Keeps.of_schedule s _).trans (State.takeEntry_keeps ?_ e)
      exact hl

theorem State.removeEntries_keeps (s : State) (p : PieceNo) (k : EntryKind) : Keeps s (s.removeEntries p k) :=
  .of_schedule s _

theorem State.takeDue_keeps (s : State) : Keeps s s.takeDue := by
  unfold State.takeDue
  split
  · exact .refl s
  · next e h =>
    refine (Keeps.of_schedule s _).trans (State.takeEntry_keeps ?_ e)
    exact (State.dueEntry_eq_some.mp h).1

theorem State.takeAllDue_keeps (n : Nat) (s : State) : Keeps s (s.takeAllDue n) := by
  induction n generalizing s with
  | zero => exact .refl s
  | succ n ih =>
    unfold State.takeAllDue
    split
    · exact s.takeDue_keeps.trans (ih _)
    · exact .refl s

theorem State.dropExpectation_keeps (s : State) (p : PieceNo) : Keeps s (s.dropExpectation p) :=
  ((s.filterQueues_keeps _).trans (.of_schedule _ _)).trans (State.updateRecord_keeps _ _ _)

theorem State.expect_keeps (s : State) (p : PieceNo) (c : Cell) (lead : Pos) : Keeps s (s.expect p c lead) :=
  (((s.dropExpectation_keeps p).trans (State.setQueue_keeps _ _ _)).trans (State.updateRecord_keeps _ _ _)).trans
    (State.insertEntry_keeps _ _)

theorem State.expectUntracked_keeps (s : State) (c : Cell) (lead : Pos) : Keeps s (s.expectUntracked c lead) :=
  s.setQueue_keeps _ _

/-! ## The end of a piece (R20, R62, R152, R158) -/

theorem State.takeCloses_keeps (s : State) (p : PieceNo) : Keeps s (s.takeCloses p) := by
  unfold State.takeCloses
  refine Keeps.foldl (fun t e => ?_) _ s
  split
  · split
    · exact t.setGate_closed_keeps _
    · exact .refl t
  · exact .refl t

theorem State.clearOccupancies_keeps (s : State) (p : PieceNo) : Keeps s (s.clearOccupancies p) where

theorem State.releaseSlot_keeps (s : State) (i : Fin 2) : Keeps s (s.releaseSlot i) where

theorem State.abandonScan_keeps (s : State) : Keeps s s.abandonScan := by
  unfold State.abandonScan
  split
  · exact {}
  · exact .refl s

/-- What freeing a record does ahead of the table and the feed (R4, R6, R29, R62, R79, R89). -/
def State.freeTraces (s : State) (r : Record) : State :=
  let t := s.takeCloses r.number
  let t := { t with schedule := t.schedule.filter (fun e => e.piece != r.number) }
  let t := t.filterQueues (fun x => x.who != .piece r.number)
  let t := (t.clearOccupancies r.number).releaseSlot r.slot
  let t := if t.pocket.state != .empty && t.pocket.occupant == some r.number then t.emptyPocket else t
  if t.scan.window.map (·.piece) = some r.number then t.abandonScan else t

theorem State.freeRecord_eq (s : State) (r : Record) :
    s.freeRecord r = ({ s.freeTraces r with
      records := (s.freeTraces r).records.filter (fun x => x.number != r.number) }).recomputeFeed := rfl

theorem State.freeTraces_keeps (s : State) (r : Record) : Keeps s (s.freeTraces r) := by
  dsimp only [State.freeTraces]
  exact ((((((s.takeCloses_keeps r.number).trans (.of_schedule _ _)).trans (State.filterQueues_keeps _ _)).trans
    (State.clearOccupancies_keeps _ _)).trans (State.releaseSlot_keeps _ _)).ite (State.emptyPocket_keeps _)).ite
    (State.abandonScan_keeps _)

@[simp] theorem State.freeTraces_records (s : State) (r : Record) : (s.freeTraces r).records = s.records := by
  simp only [State.freeTraces]
  (repeat' split) <;> simp

@[simp] theorem State.freeTraces_reports (s : State) (r : Record) : (s.freeTraces r).reports = s.reports := by
  simp only [State.freeTraces]
  (repeat' split) <;> simp

/-- The records left after one of them is freed. -/
@[simp] theorem State.freeRecord_records (s : State) (r : Record) :
    (s.freeRecord r).records = s.records.filter (fun x => x.number != r.number) := by
  simp [State.freeRecord_eq]

/-- A record freed leaves the feed true to its causes. -/
theorem State.freeRecord_follows {s : State} (h : ownersFollowed s) (r : Record) : feedFollows (s.freeRecord r) :=
  State.recomputeFeed_follows (by exact (s.freeTraces_keeps r).owners h)

/-- The table without the records of one number keeps every law, once the feed is recomputed. -/
theorem Keeps.of_records (s : State) (l : List Record) (h : l.length ≤ s.records.length) :
    Keeps s ({ s with records := l } : State).recomputeFeed where
  jam := fun hj => State.recomputeFeed_jam (s := { s with records := l }) hj
  room := fun ⟨hr, hh⟩ => ⟨h.trans hr, (Nat.add_le_add_left h _).trans hh⟩
  feed := fun hf => State.recomputeFeed_follows (s := { s with records := l }) ⟨hf.2.2.2.1, hf.2.2.2.2.1⟩

theorem State.freeRecord_keeps (s : State) (r : Record) : Keeps s (s.freeRecord r) :=
  (s.freeTraces_keeps r).trans (.of_records _ _ (List.length_filter_le _ _))

theorem length_filter_lt_of_mem {l : List Record} {r : Record} (h : r ∈ l) :
    (l.filter (fun x => x.number != r.number)).length + 1 ≤ l.length :=
  List.length_filter_lt_length_iff_exists.mpr ⟨r, h, by simp⟩

/-- The appended report of a tracked piece takes the place of its record (R14). -/
theorem State.reportAndFree_keeps (s : State) {r : Record} (h : ∃ y ∈ s.records, y.number = r.number) (x : Report) :
    Keeps s (((s.appendReport x).countReport x).freeRecord r) := by
  have hkeeps := ((s.appendReport x).countReport_keeps x).trans (State.freeRecord_keeps _ r)
  exact {
    jam := fun hj => hkeeps.jam hj
    room := fun ⟨hr, hh⟩ => by
      obtain ⟨y, hy, hn⟩ := h
      have hlt := length_filter_lt_of_mem hy
      rw [hn] at hlt
      have hheld : (((s.appendReport x).countReport x).freeRecord r).reports.held.length = s.reports.held.length + 1 := by
        simp [State.appendReport]
      have hleft : (((s.appendReport x).countReport x).freeRecord r).records.length + 1 ≤ s.records.length := by
        simpa using hlt
      exact ⟨by omega, by omega⟩
    owners := fun ho => hkeeps.owners ho
    feed := fun hf => State.freeRecord_follows
      (((s.appendReport x).countReport_keeps x).owners ⟨hf.2.2.2.1, hf.2.2.2.2.1⟩) r
    ramp := fun hr => hkeeps.ramp hr
    tally := fun ht => hkeeps.tally ht
    memory := fun hm => hkeeps.memory hm
    seen := fun hs => hkeeps.seen hs }

theorem State.endPiece_keeps (s : State) (p : PieceNo) (outcome : Record → PieceOutcome) :
    Keeps s (s.endPiece p outcome) := by
  have hended : Keeps s (match s.printer.job with
      | some j => if j.piece = p then s.endImpressionPartial else s
      | none => s) := by
    split
    · exact Keeps.ite (.refl s) s.endImpressionPartial_keeps
    · exact .refl s
  simp only [State.endPiece]
  split
  · exact hended
  · next r h => exact hended.trans (State.reportAndFree_keeps _ ⟨r, List.mem_of_find?_eq_some h, rfl⟩ _)

/-! ## Trays (R160 to R166) -/

/-- A change of the report unit that leaves the number of reports held keeps every law. -/
theorem Keeps.of_reports (s : State) (u : ReportUnit) (h : u.held.length = s.reports.held.length) :
    Keeps s { s with reports := u } where
  room := by simp [roomKept, h]
  feed := feedFollows_of_same rfl rfl h rfl rfl

theorem State.searchRack_keeps (s : State) : Keeps s s.searchRack := by
  unfold State.searchRack
  split
  · exact (s.storeWord_keeps _ _).trans (.of_reports _ _ rfl)
  · split
    · exact .refl s
    · exact (Keeps.of_reports s _ (by rfl)).trans (State.raise_keeps _ _)

theorem State.closeTray_keeps (s : State) (cause : CloseCause) : Keeps s (s.closeTray cause) := by
  unfold State.closeTray
  split
  · exact .refl s
  · exact (((s.storeWords_keeps _ _).trans (State.storeWord_keeps _ _ _)).trans (State.raise_keeps _ _)).trans
      (.of_reports _ _ rfl)

/-- A report fewer held keeps every law, once the feed is recomputed. -/
theorem Keeps.of_moved (s : State) (u : ReportUnit) (h : u.held.length ≤ s.reports.held.length) :
    Keeps s ({ s with reports := u } : State).recomputeFeed where
  jam := fun hj => State.recomputeFeed_jam (s := { s with reports := u }) hj
  room := fun ⟨hr, hh⟩ => ⟨hr, (Nat.add_le_add_right h _).trans hh⟩
  feed := fun hf => State.recomputeFeed_follows (s := { s with reports := u }) ⟨hf.2.2.2.1, hf.2.2.2.2.1⟩

theorem State.moveOne_keeps (s : State) : Keeps s s.moveOne := by
  unfold State.moveOne
  split
  · next x rest tr hheld _ =>
    exact ((s.storeWords_keeps _ _).trans (.of_moved _ _ (by simp [hheld]))).ite (State.closeTray_keeps _ _)
  · exact .refl s

theorem State.needTray_keeps (s : State) : Keeps s s.needTray :=
  (Keeps.refl s).ite s.searchRack_keeps

theorem State.fileLoop_keeps (n : Nat) (s : State) : Keeps s (s.fileLoop n) := by
  induction n generalizing s with
  | zero => exact .refl s
  | succ n ih =>
    simp only [State.fileLoop]
    split
    · exact .refl s
    · split
      · exact (s.needTray_keeps.trans (State.moveOne_keeps _)).trans (ih _)
      · exact s.needTray_keeps

theorem State.fileReports_keeps (s : State) : Keeps s s.fileReports :=
  (Keeps.of_reports s _ (by rfl)).trans (State.fileLoop_keeps _ _)

theorem State.searchAndFile_keeps (s : State) : Keeps s s.searchAndFile :=
  (Keeps.refl s).ite (s.searchRack_keeps.trans (State.fileReports_keeps _))

theorem State.fileAtIdle_keeps (s : State) (cause : CloseCause) : Keeps s (s.fileAtIdle cause) :=
  (s.searchAndFile_keeps.trans (State.fileReports_keeps _)).ite (State.closeTray_keeps _ _)

/-! ## The jam record and the guard (R138, R145, R147) -/

theorem State.writeJamRecord_keeps (s : State) : Keeps s s.writeJamRecord :=
  (((s.storeWords_keeps _ _).trans (State.storeWords_keeps _ _ _)).trans (State.storeWord_keeps _ _ _)).trans
    (.of_protect _ _ rfl)

theorem State.writeRecordIfDue_keeps (s : State) : Keeps s s.writeRecordIfDue :=
  (Keeps.refl s).ite s.writeJamRecord_keeps

theorem State.rewriteRecordIfDue_keeps (s : State) : Keeps s s.rewriteRecordIfDue := by
  unfold State.rewriteRecordIfDue
  split
  · exact ((s.storeWord_keeps _ _).trans (State.storeWord_keeps _ _ _)).trans (.of_protect _ _ rfl)
  · exact .refl s

theorem State.furtherTrip_keeps (s : State) : Keeps s s.furtherTrip :=
  ((((Keeps.of_protect s _ (by rfl)).trans (State.cut_keeps _)).trans (.of_protect _ _ rfl)).trans
    (State.raise_keeps _ _)).trans (State.rewriteRecordIfDue_keeps _)

theorem State.openGuard_keeps (s : State) : Keeps s s.openGuard := by
  have hguard : Keeps s { s with protect := { s.protect with guardIsOpen := true } } := .of_protect s _ rfl
  simp only [State.openGuard]
  split
  · exact hguard.trans (State.furtherTrip_keeps _)
  · exact hguard.trans (State.trip_keeps _ _ _ _ _)

theorem State.endCrawl_keeps (s : State) : Keeps s s.endCrawl := by
  unfold State.endCrawl
  split
  · exact s.cut_keeps.trans (.of_protect _ _ rfl)
  · exact .refl s

/-! ## Run control (R125 to R132) -/

/-- A change of the drive that leaves its code, target and ramp timer keeps every law. -/
theorem Keeps.of_drive (s : State) (d : Drive) (hcode : d.code = s.drive.code) (htarget : d.target = s.drive.target)
    (htimer : d.rampTimer = s.drive.rampTimer) : Keeps s { s with drive := d } where
  ramp := by simp [rampFollows, hcode, htarget, htimer]

theorem State.takeCell_keeps (s : State) (cell : Fin 8) : Keeps s (s.takeCell cell) := s.storeWord_keeps _ _

theorem State.strandAll_keeps (s : State) : Keeps s s.strandAll :=
  Keeps.foldl (f := fun t (r : Record) => t.endPiece r.number (fun _ => .stranded)) (fun t _ => t.endPiece_keeps _ _) _ s

theorem State.settleIdle_keepsLaws (s : State) (stranded : Nat) (cause : CloseCause) :
    KeepsLaws s (s.settleIdle stranded cause) :=
  ((((s.filterQueues_keeps _).trans (State.cut_keeps _)).laws.trans (State.completeRun_keepsLaws _ _ _)).trans
    (State.fileAtIdle_keeps _ _).laws).trans (State.recomputeFeed_keeps _).laws

/-- After an entry to IDLE, as after a purge, no request is pending. -/
@[simp] theorem State.settleIdle_request (s : State) (stranded : Nat) (cause : CloseCause) :
    (s.settleIdle stranded cause).run.request = none := by
  simp [State.settleIdle, State.completeRun_run]

/-- In IDLE with no request pending run control's own laws hold. -/
theorem requestFits_of_idle {s : State} (h : s.run.state = .idle) (hq : s.run.request = none) :
    requestFits s ∧ planHeld s := by
  simp [requestFits, planHeld, h, hq]

@[simp] theorem State.setRunState_run_state (s : State) (r : RunState) : (s.setRunState r).run.state = r := rfl

theorem State.enterIdle_keeps {s : State} (h : s.run.state ≠ .jammed) : Keeps s s.enterIdle where
  toKeepsLaws := ((State.setRunState_keepsLaws h (by simp)).trans (State.strandAll_keeps _).laws).trans
    (State.settleIdle_keepsLaws _ _ _)
  request := fun _ => requestFits_of_idle (by simp [State.enterIdle]) (by simp [State.enterIdle])

theorem State.stoppingTest_keeps (s : State) : Keeps s s.stoppingTest := by
  unfold State.stoppingTest
  split
  · next h => exact State.enterIdle_keeps (by simp [h.1])
  · exact .refl s

theorem State.enterStopping_keepsLaws {s : State} (h : s.run.state ≠ .jammed) : KeepsLaws s s.enterStopping :=
  (State.setRunState_keepsLaws h (by simp)).trans
    ((State.setTarget_keeps (s.setRunState .stopping) 0).trans (State.stoppingTest_keeps _)).laws

/-- After an entry to STOPPING with a DRAIN or a STOP pending and a valid plan run control's own laws hold. -/
theorem State.enterStopping_request {s : State} (hplan : s.planValid = true)
    (hq : s.run.request.map (·.kind) = some .drain ∨ s.run.request.map (·.kind) = some .stop) :
    requestFits s.enterStopping ∧ planHeld s.enterStopping :=
  ((State.setTarget_keeps (s.setRunState .stopping) 0).trans (State.stoppingTest_keeps _)).request
    ⟨by simpa [requestFits] using hq, fun _ => hplan⟩

theorem State.drainTest_keeps (s : State) : Keeps s s.drainTest := by
  unfold State.drainTest
  split
  · next h =>
    exact {
      toKeepsLaws := State.enterStopping_keepsLaws (by simp [h.1])
      request := fun ⟨hfits, hplan⟩ => State.enterStopping_request (hplan (by simp [h.1]))
        (.inl (by simpa [requestFits, h.1] using hfits)) }
  · exact .refl s

theorem State.targetReached_keeps (s : State) (v : Nat) : Keeps s (s.targetReached v) := by
  unfold State.targetReached
  split
  · next h =>
    exact {
      toKeepsLaws := (State.setRunState_keepsLaws (by simp [h.1]) (by simp)).trans (State.completeRun_keepsLaws _ _ _)
      request := fun ⟨_, hplan⟩ =>
        ⟨by simp [requestFits, State.completeRun_run], fun _ => by simpa using hplan (by simp [h.1])⟩ }
  · exact (Keeps.refl s).ite s.stoppingTest_keeps

theorem State.reachTime_keeps (s : State) (d : Nat) : Keeps s (s.reachTime d) where

theorem State.tickRamp_keeps (s : State) : Keeps s s.tickRamp := by
  by_cases h : rampCode s.drive.code s.drive.target s.plan.codeStep = s.drive.target
  · rw [State.tickRamp_of_reached h]
    exact { ramp := fun _ => ⟨fun _ => rfl, fun _ => rfl⟩ }
  · rw [State.tickRamp_of_short h]
    exact { ramp := fun _ => ⟨nofun, fun h' => absurd h' h⟩ }

theorem State.takeReport_keeps (s : State) : Keeps s s.takeReport := by
  unfold State.takeReport
  split
  · exact .refl s
  · exact (Keeps.of_drive s _ (by rfl) (by rfl) (by rfl)).trans (State.targetReached_keeps _ _)

theorem State.beStill_keeps (s : State) : Keeps s s.beStill :=
  ((Keeps.of_drive s _ (by rfl) (by rfl) (by rfl)).trans (State.stoppingTest_keeps _)).trans (State.writeRecordIfDue_keeps _)

theorem State.remeasureStill_keeps (s : State) : Keeps s s.remeasureStill := by
  unfold State.remeasureStill
  split
  · exact s.beStill_keeps
  · exact .of_drive s _ rfl rfl rfl

/-- A change of the admission unit keeps every law. -/
theorem Keeps.of_admission (s : State) (a : Admission) : Keeps s { s with admission := a } where

/-- A new request pending in a run state that it fits, with a valid plan, keeps every law. -/
theorem State.makePending_setRunState_keeps {s : State} {r : RunState} (h : s.run.state ≠ .jammed) (hr : r ≠ .jammed)
    (kind : RunKind) (cell : Fin 8) (tag : Word) (hplan : requestFits s ∧ planHeld s → s.planValid = true)
    (hfits : requestFits ((s.makePending kind cell tag).setRunState r)) :
    Keeps s ((s.makePending kind cell tag).setRunState r) where
  toKeepsLaws := (KeepsLaws.of_request s _).trans (State.setRunState_keepsLaws (s := s.makePending kind cell tag) h hr)
  request := fun hs => ⟨hfits, fun _ => by simpa using hplan hs⟩

/-- An accepted START keeps every law. -/
theorem State.acceptStart_keeps {s : State} (h : s.run.state = .idle) (hplan : s.planValid = true) (cell : Fin 8)
    (tag : Word) : Keeps s (s.acceptStart cell tag) := by
  have hstarting := State.makePending_setRunState_keeps (r := .starting) (by simp [h]) (by simp) .start cell tag
    (fun _ => hplan) rfl
  exact ((hstarting.trans (.of_admission _ _)).trans (State.setTarget_keeps _ _)).ite (State.targetReached_keeps _ _)

theorem State.decideStart_keeps (s : State) (cell : Fin 8) (tag : Word) : Keeps s (s.decideStart cell tag) := by
  unfold State.decideStart
  split
  · exact s.completeRequest_keeps _ _ _ _
  · next hidle =>
    split
    · exact s.completeRequest_keeps _ _ _ _
    · next hplan =>
      split
      · exact s.completeRequest_keeps _ _ _ _
      · split
        · exact s.completeRequest_keeps _ _ _ _
        · exact State.acceptStart_keeps (by simpa using hidle) (by simpa using hplan) cell tag

/-- A DRAIN or STOP that takes the place of the pending request on the way to STOPPING keeps every law. -/
theorem State.supersede_keeps {s : State} (h : s.run.state = .starting ∨ s.run.state = .running ∨ s.run.state = .draining)
    {kind : RunKind} (hkind : kind = .drain ∨ kind = .stop) (cell : Fin 8) (tag : Word) :
    Keeps s ((s.completeRun .superseded 0).makePending kind cell tag).enterStopping where
  toKeepsLaws := ((s.completeRun_keepsLaws _ _).trans (.of_request _ _)).trans
    (State.enterStopping_keepsLaws (by obtain h | h | h := h <;> simp [h]))
  request := fun ⟨_, hplan⟩ => by
    have hvalid : s.planValid = true := hplan (by obtain h | h | h := h <;> simp [h])
    exact State.enterStopping_request (by simpa using hvalid) (by obtain rfl | rfl := hkind <;> simp [State.makePending])

theorem State.decideDrain_keeps (s : State) (cell : Fin 8) (tag : Word) : Keeps s (s.decideDrain cell tag) := by
  unfold State.decideDrain
  split
  · next h =>
    exact (State.makePending_setRunState_keeps (by simp [h]) (by simp) .drain cell tag
      (fun hs => hs.2 (by simp [h])) rfl).trans (State.drainTest_keeps _)
  · next h => exact State.supersede_keeps (.inl h) (.inl rfl) cell tag
  all_goals exact s.completeRequest_keeps _ _ _ _

theorem State.decideStop_keeps (s : State) (cell : Fin 8) (tag : Word) : Keeps s (s.decideStop cell tag) := by
  unfold State.decideStop
  split
  · next h => exact State.supersede_keeps (.inl h) (.inr rfl) cell tag
  · next h => exact State.supersede_keeps (.inr (.inl h)) (.inr rfl) cell tag
  · next h => exact State.supersede_keeps (.inr (.inr h)) (.inr rfl) cell tag
  all_goals exact s.completeRequest_keeps _ _ _ _

end Sys2Proof.Machine

/-! PROOFS. That the acts of the scan, the pocket, the router and the cells keep the laws (R1 to R119). -/

namespace Sys2Proof.Machine

open Sys2Proof.Safety

/-! ## Decisions and windows (R24 to R54) -/

theorem State.insertGate_keeps (s : State) (g : Gate) (p : PieceNo) (lead : Pos) (dist len : Nat) :
    Keeps s (s.insertGate g p lead dist len) :=
  (s.insertEntry_keeps _).trans (State.insertEntry_keeps _ _)

theorem State.reservePocket_keeps (s : State) (p : PieceNo) : Keeps s (s.reservePocket p) :=
  .of_pocket _ rfl (fun _ => iff_of_false (by simp) (by simp)) rfl

/-- The gates of a turning inserted (R53). -/
def State.turningGates (s : State) (r : Record) (t : Turning) : State :=
  let s1 := if t.twists then s.insertGate .twist r.number r.lead s.plan.dTwist r.lengthOrOpen else s
  if t.reverses then s1.insertGate .pocket r.number r.lead s1.plan.dRev r.lengthOrOpen else s1

/-- After the gates of its turning the piece is expected at POCKET or at MERGE (R54). -/
theorem State.phaseOne_eq (s : State) (r : Record) (t : Turning) :
    s.phaseOne r t =
      if t.reverses then (s.turningGates r t).expect r.number .pocket (posAdd r.lead (s.turningGates r t).plan.dPocket)
      else (s.turningGates r t).expect r.number .merge (posAdd r.lead (s.turningGates r t).plan.dMerge) := rfl

theorem State.turningGates_keeps (s : State) (r : Record) (t : Turning) : Keeps s (s.turningGates r t) :=
  ((Keeps.refl s).ite (State.insertGate_keeps _ _ _ _ _ _)).ite (State.insertGate_keeps _ _ _ _ _ _)

theorem State.phaseOne_keeps (s : State) (r : Record) (t : Turning) : Keeps s (s.phaseOne r t) := by
  rw [State.phaseOne_eq]
  split
  · exact (s.turningGates_keeps r t).trans (State.expect_keeps _ _ _ _)
  · exact (s.turningGates_keeps r t).trans (State.expect_keeps _ _ _ _)

theorem State.makeDecision_keeps (s : State) (p : PieceNo) (lists : PerScanner (List KeptRun)) :
    Keeps s (s.makeDecision p lists) := by
  simp only [State.makeDecision]
  split
  · exact .refl s
  · exact (((Keeps.refl s).ite (s.reservePocket_keeps p)).trans (State.updateRecord_keeps _ _ _)).trans
      (State.phaseOne_keeps _ _ _)

theorem State.noteDrops_keeps (p : PieceNo) (n : Nat) (s : State) : Keeps s (s.noteDrops p n) := by
  induction n generalizing s with
  | zero => exact .refl s
  | succ n ih => exact ((s.updateRecord_keeps _ _).trans (State.countEvent_keeps _ _)).trans (ih _)

/-- A change of the scan context keeps every law. -/
theorem Keeps.of_scan (s : State) (x : ScanContext) : Keeps s { s with scan := x } where

theorem State.takeSet_keeps (s : State) : Keeps s s.takeSet := by
  simp only [State.takeSet]
  split
  · exact .refl s
  · split
    · exact (Keeps.of_scan s _).trans (State.noteDrops_keeps _ _ _)
    · exact .refl s

theorem State.completeClose_keeps (s : State) (x : Window) (w : Nat) : Keeps s (s.completeClose x w) :=
  (((Keeps.of_scan s _).trans (State.noteDrops_keeps _ _ _)).trans (State.makeDecision_keeps _ _ _)).trans (.of_scan _ _)

theorem State.closeWindow_keeps (s : State) (p : PieceNo) (at' : Pos) : Keeps s (s.closeWindow p at') := by
  simp only [State.closeWindow]
  split
  · exact .refl s
  · split
    · exact ((Keeps.refl s).ite s.takeSet_keeps).trans (State.completeClose_keeps _ _ _)
    · exact .refl s

theorem State.forceClose_keeps (s : State) : Keeps s s.forceClose := by
  unfold State.forceClose
  split
  · exact .refl s
  · split
    · exact (s.updateRecord_keeps _ _).trans (State.completeClose_keeps _ _ _)
    · exact .refl s

/-! ## The pocket and the merge (R72 to R88) -/

theorem State.grantRelease_keeps {s : State} {p : PieceNo} (h : s.pocket.occupant = some p) : Keeps s (s.grantRelease p) := by
  refine (Keeps.trans ?_ (State.updateRecord_keeps _ _ _)).trans (State.expect_keeps _ _ _ _)
  refine Keeps.ite ?_ (State.setMergeGap_keeps _ _)
  exact .of_pocket _ rfl (fun _ => by simp [h]) rfl

theorem State.mergeTest_keeps (s : State) (leftOut : Option PieceNo) : Keeps s (s.mergeTest leftOut) := by
  unfold State.mergeTest
  split
  · split
    · next h => exact State.grantRelease_keeps h
    · exact .refl s
  · exact .refl s

theorem State.raiseMergeGap_keeps (s : State) : Keeps s s.raiseMergeGap :=
  (s.setMergeGap_keeps true).trans (State.countEvent_keeps _ _)

/-- A change of the pocket's counts and timers keeps every law. -/
theorem Keeps.of_pocketCounts (s : State) (p : Pocket) (hstate : p.state = s.pocket.state)
    (hoccupant : p.occupant = s.pocket.occupant) (hmotor : p.motor = s.pocket.motor)
    (hgap : p.mergeHold = s.pocket.mergeHold) : Keeps s { s with pocket := p } where
  jam := by simp +contextual [jamSafe, motorFollows, pocketHeld, hstate, hoccupant, hmotor]
  owners := by simp [ownersFollowed, hgap]
  feed := feedFollows_of_same rfl rfl rfl hgap rfl

theorem State.mergePass_keeps (s : State) (o : Occupant) : Keeps s (s.mergePass o) := by
  simp only [State.mergePass]
  split
  · exact ((Keeps.of_pocketCounts s _ (by rfl) (by rfl) (by rfl) (by rfl)).trans (State.mergeTest_keeps _ _)).ite
      (State.raiseMergeGap_keeps _)
  · exact .refl s

/-- A change from one pocket state with an occupant to another keeps every law. -/
theorem State.setPocket_keeps {s : State} (p : Pocket) (st : PocketState) (h : s.pocket.state ≠ .empty) (hst : st ≠ .empty)
    (hoccupant : p.occupant = s.pocket.occupant) (hgap : p.mergeHold = s.pocket.mergeHold) :
    Keeps s (({ s with pocket := p } : State).setPocket st) :=
  .of_pocket _ rfl (fun hheld => iff_of_false hst fun hnone => h (hheld.mpr (hoccupant ▸ hnone))) hgap

theorem State.enterPocket_keeps (s : State) (p : PieceNo) : Keeps s (s.enterPocket p) := by
  unfold State.enterPocket
  split
  · next h => exact State.setPocket_keeps _ _ (by simp [h.1]) (by simp) rfl rfl
  · exact .refl s

theorem State.startDwell_keeps {s : State} (h : s.pocket.state ≠ .empty) : Keeps s s.startDwell :=
  State.setPocket_keeps _ _ h (by simp) rfl rfl

theorem State.completeIntake_keeps (s : State) : Keeps s s.completeIntake := by
  unfold State.completeIntake
  split
  · next h =>
    refine State.startDwell_keeps fun hempty => ?_
    simp [State.intakeDone, hempty] at h
  · exact .refl s

theorem State.pocketUncovered_keeps (s : State) : Keeps s s.pocketUncovered := by
  have hclear : Keeps s { s with pocket := { s.pocket with cellClear := true } } := .of_pocketCounts s _ rfl rfl rfl rfl
  unfold State.pocketUncovered
  split
  · next h =>
    refine hclear.trans (State.startDwell_keeps ?_)
    simp [h]
  · exact hclear
  · exact hclear
  · refine Keeps.trans ?_ (State.drainTest_keeps _)
    exact .of_pocket _ rfl (fun _ => iff_of_true rfl rfl) rfl
  · exact .refl s
  · exact .refl s

theorem State.endDwell_keeps {s : State} (h : s.pocket.state = .dwell) : Keeps s s.endDwell :=
  ((State.setPocket_keeps (s := s) _ _ (by simp [h]) (by simp) (by rfl) (by rfl)).trans (State.setMergeGap_keeps _ false)).trans
    (State.mergeTest_keeps _ none)

theorem State.endHold_keeps (s : State) : Keeps s s.endHold := by
  have hstopped : Keeps s { s with pocket := { s.pocket with holdTimer := none } } := .of_pocketCounts s _ rfl rfl rfl rfl
  simp only [State.endHold]
  split
  · exact hstopped
  · exact (hstopped.trans (State.raiseMergeGap_keeps _)).trans (State.mergeTest_keeps _ _)

/-! ## The MERGE arrival and the completion (R95 to R119) -/

theorem State.planImpression_keeps (s : State) (p : PieceNo) : Keeps s (s.planImpression p) := by
  simp only [State.planImpression]
  split
  · exact .refl s
  · split
    · exact .refl s
    · split
      · exact s.updateRecord_keeps _ _
      · refine Keeps.trans (Keeps.trans ?_ (State.updateRecord_keeps _ _ _)) (State.insertEntry_keeps _ _)
        exact Keeps.ite (.refl s) ((s.updateRecord_keeps _ _).trans (State.countEvent_keeps _ _))

/-- A change of the router that leaves the END full level keeps every law. -/
theorem Keeps.of_router (s : State) (r : Router) (h : r.endFull = s.router.endFull) : Keeps s { s with router := r } where
  owners := by simp [ownersFollowed, h]
  feed := feedFollows_of_same rfl rfl rfl rfl h

/-- The destination chosen at a MERGE arrival written down: DIVERTED where it is not the route's primary, the piece last routed, and
the record's destination (R112, R113). -/
def State.routeWritten (s : State) (p : PieceNo) (r : Record) (d : Dest) : State :=
  let t := if d = (routeOf s.plan r).primary then s
    else (s.updateRecord p (fun x => { x with flags := { x.flags with diverted := true } })).countEvent .diverted
  let t := { t with router := { t.router with lastRouted := some (p, d) } }
  t.updateRecord p (fun x => { x with destination := some d })

/-- The router's act is to write the destination down and, for a stacker, to insert its gate (R112 to R114). -/
theorem State.routePiece_of_record {s : State} {p : PieceNo} {r : Record} (h : s.record? p = some r) :
    s.routePiece p = match s.destFor r with
      | .stk k => (s.routeWritten p r (s.destFor r)).insertGate (.stk k) p r.lead
          ((s.routeWritten p r (s.destFor r)).plan.stackerDistance k - (s.routeWritten p r (s.destFor r)).plan.dMerge)
          r.lengthOrOpen
      | .endCatch => s.routeWritten p r (s.destFor r) := by
  rw [State.routePiece, h]
  rfl

theorem State.routeWritten_keeps (s : State) (p : PieceNo) (r : Record) (d : Dest) : Keeps s (s.routeWritten p r d) := by
  refine Keeps.trans (Keeps.trans ?_ (Keeps.of_router _ _ (by rfl))) (State.updateRecord_keeps _ _ _)
  split
  · exact .refl s
  · exact (s.updateRecord_keeps _ _).trans (State.countEvent_keeps _ _)

theorem State.routePiece_keeps (s : State) (p : PieceNo) : Keeps s (s.routePiece p) := by
  cases h : s.record? p with
  | none => rw [State.routePiece, h]; exact .refl s
  | some r =>
    rw [State.routePiece_of_record h]
    split
    · exact (s.routeWritten_keeps _ _ _).trans (State.insertGate_keeps _ _ _ _ _ _)
    · exact s.routeWritten_keeps _ _ _

theorem State.completePiece_keeps (s : State) (p : PieceNo) : Keeps s (s.completePiece p) :=
  ((s.endPiece_keeps _ _).trans (State.recomputeFeed_keeps _)).trans (State.drainTest_keeps _)

/-! ## Covers and uncovers (R3 to R19) -/

theorem State.occupy_keeps (s : State) (c : Cell) (p : PieceNo) (at' : Pos) : Keeps s (s.occupy c p at') := by
  have h : Keeps s ((s.setOccupant c (some (.piece p))).updateRecord p (fun r => { r with lastCell := c })) :=
    (s.setCell_keeps _ _).trans (State.updateRecord_keeps _ _ _)
  simp only [State.occupy]
  split
  · exact h
  · exact h.trans (State.insertEntry_keeps _ _)

theorem State.switchSlot_keeps (s : State) : Keeps s s.switchSlot := by
  unfold State.switchSlot
  split
  · exact {}
  · exact .refl s

theorem State.shortGapTest_keeps (s : State) (p : PieceNo) (previous : Option PieceNo) :
    Keeps s (s.shortGapTest p previous) := by
  simp only [State.shortGapTest]
  split
  · split
    · exact ((s.updateRecord_keeps _ _).trans (State.updateRecord_keeps _ _ _)).trans (State.updateRecord_keeps _ _ _)
    · exact s.updateRecord_keeps _ _
  · exact .refl s

/-- An admission up to the recomputation of the feed: the record opened, the piece at ENTRY and expected at SCAN (R14). -/
def State.admitted (s : State) (at' : Pos) : State :=
  let p := s.admission.nextPiece
  let t := ((s.switchSlot).openRecord at').shortGapTest p s.undecidedPrevious
  (t.occupy .entry p at').expect p .scan (posAdd at' t.plan.dScan)

theorem State.admitPiece_eq (s : State) (at' : Pos) : s.admitPiece at' = (s.admitted at').recomputeFeed.mergeTest none := rfl

/-- An admission made where the admission test passes keeps every law (R14). -/
theorem State.admitPiece_keeps {s : State} (h : s.canAdmit = true) (at' : Pos) : Keeps s (s.admitPiece at') := by
  have hopen : Keeps (s.switchSlot.openRecord at') (s.admitted at') :=
    ((State.shortGapTest_keeps _ _ _).trans (State.occupy_keeps _ _ _ _)).trans (State.expect_keeps _ _ _ _)
  have hend : Keeps (s.admitted at').recomputeFeed (s.admitPiece at') := by
    rw [State.admitPiece_eq]
    exact State.mergeTest_keeps _ _
  have hrest := (hopen.trans (State.recomputeFeed_keeps _)).trans hend
  exact {
    jam := fun hj => hrest.jam (s.switchSlot_keeps.jam hj)
    room := fun _ => hrest.room (by
      simp only [State.canAdmit, Bool.and_eq_true, decide_eq_true_eq] at h
      simpa [roomKept, State.openRecord, Nat.succ_le_iff, ← Nat.add_assoc] using h)
    owners := fun ho => hrest.owners (s.switchSlot_keeps.owners ho)
    feed := fun hf => hend.feed (State.recomputeFeed_follows
      (hopen.owners (s.switchSlot_keeps.owners ⟨hf.2.2.2.1, hf.2.2.2.2.1⟩)))
    ramp := fun hr => hrest.ramp (s.switchSlot_keeps.ramp hr)
    tally := fun ht => hrest.tally (s.switchSlot_keeps.tally ht)
    memory := fun hm => hrest.memory (s.switchSlot_keeps.memory hm)
    seen := fun hs => hrest.seen (s.switchSlot_keeps.seen hs)
    request := fun hq => hrest.request (s.switchSlot_keeps.request hq)
    latch := fun hl => hrest.latch (s.switchSlot_keeps.latch hl) }

theorem State.setOccupant_keeps (s : State) (c : Cell) (o : Option Occupant) : Keeps s (s.setOccupant c o) :=
  s.setCell_keeps _ _

/-- The culling, at an untracked piece's cover, of a previous piece followed at a short gap (R18). -/
def State.cullPrevious (s : State) : State :=
  match s.gapIsShort, s.undecidedPrevious with
  | true, some q => s.updateRecord q (fun r => r.cull .shortGap)
  | _, _ => s

theorem State.letThrough_eq (s : State) (at' : Pos) :
    s.letThrough at' =
      let t := (s.countEvent .untracked).cullPrevious.setOccupant .entry (some .untracked)
      if t.untrackedCount < 8 then t.expectUntracked .scan (posAdd at' t.plan.dScan) else t := rfl

theorem State.cullPrevious_keeps (s : State) : Keeps s s.cullPrevious := by
  unfold State.cullPrevious
  split
  · exact s.updateRecord_keeps _ _
  · exact .refl s

theorem State.letThrough_keeps (s : State) (at' : Pos) : Keeps s (s.letThrough at') := by
  rw [State.letThrough_eq]
  exact (((s.countEvent_keeps _).trans (State.cullPrevious_keeps _)).trans (State.setOccupant_keeps _ _ _)).ite
    (State.expectUntracked_keeps _ _ _)

theorem State.entryCover_keeps (s : State) (at' : Pos) : Keeps s (s.entryCover at') := by
  unfold State.entryCover
  split
  · next h => exact State.admitPiece_keeps h at'
  · exact s.letThrough_keeps at'

theorem State.entryUncover_keeps (s : State) (at' : Pos) (o : Option Occupant) : Keeps s (s.entryUncover at' o) := by
  refine Keeps.trans ?_ (Keeps.of_admission _ _)
  split
  · exact s.updateRecord_keeps _ _
  all_goals exact .refl s

theorem State.matchUntracked_keeps (s : State) (c : Cell) (at' : Pos) : Keeps s (s.matchUntracked c at') := by
  simp only [State.matchUntracked]
  split
  · exact (s.setOccupant_keeps _ _).trans (State.expectUntracked_keeps _ _ _)
  · exact s.setOccupant_keeps _ _

theorem State.handCover_keeps (s : State) (c : Cell) (p : PieceNo) (at' : Pos) : Keeps s (s.handCover c p at') := by
  unfold State.handCover
  split
  · exact .of_scan s _
  · exact s.enterPocket_keeps p
  · exact ((s.planImpression_keeps p).trans (State.routePiece_keeps _ p)).trans (State.expect_keeps _ _ _ _)
  · unfold State.cancelArrival
    split
    · exact .refl s
    · split
      · exact s.expect_keeps _ _ _
      · exact .refl s
  all_goals exact .refl s

theorem State.matchTracked_keeps (s : State) (c : Cell) (p : PieceNo) (at' : Pos) : Keeps s (s.matchTracked c p at') :=
  (((s.dropExpectation_keeps p).trans (State.updateRecord_keeps _ _ _)).trans (State.occupy_keeps _ _ _ _)).ite
    (State.handCover_keeps _ _ _ _)

theorem State.matchCover_keeps (s : State) (c : Cell) (at' : Pos) : Keeps s (s.matchCover c at') := by
  have h := s.setQueue_keeps c (dropStale at' (s.queue c))
  simp only [State.matchCover]
  split
  · exact h.trans (State.trip_keeps _ _ _ _ _)
  · split
    · split
      · exact h.trans (State.matchTracked_keeps _ _ _ _)
      · exact (h.trans (State.setQueue_keeps _ _ _)).trans (State.matchUntracked_keeps _ _ _)
    · exact h.trans (State.trip_keeps _ _ _ _ _)

theorem State.takeBack_keeps (s : State) (at' : Pos) : Keeps s (s.takeBack at') := by
  simp only [State.takeBack]
  split
  · exact (s.occupy_keeps _ _ _).trans (.of_pocketCounts _ _ rfl rfl rfl rfl)
  · exact .refl s

theorem State.handleCover_keeps (s : State) (c : Cell) (at' : Pos) : Keeps s (s.handleCover c at') := by
  unfold State.handleCover
  split
  · exact s.entryCover_keeps at'
  · split
    · exact s.takeBack_keeps at'
    · exact s.matchCover_keeps c at'

theorem State.coverCell_keeps (s : State) (c : Cell) (at' : Pos) : Keeps s (s.coverCell c at') :=
  (s.setCell_keeps _ _).ite (State.handleCover_keeps _ _ _)

theorem State.handUncover_keeps (s : State) (c : Cell) (o : Option Occupant) (at' : Pos) :
    Keeps s (s.handUncover c o at') := by
  unfold State.handUncover
  split
  · exact s.entryUncover_keeps at' _
  · exact s.closeWindow_keeps _ at'
  · exact s.pocketUncovered_keeps
  · exact s.mergePass_keeps _
  · exact s.completePiece_keeps _
  · exact s.completePiece_keeps _
  all_goals exact .refl s

theorem State.handleUncover_keeps (s : State) (c : Cell) (at' : Pos) : Keeps s (s.handleUncover c at') := by
  refine (Keeps.trans ?_ (State.handUncover_keeps _ _ _ _)).trans (State.setOccupant_keeps _ _ _)
  split
  · exact s.removeEntries_keeps _ _
  all_goals exact .refl s

theorem State.closeAhead_keeps (s : State) (c : Cell) : Keeps s (s.closeAhead c) :=
  (Keeps.refl s).ite s.forceClose_keeps

theorem State.uncoverCell_keeps (s : State) (c : Cell) : Keeps s (s.uncoverCell c) :=
  ((s.closeAhead_keeps c).trans (State.setCell_keeps _ _ _)).ite (State.handleUncover_keeps _ _ _)

/-! ## Belt travel (R1, R57 to R60) -/

theorem State.settle_keeps (s : State) : Keeps s s.settle :=
  (((s.takeAllDue_keeps _).trans (State.forceClose_keeps _)).trans (State.completeIntake_keeps _)).trans
    (State.endCrawl_keeps _)

theorem State.countStep_keeps (s : State) (x : SampleSet) : Keeps s (s.countStep x) :=
  Keeps.trans (t := { s with position := s.position + 1, lastStep := s.now, samples := x }) {}
    (.of_printer _ fun hjam hl => ⟨(hjam.2 hl).2.2.1, rfl⟩)

theorem State.entriesAhead_keeps (s : State) (order : StepOrder) : Keeps s (s.entriesAhead order) := by
  cases order with
  | stepFirst => exact .refl s
  | entriesFirst => exact s.takeAllDue_keeps _

theorem State.countIntake_keeps (s : State) : Keeps s s.countIntake := by
  unfold State.countIntake
  split
  · exact .of_pocketCounts s _ rfl rfl rfl rfl
  · exact .refl s

theorem State.printStep_keeps (s : State) : Keeps s s.printStep := by
  unfold State.printStep
  split
  · next j hj =>
    refine (Keeps.refl s).ite (State.fireColumn_keeps (fun hjam => ?_) j)
    by_contra hl
    simp [(hjam.2 (by simpa using hl)).2.2.1] at hj
  · exact .refl s

theorem State.countCrawl_keeps (s : State) : Keeps s s.countCrawl := by
  unfold State.countCrawl
  split
  · exact .of_protect s _ rfl
  · exact .refl s

theorem State.handStep_keeps (s : State) : Keeps s s.handStep :=
  ((((s.takeSet_keeps.trans (.of_admission _ _)).trans (State.countIntake_keeps _)).trans (State.printStep_keeps _)).trans
    (.of_drive _ _ (by rfl) (by rfl) (by rfl))).trans (State.countCrawl_keeps _)

theorem State.takeDueIf_keeps (s : State) (test : EntryKind → Bool) : Keeps s (s.takeDueIf test) := by
  unfold State.takeDueIf
  split
  · exact (Keeps.refl s).ite s.takeDue_keeps
  · exact .refl s

end Sys2Proof.Machine

/-! PROOFS. That the requests, the parts of a page scan and the port keep the laws (R90 to R109, R126 to R179). -/

namespace Sys2Proof.Machine

open Sys2Proof.Safety

/-! ## Requests (R90 to R109, R148 to R174) -/

/-- An act left out, or made. -/
theorem Keeps.unless {s t u : State} {c : Prop} [Decidable c] (h : Keeps s t) (h' : Keeps t u) :
    Keeps s (if c then t else u) := by
  split
  · exact h
  · exact h.trans h'

theorem State.onRequest_keeps {decision : State → State} (h : ∀ t, Keeps t (decision t)) (s : State) (cell : Fin 8) :
    Keeps s (s.onRequest cell decision) :=
  (Keeps.refl s).ite ((s.takeCell_keeps cell).trans (h _))

/-- A valid plan loaded keeps every law. -/
theorem Keeps.of_plan (s : State) (pl : Plan) : Keeps s { s with plan := pl, planValid := true } where
  request := fun h => ⟨h.1, fun _ => rfl⟩

theorem State.decideLoadPlan_keeps (s : State) (cell : Fin 8) (tag : Word) : Keeps s (s.decideLoadPlan cell tag) := by
  unfold State.decideLoadPlan
  split
  · exact s.completeRequest_keeps _ _ _ _
  · split
    · exact s.completeRequest_keeps _ _ _ _
    · exact ((Keeps.of_plan s _).trans (State.completeRequest_keeps _ _ _ _ _)).trans (State.remeasureStill_keeps _)

/-- A change of the printer's slots and banks keeps every law. -/
theorem Keeps.of_images (s : State) (p : Printer) (hjob : p.job = s.printer.job) (hhead : p.head = s.printer.head) :
    Keeps s { s with printer := p } :=
  .of_printer p fun hjam hl => by
    obtain ⟨-, -, hnone, hdark, -⟩ := hjam.2 hl
    exact ⟨hjob.trans hnone, hhead.trans hdark⟩

theorem State.loadSlot_keeps (s : State) (i : Fin 2) (columns : List Word) : Keeps s (s.loadSlot i columns) :=
  (Keeps.of_images s _ (by rfl) (by rfl)).unless (.of_images _ _ (by rfl) (by rfl))

theorem State.decideSetImpression_keeps (s : State) (cell : Fin 8) (tag slot columns : Word) :
    Keeps s (s.decideSetImpression cell tag slot columns) := by
  simp only [State.decideSetImpression]
  split
  · exact s.completeRequest_keeps _ _ _ _
  · split
    · exact s.completeRequest_keeps _ _ _ _
    · split
      · exact s.completeRequest_keeps _ _ _ _
      · exact (s.loadSlot_keeps _ _).trans (State.completeRequest_keeps _ _ _ _ _)

theorem State.decideLoadKiller_keeps (s : State) (cell : Fin 8) (tag bank columns : Word) :
    Keeps s (s.decideLoadKiller cell tag bank columns) := by
  unfold State.decideLoadKiller
  split
  · exact s.completeRequest_keeps _ _ _ _
  · split
    · exact s.completeRequest_keeps _ _ _ _
    · exact (Keeps.of_images s _ (by rfl) (by rfl)).trans (State.completeRequest_keeps _ _ _ _ _)

theorem State.decideSetStacker_keeps (s : State) (cell : Fin 8) (tag stacker service : Word) :
    Keeps s (s.decideSetStacker cell tag stacker service) := by
  simp only [State.decideSetStacker]
  split
  · exact s.completeRequest_keeps _ _ _ _
  · exact (Keeps.of_router s _ (by rfl)).trans (State.completeRequest_keeps _ _ _ _ _)

/-- Counters that all stand at 0 balance (R152). -/
theorem tallyBalances_of_zero {s : State} (h : s.tally.pieces = Vector.replicate 29 0) : tallyBalances s := by
  have hzero : ∀ i : Fin 29, s.tally.pieces.get i = 0 := fun i => by simp [h, Vector.get]
  have hsum : ∀ g : List PieceCounter, pieceSum s g = 0 := fun g => by
    induction g with
    | nil => rfl
    | cons c g ih =>
      simp only [pieceSum, hzero, List.map_cons, List.foldr_cons] at ih ⊢
      rw [ih]
      rfl
  exact fun g _ => (hsum g).trans (hzero _).symm

theorem State.writeTallyArea_keeps (s : State) (clear : Word) : Keeps s (s.writeTallyArea clear) :=
  (s.storeWords_keeps _ _).trans (State.storeWords_keeps _ _ _)

/-- Every counter zeroed keeps every law. -/
theorem Keeps.of_zero (s : State) (n : BitVec 16) : Keeps s { s with tally := { Tally.zero with snapshot := n } } where
  tally := fun _ => tallyBalances_of_zero rfl

theorem State.decideSnapshot_keeps (s : State) (cell : Fin 8) (tag clear : Word) :
    Keeps s (s.decideSnapshot cell tag clear) := by
  simp only [State.decideSnapshot]
  split
  · exact s.completeRequest_keeps _ _ _ _
  · exact (((Keeps.of_tally s _ (by rfl)).trans (State.writeTallyArea_keeps _ _)).ite (.of_zero _ _)).trans
      (State.completeRequest_keeps _ _ _ _ _)

theorem State.decideCloseTray_keeps (s : State) (cell : Fin 8) (tag : Word) : Keeps s (s.decideCloseTray cell tag) := by
  unfold State.decideCloseTray
  split
  · exact s.completeRequest_keeps _ _ _ _
  · exact ((s.closeTray_keeps _).trans (State.completeRequest_keeps _ _ _ _ _)).trans (State.fileReports_keeps _)

theorem State.purgePiece_keeps (s : State) (p : PieceNo) : Keeps s (s.purgePiece p) :=
  ((Keeps.refl s).ite (s.updateRecord_keeps _ _)).trans (State.endPiece_keeps _ _ _)

theorem State.purgeAll_keeps (s : State) : Keeps s s.purgeAll :=
  Keeps.foldl (f := fun t (r : Record) => t.purgePiece r.number) (fun t _ => t.purgePiece_keeps _) _ s

/-- The latch cleared and the run back in IDLE keep every law but that of the pending request (R150). -/
theorem State.clearLatch_setIdle_keepsLaws (s : State) : KeepsLaws s (s.clearLatch.setRunState .idle) where
  jam := fun ⟨_, _, hheld⟩ => ⟨⟨by simp [State.clearLatch], by simp [State.clearLatch]⟩, rfl, hheld⟩
  feed := fun hf => State.recomputeFeed_follows ⟨hf.2.2.2.1, hf.2.2.2.2.1⟩

theorem State.purge_keepsUnlatched (s : State) : KeepsUnlatched s s.purge where
  toKeepsLaws := ((s.purgeAll_keeps.laws.trans (State.clearLatch_setIdle_keepsLaws _)).trans
    (State.settleIdle_keepsLaws _ _ _)).trans (State.storeWord_keeps _ _ _).laws
  request := fun _ => requestFits_of_idle (by simp [State.purge]) (by simp [State.purge])

theorem State.decideClearJam_keepsUnlatched (s : State) (cell : Fin 8) (tag : Word) :
    KeepsUnlatched s (s.decideClearJam cell tag) := by
  have hanswer : ∀ r value, KeepsUnlatched s (s.completeRequest cell tag r value) := fun r value =>
    (s.completeRequest_keeps cell tag r value).toKeepsUnlatched
  unfold State.decideClearJam
  split
  · exact hanswer _ _
  · split
    · exact hanswer _ _
    · split
      · exact hanswer _ _
      · exact (s.writeRecordIfDue_keeps.toKeepsUnlatched.trans (State.purge_keepsUnlatched _)).trans
          (State.completeRequest_keeps _ _ _ _ _).toKeepsUnlatched

/-! ## The page scan (R170) -/

theorem State.scanTrays_keeps (s : State) : Keeps s s.scanTrays :=
  ((Keeps.refl s).ite (s.closeTray_keeps _)).trans (State.searchAndFile_keeps _)

/-- A request that is no CLEAR JAM keeps every law and the latch. -/
theorem State.decideRequest_keeps (s : State) {q : Request} (h : q.kind.toNat ≠ 10) : Keeps s (s.decideRequest q) := by
  refine State.onRequest_keeps (fun t => ?_) s _
  split
  · exact t.decideLoadPlan_keeps _ _
  · exact t.decideStart_keeps _ _
  · exact t.decideDrain_keeps _ _
  · exact t.decideStop_keeps _ _
  · exact t.decideSetImpression_keeps _ _ _ _
  · exact t.decideLoadKiller_keeps _ _ _ _
  · exact t.decideSetStacker_keeps _ _ _ _
  · exact t.decideSnapshot_keeps _ _ _
  · exact t.decideCloseTray_keeps _ _
  · next h10 => exact absurd h10 h
  · exact t.completeRequest_keeps _ _ _ _

theorem State.onClearJam_keepsUnlatched (s : State) (cell : Fin 8) (tag : Word) :
    KeepsUnlatched s (s.onRequest cell (fun t => t.decideClearJam cell tag)) := by
  unfold State.onRequest
  split
  · exact (s.takeCell_keeps cell).toKeepsUnlatched.trans (State.decideClearJam_keepsUnlatched _ _ _)
  · exact (Keeps.refl s).toKeepsUnlatched

theorem State.decideRequest_of_clearJam (s : State) {q : Request} (h : q.kind.toNat = 10) :
    s.decideRequest q = s.onRequest q.cell (fun t => t.decideClearJam q.cell q.tag) := by
  unfold State.decideRequest
  rw [h]
  rfl

theorem State.decideRequest_keepsUnlatched (s : State) (q : Request) : KeepsUnlatched s (s.decideRequest q) := by
  by_cases h : q.kind.toNat = 10
  · rw [s.decideRequest_of_clearJam h]
    exact s.onClearJam_keepsUnlatched _ _
  · exact (s.decideRequest_keeps h).toKeepsUnlatched

theorem State.scanPart_keepsUnlatched (s : State) (p : ScanPart) : KeepsUnlatched s (s.scanPart p) := by
  cases p with
  | status => exact (s.storeWords_keeps _ _).toKeepsUnlatched
  | jamRecord => exact (s.writeRecordIfDue_keeps.trans (State.rewriteRecordIfDue_keeps _)).toKeepsUnlatched
  | trays => exact s.scanTrays_keeps.toKeepsUnlatched
  | cell i =>
    simp only [State.scanPart, State.scanCell]
    split
    · exact s.decideRequest_keepsUnlatched _
    · exact (Keeps.refl s).toKeepsUnlatched

/-- A change of the port that leaves its causes and seen marks keeps every law but that of the port. -/
theorem Keeps.of_port (s : State) (p : PageInterface) (hcauses : p.causes = s.port.causes) (hseen : p.seen = s.port.seen) :
    Keeps s { s with port := p } where
  seen := by simp [seenOnlySet, hcauses, hseen]

theorem State.workScan_keepsUnlatched (n : Nat) (s : State) : KeepsUnlatched s (s.workScan n) := by
  induction n generalizing s with
  | zero => exact (Keeps.refl s).toKeepsUnlatched
  | succ n ih =>
    unfold State.workScan
    split
    · exact (Keeps.refl s).toKeepsUnlatched
    · exact ((Keeps.of_port s _ (by rfl) (by rfl)).toKeepsUnlatched.trans (State.scanPart_keepsUnlatched _ _)).trans (ih _)

theorem State.applyStores_keeps (s : State) (l : List LineStore) : Keeps s (s.applyStores l) :=
  Keeps.foldl (f := fun t (x : LineStore) => t.storeWord x.addr x.value) (fun t _ => t.storeWord_keeps _ _) l s

theorem State.beginScan_keeps (s : State) : Keeps s s.beginScan := .of_port s _ rfl rfl

/-! ## The register port and the resets (R168, R169, R175, R176) -/

/-- A reset leaves every law to hold. -/
theorem State.resetBlocks_keepsUnlatched (s : State) : KeepsUnlatched s s.resetBlocks where
  jam := fun _ => ⟨⟨by simp [State.resetBlocks, State.reset], by simp [State.resetBlocks, State.reset]⟩, rfl,
    iff_of_true rfl rfl⟩
  room := fun _ => ⟨Nat.zero_le _, Nat.zero_le _⟩
  owners := fun _ => ⟨rfl, rfl⟩
  feed := fun _ => ⟨rfl, rfl, rfl, rfl, rfl, rfl⟩
  ramp := fun _ => ⟨fun _ => rfl, fun _ => rfl⟩
  tally := fun _ => tallyBalances_of_zero rfl
  memory := fun h => h
  seen := fun _ c _ => by cases c <;> simp [State.resetBlocks, State.reset, PerCause.all, PerCause.get]
  request := fun _ => requestFits_of_idle rfl rfl

theorem State.controlReset_keepsUnlatched (s : State) : KeepsUnlatched s s.controlReset :=
  s.resetBlocks_keepsUnlatched.trans (Keeps.of_port _ _ (by rfl) (by rfl)).toKeepsUnlatched

theorem State.writeScanTap_keeps (s : State) (tap : BitVec 3) : Keeps s (s.writeScanTap tap) :=
  (Keeps.refl s).ite (.of_port s _ (by rfl) (by rfl))

theorem State.enablePort_keeps (s : State) : Keeps s s.enablePort :=
  (Keeps.refl s).unless ((Keeps.of_port s _ (by rfl) (by rfl)).ite (State.fileReports_keeps _))

theorem State.disablePort_keepsUnlatched (s : State) : KeepsUnlatched s s.disablePort := by
  simp only [State.disablePort]
  split
  · exact (Keeps.refl s).toKeepsUnlatched
  · split
    · exact State.workScan_keepsUnlatched _ s
    · exact (State.workScan_keepsUnlatched _ s).trans (Keeps.of_port _ _ (by rfl) (by rfl)).toKeepsUnlatched

theorem State.writeControl_keepsUnlatched (s : State) (v : Word) : KeepsUnlatched s (s.writeControl v) := by
  simp only [State.writeControl]
  split
  · exact s.controlReset_keepsUnlatched
  · split
    · exact ((s.writeScanTap_keeps _).trans (State.enablePort_keeps _)).toKeepsUnlatched
    · exact (s.writeScanTap_keeps _).toKeepsUnlatched.trans (State.disablePort_keepsUnlatched _)

theorem State.readAttention_keeps (s : State) : Keeps s s.readAttention where
  seen := fun h c hc => by
    rw [State.readAttention_seen_get]
    intro hs
    rcases (Bool.or_eq_true _ _).mp hs with hs | hs
    · exact h c hc hs
    · exact hs

theorem State.writeAttention_keeps (s : State) (v : Word) : Keeps s (s.writeAttention v) where
  seen := fun h c hc => by
    rw [State.writeAttention_seen_get, State.writeAttention_causes_get]
    intro hs
    obtain ⟨hseen, hkept⟩ := (Bool.and_eq_true _ _).mp hs
    have hcause := h c hc hseen
    rw [hcause, Bool.and_true] at hkept
    simpa [hcause, hseen] using hkept

end Sys2Proof.Machine

/-! PROOFS. That every command keeps the laws, and every step (R14, R121, R125, R135, R136, R152). -/

namespace Sys2Proof.Machine

open Sys2Proof.Safety

/-! ## Every command, and the step -/

/-- The commands that can clear a set latch: the resets and the writes of CONTROL, CLEAR JAM, and the page scan that can take one
(R141, R148, R169). -/
def freesLatch : Instr → Bool
  | .resetInput | .controlReset | .setEnable _ | .clearEnable _ | .scanTap _ | .pageScan _ | .clearJam _ _ => true
  | _ => false

theorem Keeps.of_next {s t u : State} (hk : Keeps s u)
    (h : (Host.Outcome.next u : Host.Outcome State Fault Refusal) = .next t) : Keeps s t :=
  Host.Outcome.next.inj h ▸ hk

theorem KeepsUnlatched.of_next {s t u : State} (hk : KeepsUnlatched s u)
    (h : (Host.Outcome.next u : Host.Outcome State Fault Refusal) = .next t) : KeepsUnlatched s t :=
  Host.Outcome.next.inj h ▸ hk

/-- An expiry with its timer running is taken at its time; with its timer stopped there is none (log entry 7). -/
theorem Keeps.of_expiry {s t : State} {timer : Timer} {act : Nat → State} (hact : ∀ d, Keeps s (act d))
    (h : (match timer with
      | none => Host.Outcome.next s
      | some d => .next (act d) : Host.Outcome State Fault Refusal) = .next t) : Keeps s t := by
  cases timer with
  | none => exact (Keeps.refl s).of_next h
  | some d => exact (hact d).of_next h

theorem execRampTick_keeps {s t : State} {report : ReportTime} (h : execRampTick s report = .next t) : Keeps s t := by
  unfold execRampTick at h
  have htick : ∀ d, Keeps s (s.reachTime d).tickRamp := fun d => (s.reachTime_keeps d).trans (State.tickRamp_keeps _)
  split at h
  · exact s.takeReport_keeps.of_next h
  · split at h
    · exact (Keeps.refl s).of_next h
    · split at h
      · exact ((htick _).trans (State.takeReport_keeps _)).of_next h
      · exact (htick _).of_next h

theorem execTrayAgeExpiry_keeps {s t : State} (h : execTrayAgeExpiry s = .next t) : Keeps s t := by
  simp only [execTrayAgeExpiry] at h
  split at h
  · exact (Keeps.refl s).of_next h
  · have htime : ∀ d, Keeps s { s.reachTime d with reports := { (s.reachTime d).reports with ageTimer := none } } :=
      fun d => (s.reachTime_keeps d).trans (.of_reports _ _ rfl)
    split at h
    · exact (((htime _).trans (State.closeTray_keeps _ _)).trans (State.fileReports_keeps _)).of_next h
    · exact ((htime _).trans (.of_reports _ _ (by rfl))).of_next h

/-- Every command but those that can free a latch keeps every law and the latch. -/
theorem exec_keeps {c : Instr} (hc : freesLatch c = false) {s t : State} (h : exec c s = .next t) : Keeps s t := by
  cases c with
  | resetInput | controlReset | setEnable | clearEnable | scanTap | pageScan | clearJam => simp [freesLatch] at hc
  | pageAddressWrite v => exact ((Keeps.refl s).unless (.of_port s _ (by rfl) (by rfl))).of_next h
  | attentionMaskWrite v => exact (Keeps.of_port s _ (by rfl) (by rfl)).of_next h
  | attentionRead => exact s.readAttention_keeps.of_next h
  | attentionWrite v => exact (s.writeAttention_keeps v).of_next h
  | forwardStep x =>
    exact (((s.settle_keeps.trans (State.countStep_keeps _ _)).trans (State.entriesAhead_keeps _ _)).trans
      (State.handStep_keeps _)).of_next h
  | reverseStep => exact (Keeps.refl s).of_next h
  | cover x => exact ((Keeps.refl s).unless (s.coverCell_keeps _ _)).of_next h
  | uncover c => exact ((Keeps.refl s).ite (s.uncoverCell_keeps c)).of_next h
  | guardOpening => exact ((Keeps.refl s).unless s.openGuard_keeps).of_next h
  | guardClosing => exact (Keeps.of_protect s _ (by rfl)).of_next h
  | fullInputChange d level =>
    cases d with
    | stk k => exact (Keeps.of_router s _ (by rfl)).of_next h
    | endCatch => exact (s.setEndFull_keeps level).of_next h
  | rampTick report => exact execRampTick_keeps h
  | stillTimerExpiry => exact Keeps.of_expiry (fun d => (s.reachTime_keeps d).trans (State.beStill_keeps _)) h
  | dwellTimerExpiry =>
    refine Keeps.of_expiry (act := fun d => if s.pocket.state = .dwell then (s.reachTime d).endDwell else s) (fun d => ?_) h
    split
    · next hd => exact (s.reachTime_keeps d).trans (State.endDwell_keeps hd)
    · exact .refl s
  | holdTimerExpiry =>
    exact Keeps.of_expiry (act := fun d => if s.pocket.state = .waiting then (s.reachTime d).endHold else s)
      (fun d => (Keeps.refl s).ite ((s.reachTime_keeps d).trans (State.endHold_keeps _))) h
  | trayAgeExpiry => exact execTrayAgeExpiry_keeps h
  | intakeComplete => exact s.completeIntake_keeps.of_next h
  | forcedClose => exact s.forceClose_keeps.of_next h
  | crawlEnd => exact s.endCrawl_keeps.of_next h
  | gateOpen | gateClose | printStart | cellDeadline | overstay => exact (s.takeDueIf_keeps _).of_next h
  | moveReports => exact s.fileReports_keeps.of_next h
  | loadPlan cell tag => exact (State.onRequest_keeps (fun t => t.decideLoadPlan_keeps _ _) s cell).of_next h
  | start cell tag => exact (State.onRequest_keeps (fun t => t.decideStart_keeps _ _) s cell).of_next h
  | drain cell tag => exact (State.onRequest_keeps (fun t => t.decideDrain_keeps _ _) s cell).of_next h
  | stop cell tag => exact (State.onRequest_keeps (fun t => t.decideStop_keeps _ _) s cell).of_next h
  | setImpression cell tag slot columns =>
    exact (State.onRequest_keeps (fun t => t.decideSetImpression_keeps _ _ _ _) s cell).of_next h
  | loadKiller cell tag bank columns =>
    exact (State.onRequest_keeps (fun t => t.decideLoadKiller_keeps _ _ _ _) s cell).of_next h
  | setStacker cell tag stacker service =>
    exact (State.onRequest_keeps (fun t => t.decideSetStacker_keeps _ _ _ _) s cell).of_next h
  | snapshotTallies cell tag clear =>
    exact (State.onRequest_keeps (fun t => t.decideSnapshot_keeps _ _ _) s cell).of_next h
  | closeTray cell tag => exact (State.onRequest_keeps (fun t => t.decideCloseTray_keeps _ _) s cell).of_next h
  | unknownKind cell tag kind =>
    exact (State.onRequest_keeps (fun t => t.completeRequest_keeps _ _ _ _) s cell).of_next h

theorem execPageScan_keepsUnlatched {x : ScanAct} {s t : State} (h : execPageScan x s = .next t) : KeepsUnlatched s t := by
  have hstores := (s.applyStores_keeps x.stores).toKeepsUnlatched
  simp only [execPageScan] at h
  split at h
  · split at h
    · exact hstores.of_next h
    · exact ((hstores.trans ((State.reachTime_keeps _ _).trans (State.beginScan_keeps _)).toKeepsUnlatched).trans
        (State.workScan_keepsUnlatched _ _)).of_next h
  · exact (hstores.trans (State.workScan_keepsUnlatched _ _)).of_next h

/-- Every command keeps every law. -/
theorem exec_keepsUnlatched {c : Instr} {s t : State} (h : exec c s = .next t) : KeepsUnlatched s t := by
  cases hc : freesLatch c with
  | false => exact (exec_keeps hc h).toKeepsUnlatched
  | true =>
    cases c with
    | resetInput => exact s.resetBlocks_keepsUnlatched.of_next h
    | controlReset => exact s.controlReset_keepsUnlatched.of_next h
    | setEnable v | clearEnable v | scanTap v => exact (s.writeControl_keepsUnlatched v).of_next h
    | pageScan x => exact execPageScan_keepsUnlatched h
    | clearJam cell tag => exact (s.onClearJam_keepsUnlatched cell tag).of_next h
    | _ => simp [freesLatch] at hc

/-- With no command waiting the block takes up what is due or its timebase ticks, and every law is kept. -/
theorem State.idleStep_keeps (s : State) : Keeps s s.idleStep := by
  unfold State.idleStep
  split <;> exact {}

/-- Every step keeps every law. -/
theorem step_keepsUnlatched {s t : State} (h : step s = .next t) : KeepsUnlatched s t := by
  unfold step at h
  split at h
  · next c rest _ => exact (Keeps.toKeepsUnlatched (t := { s with pending := rest }) {}).trans (exec_keepsUnlatched h)
  · exact s.idleStep_keeps.toKeepsUnlatched.of_next h

/-- Settles O56: no act of a step adds a piece or a report past the room of R14. -/
theorem stepKeepsRoom : Obligations.StepKeepsRoom := fun _ _ hroom h => (step_keepsUnlatched h).room hroom

/-- Settles O57: every act that changes a cause recomputes the feed. -/
theorem stepKeepsFeedTrue : Obligations.StepKeepsFeedTrue := fun _ _ hfeed h => (step_keepsUnlatched h).feed hfeed

/-- Settles O58: every act that changes the run state, the request, the plan or the drive leaves them fitting. -/
theorem stepKeepsRequestFitting : Obligations.StepKeepsRequestFitting := fun _ _ ⟨hfits, hplan, hramp⟩ h => by
  obtain ⟨hfits', hplan'⟩ := (step_keepsUnlatched h).request ⟨hfits, hplan⟩
  exact ⟨hfits', hplan', (step_keepsUnlatched h).ramp hramp⟩

/-- Settles O59: only reports count in the piece group, each once in every subgroup, and a clear zeroes it whole. -/
theorem stepKeepsTallyBalance : Obligations.StepKeepsTallyBalance := fun _ _ htally h =>
  (step_keepsUnlatched h).tally htally

end Sys2Proof.Machine

/-! PROOFS. That every step keeps the register port in form (R168, R170). -/

namespace Sys2Proof.Machine

open Sys2Proof.Safety

/-- Of `s` and `t`: the items of the port that its laws speak of stand as they were. -/
structure PortStands (s t : State) : Prop where
  scanTimer : t.port.scanTimer = s.port.scanTimer := by simp
  enable : t.port.enable = s.port.enable := by simp
  pageAddress : t.port.pageAddress = s.port.pageAddress := by simp
  scanTap : t.port.scanTap = s.port.scanTap := by simp
  scanLeft : t.port.scanLeft = s.port.scanLeft := by simp

theorem PortStands.portKept {s t : State} (h : PortStands s t) : portKept s → portKept t := by
  simp only [Safety.portKept, h.scanTimer, h.enable, h.pageAddress, h.scanTap, h.scanLeft]
  exact id

theorem PortStands.of_next {s t u : State} (hp : PortStands s u)
    (h : (Host.Outcome.next u : Host.Outcome State Fault Refusal) = .next t) : PortStands s t :=
  Host.Outcome.next.inj h ▸ hp

theorem PortStands.ite {s t u : State} {c : Prop} [Decidable c] (ht : PortStands s t) (hu : PortStands s u) :
    PortStands s (if c then t else u) := by
  split
  · exact ht
  · exact hu

theorem PortStands.of_expiry {s t : State} {timer : Timer} {act : Nat → State} (hact : ∀ d, PortStands s (act d))
    (h : (match timer with
      | none => Host.Outcome.next s
      | some d => .next (act d) : Host.Outcome State Fault Refusal) = .next t) : PortStands s t := by
  cases timer with
  | none => exact PortStands.of_next {} h
  | some d => exact (hact d).of_next h

theorem State.onRequest_portStands {decision : State → State} (h : ∀ t, PortStands t (decision t)) (s : State) (cell : Fin 8) :
    PortStands s (s.onRequest cell decision) := by
  unfold State.onRequest
  split
  · have hd := h (s.takeCell cell)
    exact ⟨by simp [hd.scanTimer], by simp [hd.enable], by simp [hd.pageAddress], by simp [hd.scanTap], by simp [hd.scanLeft]⟩
  · exact {}

theorem execRampTick_portStands {s t : State} {report : ReportTime} (h : execRampTick s report = .next t) : PortStands s t := by
  unfold execRampTick at h
  split at h
  · exact PortStands.of_next {} h
  · split at h
    · exact PortStands.of_next {} h
    · split at h <;> exact PortStands.of_next {} h

theorem execTrayAgeExpiry_portStands {s t : State} (h : execTrayAgeExpiry s = .next t) : PortStands s t := by
  simp only [execTrayAgeExpiry] at h
  split at h
  · exact PortStands.of_next {} h
  · split at h <;> exact PortStands.of_next {} h

/-- A page address is that of a page (R168). -/
theorem pageAddressOf_page (v : Word) : pageAddressOf v &&& 0xFFF#32 = 0 := by
  rw [pageAddressOf, BitVec.and_assoc]
  simp

/-- The commands that change what the laws of the port speak of: the resets, the writes of CONTROL and of PAGE ADDRESS, and the page
scan (R168, R169, R170). -/
def changesPort : Instr → Bool
  | .resetInput | .controlReset | .setEnable _ | .clearEnable _ | .scanTap _ | .pageScan _ | .pageAddressWrite _ => true
  | _ => false

theorem exec_portStands {c : Instr} (hc : changesPort c = false) {s t : State} (h : exec c s = .next t) : PortStands s t := by
  cases c with
  | resetInput | controlReset | setEnable | clearEnable | scanTap | pageScan | pageAddressWrite => simp [changesPort] at hc
  | attentionMaskWrite | attentionRead | attentionWrite | forwardStep | reverseStep | guardClosing | intakeComplete
  | forcedClose | crawlEnd | gateOpen | gateClose | printStart | cellDeadline | overstay | moveReports =>
    exact PortStands.of_next {} h
  | cover | uncover | guardOpening => exact (PortStands.ite {} {}).of_next h
  | fullInputChange d level => cases d <;> exact PortStands.of_next {} h
  | rampTick report => exact execRampTick_portStands h
  | stillTimerExpiry => exact PortStands.of_expiry (fun d => {}) h
  | dwellTimerExpiry =>
    exact PortStands.of_expiry (act := fun d => if s.pocket.state = .dwell then (s.reachTime d).endDwell else s)
      (fun d => .ite {} {}) h
  | holdTimerExpiry =>
    exact PortStands.of_expiry (act := fun d => if s.pocket.state = .waiting then (s.reachTime d).endHold else s)
      (fun d => .ite {} {}) h
  | trayAgeExpiry => exact execTrayAgeExpiry_portStands h
  | loadPlan | start | drain | stop | setImpression | loadKiller | setStacker | snapshotTallies | closeTray | clearJam
  | unknownKind => exact (State.onRequest_portStands (fun t => {}) s _).of_next h

/-! ## The page scan and the writes of the port -/

/-- Parts worked leave those after them still to come. -/
theorem State.workScan_portKept {s : State} (n : Nat) (h : portKept s) : portKept (s.workScan n) := by
  obtain ⟨htimer, hpage, htap, hscan, hleft⟩ := h
  refine ⟨by simpa using htimer, by simpa using hpage, by simpa using htap, ?_, ?_⟩
  · intro hne
    simp only [State.workScan_frame] at hne ⊢
    exact hscan fun hnil => hne (by simp [hnil])
  · simpa using (List.drop_suffix n _).trans hleft

theorem execPageScan_portKept {x : ScanAct} {s t : State} (hs : portKept s) (h : execPageScan x s = .next t) : portKept t := by
  have hstores : portKept (s.applyStores x.stores) := PortStands.portKept {} hs
  simp only [execPageScan] at h
  split at h
  · split at h
    · exact Host.Outcome.next.inj h ▸ hstores
    · next d hd =>
      obtain ⟨htimer, hpage, htap, -, -⟩ := hstores
      have henable : (s.applyStores x.stores).port.enable = true := by rw [← htimer, hd]; rfl
      have hbegun : portKept ((s.applyStores x.stores).reachTime d).beginScan :=
        ⟨henable.symm, hpage, htap, fun _ => henable, List.suffix_rfl⟩
      exact Host.Outcome.next.inj h ▸ State.workScan_portKept _ hbegun
  · exact Host.Outcome.next.inj h ▸ State.workScan_portKept _ hstores

theorem State.resetBlocks_portKept (s : State) : portKept s.resetBlocks := by
  have hpage : s.resetBlocks.port.pageAddress = 0 := rfl
  have htap : s.resetBlocks.port.scanTap = 3 := rfl
  exact ⟨rfl, by simp [hpage], by simp [htap], fun h => absurd rfl h, List.nil_suffix⟩

theorem State.writeScanTap_portKept {s : State} (tap : BitVec 3) (h : portKept s) : portKept (s.writeScanTap tap) := by
  obtain ⟨htimer, hpage, htap, hscan, hleft⟩ := h
  unfold State.writeScanTap
  split
  · next hle => exact ⟨htimer, hpage, hle, hscan, hleft⟩
  · exact ⟨htimer, hpage, htap, hscan, hleft⟩

theorem State.enablePort_portKept {s : State} (h : portKept s) : portKept s.enablePort := by
  have ⟨htimer, hpage, htap, hscan, hleft⟩ := h
  have hset : portKept { s with port := { s.port with
      enable := true, scanTimer := some (s.now + 2 ^ s.port.scanTap.toNat) } } := ⟨rfl, hpage, htap, fun _ => rfl, hleft⟩
  simp only [State.enablePort]
  split
  · exact h
  · split
    · exact PortStands.portKept {} hset
    · exact hset

/-- ENABLE is cleared with no part of a scan still to come: the rest of one in progress has been made first (log entry 34). -/
theorem State.disablePort_portKept {s : State} (h : portKept s) : portKept s.disablePort := by
  have hmade := State.workScan_portKept s.port.scanLeft.length h
  simp only [State.disablePort]
  split
  · exact h
  · split
    · exact hmade
    · obtain ⟨-, hpage, htap, -, hleft⟩ := hmade
      exact ⟨rfl, hpage, htap, fun hne => absurd (by simp) hne, hleft⟩

theorem State.writeControl_portKept {s : State} (v : Word) (h : portKept s) : portKept (s.writeControl v) := by
  simp only [State.writeControl]
  split
  · have ⟨htimer, _, htap, hscan, hleft⟩ := s.resetBlocks_portKept
    exact ⟨htimer, h.2.1, htap, hscan, hleft⟩
  · split
    · exact State.enablePort_portKept (State.writeScanTap_portKept _ h)
    · exact State.disablePort_portKept (State.writeScanTap_portKept _ h)

theorem exec_portKept {c : Instr} {s t : State} (hs : portKept s) (h : exec c s = .next t) : portKept t := by
  cases hc : changesPort c with
  | false => exact (exec_portStands hc h).portKept hs
  | true =>
    cases c with
    | resetInput => exact Host.Outcome.next.inj h ▸ s.resetBlocks_portKept
    | controlReset =>
      obtain ⟨htimer, -, htap, hscan, hleft⟩ := s.resetBlocks_portKept
      exact Host.Outcome.next.inj h ▸ ⟨htimer, hs.2.1, htap, hscan, hleft⟩
    | setEnable v | clearEnable v | scanTap v => exact Host.Outcome.next.inj h ▸ State.writeControl_portKept v hs
    | pageScan x => exact execPageScan_portKept hs h
    | pageAddressWrite v =>
      obtain ⟨htimer, hpage, htap, hscan, hleft⟩ := hs
      refine Host.Outcome.next.inj h ▸ ?_
      split
      · exact ⟨htimer, hpage, htap, hscan, hleft⟩
      · exact ⟨htimer, pageAddressOf_page v, htap, hscan, hleft⟩
    | _ => simp [changesPort] at hc

theorem State.idleStep_port (s : State) : s.idleStep.port = s.port := by
  unfold State.idleStep
  split <;> rfl

/-- Settles O60: the shared acts leave the items of the port alone, and each write of it leaves them in form. -/
theorem stepKeepsPortAndMemory : Obligations.StepKeepsPortAndMemory := fun s t ⟨hmemory, hport, hseen⟩ h => by
  refine ⟨(step_keepsUnlatched h).memory hmemory, ?_, (step_keepsUnlatched h).seen hseen⟩
  unfold step at h
  split at h
  · next c rest _ => exact exec_portKept (s := { s with pending := rest }) hport h
  · rw [← Host.Outcome.next.inj h, portKept, s.idleStep_port]
    exact hport

end Sys2Proof.Machine

/-! PROOFS. The queue, the resets, the register port and the inputs (R1, R110, R135 to R138, R168, R169, R175, R179). -/

namespace Sys2Proof.Machine

open Sys2Proof.Safety

/-! ## The queue and the resets -/

/-- Settles O1. -/
theorem stepRunsFrontCommand : Obligations.StepRunsFrontCommand := fun _ _ => rfl

theorem replicate_get {α : Type} {n : Nat} (x : α) (i : Fin n) : (Vector.replicate n x).get i = x := by
  simp [Vector.get]

theorem State.reset_cell (c : Cell) : State.reset.cell c = clearCell := replicate_get _ _

theorem State.reset_queue (c : Cell) : State.reset.queue c = [] := replicate_get _ _

/-- Settles O2: each item of the reset state is read off; those that stand once per cell, gate, slot or counter are all alike. -/
theorem resetStateValues : Obligations.ResetStateValues := by
  refine ⟨rfl, fun c => ?_, rfl, rfl, rfl, fun sc => by cases sc <;> rfl, rfl, fun g => replicate_get _ _, rfl,
    fun i => replicate_get _ _, fun i => replicate_get _ _, rfl, rfl, rfl, rfl, fun i => replicate_get _ _, rfl, rfl, rfl, rfl, rfl, rfl, rfl,
    rfl, rfl, rfl, rfl, rfl, rfl, rfl, rfl, rfl, rfl, rfl, rfl, rfl, rfl, fun i => replicate_get _ _,
    fun i => replicate_get _ _, rfl, fun i => replicate_get _ _, fun i => replicate_get _ _, rfl, rfl, rfl, rfl, rfl, rfl, rfl, rfl,
    rfl, rfl, rfl, rfl, by decide, rfl, rfl, rfl, rfl, rfl⟩
  rw [State.reset_cell, State.reset_queue]
  exact ⟨rfl, rfl, rfl, rfl⟩

/-- Settles O54: in the reset state the latch is clear, no piece is tracked, no request pending, every counter and the memory empty. -/
theorem lawsHoldAtReset : Obligations.LawsHoldAtReset := by
  refine ⟨⟨by simp [State.reset], by simp [State.reset]⟩, rfl, iff_of_true rfl rfl, ⟨Nat.zero_le _, Nat.zero_le _⟩,
    ⟨rfl, rfl, rfl, rfl, rfl, rfl⟩, rfl, fun h => absurd rfl h, iff_of_true rfl rfl, tallyBalances_of_zero rfl, rfl,
    State.resetBlocks_portKept State.reset, ?_⟩
  intro c _
  cases c <;> simp [State.reset, PerCause.all, PerCause.get]

/-- After a reset a cell keeps its level only, and its queue is empty (R3, R169). -/
theorem State.resetBlocks_cells (s : State) (c : Cell) :
    s.resetBlocks.cell c = ⟨(s.cell c).covered, 0, 0, none⟩ ∧ s.resetBlocks.queue c = [] := by
  constructor
  · simp only [State.resetBlocks, State.cell, Vector.get, Vector.toArray_map, Array.getElem_map, clearCell]
    rfl
  · exact State.reset_queue c

/-- Each row of CONTROL with RESET 0 is a write of its word (R169). -/
theorem exec_writeControl {i : Instr} {v : Word} (hi : i ∈ [Instr.setEnable v, .clearEnable v, .scanTap v]) (s : State) :
    exec i s = .next (s.writeControl v) := by
  simp only [List.mem_cons, List.not_mem_nil, or_false] at hi
  obtain rfl | rfl | rfl := hi <;> rfl

/-- Settles O3: each reset is its row of the port, and a written RESET 1 is CONTROL.RESET whatever else the word holds. -/
theorem resetsRestoreEveryBlock : Obligations.ResetsRestoreEveryBlock := fun s =>
  ⟨⟨s.resetBlocks, rfl, s.resetBlocks_cells, ⟨rfl, rfl, rfl, rfl⟩, rfl⟩,
    ⟨s.controlReset, rfl, ⟨s.resetBlocks_cells, ⟨rfl, rfl, rfl, rfl⟩, rfl⟩, fun v hv => by
      rw [exec_writeControl (v := v) (by simp), exec_writeControl (v := v) (by simp), exec_writeControl (v := v) (by simp), s.writeControl_of_reset hv]
      exact ⟨rfl, rfl, rfl⟩⟩⟩

/-! ## The register port -/

/-- The port with a new SCAN TAP. -/
def State.withTap (s : State) (tap : BitVec 3) : State := { s with port := { s.port with scanTap := tap } }

theorem State.writeScanTap_eq (s : State) (tap : BitVec 3) : s.writeScanTap tap = s.withTap (newTap s tap) := by
  unfold State.writeScanTap newTap
  split <;> rfl

/-- Settles O7: END_FULL is the router's own reason, and the feed is recomputed from the five. -/
theorem inputsAreFollowed : Obligations.InputsAreFollowed := by
  refine fun s => ⟨rfl, rfl, fun k l => ⟨_, rfl, rfl, rfl, get_put_same _ _ _, fun j hj => get_put_other _ _ ?_⟩,
    fun l hfeed => ⟨_, rfl, rfl, ?_, ?_, rfl⟩⟩
  · cases j <;> cases k <;> simp_all [stackerIdx]
  · obtain ⟨hrunning, hmargin, hspace, hgap, -, -⟩ := hfeed
    simp [State.setEndFull, State.recomputeFeed, State.feedHoldNow, hrunning, hmargin, hspace]
  · obtain ⟨-, hmargin, hspace, -, -, -⟩ := hfeed
    cases l <;> simp [State.setEndFull, State.recomputeFeed, State.feedHoldNow, FeedHold.anyStands, hmargin, hspace, and_assoc]

/-! ## Attention -/

theorem State.attentionLine_iff (s : State) : s.attentionLine = true ↔ ∃ c, s.port.showing c = true := by
  simp only [State.attentionLine, List.any_eq_true]
  exact ⟨fun ⟨c, _, h⟩ => ⟨c, h⟩, fun ⟨c, h⟩ => ⟨c, by cases c <;> simp [allCauses], h⟩⟩

theorem allCauses_getElem_causeBit (c : AttentionCause) (h : causeBit c < allCauses.length) : allCauses[causeBit c] = c := by
  cases c <;> rfl

/-- The top-cause code is that of the first cause showing, in the order of the bits (R175). -/
theorem State.topCause_eq_iff (s : State) (c : AttentionCause) :
    s.topCause = causeBit c + 1 ↔
      s.port.showing c = true ∧ ∀ d, causeBit d < causeBit c → s.port.showing d = false := by
  have hfirst : s.topCause = causeBit c + 1 ↔ allCauses.find? s.port.showing = some c := by
    unfold State.topCause
    cases hf : allCauses.find? s.port.showing with
    | none => simp
    | some d => cases c <;> cases d <;> simp [causeBit]
  rw [hfirst, List.find?_eq_some_iff_getElem]
  refine and_congr_right fun _ => ⟨fun ⟨i, hi, hc, hbefore⟩ d hd => ?_, fun hbefore => ?_⟩
  · have hbit : causeBit c = i := by
      have : i < 5 := hi
      rw [← hc]
      interval_cases i <;> rfl
    simpa [allCauses_getElem_causeBit] using hbefore (causeBit d) (hbit ▸ hd)
  · refine ⟨causeBit c, causeBit_lt c, allCauses_getElem_causeBit c _, fun j hj => ?_⟩
    have hj5 : j < 5 := hj.trans (causeBit_lt c)
    have hd : causeBit allCauses[j] = j := by interval_cases j <;> rfl
    rw [Bool.not_eq_true']
    exact hbefore _ (hd.symm ▸ hj)

theorem State.topCause_eq_zero (s : State) : s.topCause = 0 ↔ s.attentionLine = false := by
  rw [State.topCause, State.attentionLine]
  cases hf : allCauses.find? s.port.showing with
  | none => simpa using hf
  | some c => simpa using ⟨c, List.mem_of_find?_eq_some hf, List.find?_some hf⟩

/-- Settles O5: a cause shows while it is set and its bit of the mask is 0. -/
theorem maskGovernsAttention : Obligations.MaskGovernsAttention := fun s v => by
  refine ⟨{ s with port := { s.port with masked := causeBits v } }, rfl, rfl,
    fun c => ⟨get_causeBits v c, ?_⟩, ?_, State.topCause_eq_zero _, fun c => ?_⟩
  · rw [State.maskWord, getLsbD_bitsWord_allCauses, get_causeBits]
  · rw [State.attentionLine_iff]
    simp [PageInterface.showing]
  · rw [State.topCause_eq_iff]
    simp [PageInterface.showing, and_assoc]

end Sys2Proof.Machine

/-! PROOFS. Words in line memory, and the filing of held reports, move by move (R160 to R167). -/

namespace Sys2Proof.Machine

open Sys2Proof.Safety

/-! ## Lists of words in line memory -/

theorem add_ofNat_assoc (a : Word) (m n : Nat) : a + BitVec.ofNat 32 m + BitVec.ofNat 32 n = a + BitVec.ofNat 32 (m + n) := by
  rw [BitVec.add_assoc, BitVec.ofNat_add]

theorem add_four_ofNat (a : Word) (k : Nat) : a + 4 + BitVec.ofNat 32 (4 * k) = a + BitVec.ofNat 32 (4 * (k + 1)) := by
  rw [show (4 : Word) = BitVec.ofNat 32 4 from rfl, add_ofNat_assoc]
  congr 2
  omega

theorem mem_wordsBytes {b : Nat} (a : Word) (ws : List Word) :
    b ∈ wordsBytes a ws ↔ ∃ k < ws.length, b ∈ wordBytes (a + BitVec.ofNat 32 (4 * k)) := by
  induction ws generalizing a with
  | nil => simp [wordsBytes]
  | cons w ws ih =>
    simp only [wordsBytes, List.mem_append, ih, add_four_ofNat, List.length_cons]
    constructor
    · rintro (h | ⟨k, hk, h⟩)
      · exact ⟨0, Nat.succ_pos _, by simpa using h⟩
      · exact ⟨k + 1, Nat.succ_lt_succ hk, h⟩
    · rintro ⟨_ | k, hk, h⟩
      · exact .inl (by simpa using h)
      · exact .inr ⟨k, Nat.lt_of_succ_lt_succ hk, h⟩

/-- A word apart from each word stored reads as before. -/
theorem Memory.readWord_writeWords_other (m : Memory) (a b : Word) (ws : List Word)
    (h : ∀ k < ws.length, wordsApart b (a + BitVec.ofNat 32 (4 * k))) : (m.writeWords a ws).readWord b = m.readWord b := by
  have hb : ∀ x ∈ wordBytes b, (m.writeWords a ws).read x = m.read x := fun x hx =>
    Memory.read_writeWords_other m a ws fun hmem => by
      obtain ⟨k, hk, hx'⟩ := (mem_wordsBytes a ws).mp hmem
      exact h k hk x hx hx'
  simp only [Memory.readWord]
  rw [hb _ (by simp [wordBytes]), hb _ (by simp [wordBytes]), hb _ (by simp [wordBytes]), hb _ (by simp [wordBytes])]

/-- Each word stored is the word read at its place. -/
theorem Memory.readWord_writeWords_get {m : Memory} (h : m.wf = true) {ws : List Word} (hlen : 4 * ws.length ≤ 4294967296)
    (a : Word) {k : Nat} {w : Word} (hk : ws[k]? = some w) :
    (m.writeWords a ws).readWord (a + BitVec.ofNat 32 (4 * k)) = w := by
  induction ws generalizing m a k with
  | nil => simp at hk
  | cons v ws ih =>
    rw [List.length_cons] at hlen
    cases k with
    | zero =>
      obtain rfl : v = w := by simpa using hk
      rw [Memory.writeWords, Memory.readWord_writeWords_other _ _ _ _ (fun j hj => ?_)]
      · simpa using Memory.readWord_writeWord_same h a v
      · rw [add_four_ofNat]
        exact wordsApart_of_offsets a (by omega) (by omega) (by omega)
    | succ k =>
      rw [Memory.writeWords, ← add_four_ofNat]
      exact ih (Memory.wf_writeWord h a v) (by omega) (a + 4) (by simpa using hk)

/-- A byte at least as far from the first one stored as there are bytes stored stays as it was. -/
theorem Memory.read_writeWords_far (m : Memory) {a b : Word} {ws : List Word} (hlen : 4 * ws.length ≤ 4294967296)
    (h : 4 * ws.length ≤ (b - a).toNat) : (m.writeWords a ws).read b.toNat = m.read b.toNat := by
  refine Memory.read_writeWords_other m a ws fun hmem => ?_
  obtain ⟨k, hk, hb⟩ := (mem_wordsBytes a ws).mp hmem
  have hk4 : 4 * k + 4 ≤ 4294967296 := le_trans (by omega) hlen
  simp only [wordBytes, List.mem_cons, List.not_mem_nil, or_false] at hb
  have hmod := Nat.mod_eq_of_lt (show 4 * k < 4294967296 by omega)
  obtain hb | hb | hb | hb := hb <;> bv_omega

theorem State.pageAt_add (s : State) (m n : Nat) : s.pageAt m + BitVec.ofNat 32 n = s.pageAt (m + n) := add_ofNat_assoc _ _ _

theorem State.pageWord_storeWords_get {s : State} (h : s.mem.wf = true) {ws : List Word} (hlen : 4 * ws.length ≤ 4294967296)
    (off : Nat) {k : Nat} {w : Word} (hk : ws[k]? = some w) :
    (s.storeWords (s.pageAt off) ws).pageWord (off + 4 * k) = w := by
  have := Memory.readWord_writeWords_get h hlen (s.pageAt off) hk
  rwa [State.pageAt_add] at this

theorem State.pageWord_storeWords_other (s : State) {off off' : Nat} {ws : List Word} (hoff : off + 3 < 4294967296)
    (hoff' : off' + 4 * ws.length < 4294967296) (h : off + 3 < off' ∨ off' + 4 * ws.length ≤ off) :
    (s.storeWords (s.pageAt off') ws).pageWord off = s.pageWord off := by
  refine Memory.readWord_writeWords_other _ _ _ _ fun k hk => ?_
  rw [State.pageAt_add]
  exact wordsApart_of_offsets _ hoff (by omega) (by omega)

/-! ## The moves of held reports, one by one -/

/-- The state with no MOVE_REPORTS due. -/
def State.filed (s : State) : State := { s with reports := { s.reports with filingDue := false } }

@[simp] theorem State.filed_mem (s : State) : s.filed.mem = s.mem := rfl

@[simp] theorem State.filed_port (s : State) : s.filed.port = s.port := rfl

@[simp] theorem State.filed_pageWord (s : State) (off : Nat) : s.filed.pageWord off = s.pageWord off := rfl

theorem State.fileReports_eq (s : State) : s.fileReports = s.filed.fileLoop s.reports.held.length := rfl

theorem State.filed_closeTray (s : State) (cause : CloseCause) : (s.closeTray cause).filed = s.filed.closeTray cause := by
  unfold State.closeTray
  cases h : s.reports.tray with
  | none => simp [State.filed, h]
  | some tr => simp [State.filed, h, State.storeWord, State.storeWords, State.raise, State.pageAt]

/-- The head of the queue, `x`, put into the place of the open tray that follows the last, the feed not yet recomputed (R160, R164). -/
def State.putReport (s : State) (tr : OpenTray) (x : Report) (rest : List Report) : State :=
  { s with
    mem := s.mem.writeWords (tr.addr + countWord (placeOffset (tr.count + 1))) (reportWords x)
    reports := { s.reports with
      held := rest
      tray := some { tr with
        count := tr.count + 1, firstPiece := some (tr.firstPiece.getD x.piece.number), lastPiece := some x.piece.number }
      ageTimer := if tr.count = 0 then some (s.now + s.plan.trayAge) else s.reports.ageTimer } }

theorem placeAt_eq (tr : OpenTray) (p : Nat) : placeAt tr p = tr.addr + countWord (placeOffset p) := rfl

/-- A move puts the head of the queue into the open tray, and the 32nd closes the tray FULL (R160, R165). -/
theorem State.moveOne_eq {s : State} {x : Report} {rest : List Report} {tr : OpenTray} (hh : s.reports.held = x :: rest)
    (ht : s.reports.tray = some tr) :
    s.moveOne = if tr.count + 1 = 32 then (s.putReport tr x rest).recomputeFeed.closeTray .full
      else (s.putReport tr x rest).recomputeFeed := by
  simp only [State.moveOne, hh, ht, State.putReport, State.storeWords]

theorem State.filed_recomputeFeed (s : State) : s.recomputeFeed.filed = s.filed.recomputeFeed := rfl

theorem State.filed_putReport (s : State) (tr : OpenTray) (x : Report) (rest : List Report) :
    (s.putReport tr x rest).filed = s.filed.putReport tr x rest := by
  simp only [State.filed, State.putReport]

theorem State.filed_moveOne {s : State} {x : Report} {rest : List Report} {tr : OpenTray} (hh : s.reports.held = x :: rest)
    (ht : s.reports.tray = some tr) : s.moveOne.filed = s.filed.moveOne := by
  rw [State.moveOne_eq hh ht, State.moveOne_eq (s := s.filed) hh ht]
  split
  · rw [State.filed_closeTray, State.filed_recomputeFeed, State.filed_putReport]
  · rw [State.filed_recomputeFeed, State.filed_putReport]

theorem State.filed_searchRack (s : State) : s.searchRack.filed = s.filed.searchRack := by
  have hfind : s.filed.findReady = s.findReady := rfl
  unfold State.searchRack
  rw [hfind]
  cases s.findReady with
  | some i => rfl
  | none =>
    by_cases hs : s.reports.starved <;> simp [State.filed, hs, State.raise]

/-- A move takes the head off the holding queue (R160). -/
theorem State.moveOne_held {s : State} {x : Report} {rest : List Report} {tr : OpenTray} (hh : s.reports.held = x :: rest)
    (ht : s.reports.tray = some tr) : s.moveOne.reports.held = rest := by
  simp only [State.moveOne, hh, ht]
  split <;> simp [State.closeTray]

theorem State.needTray_of_tray {s : State} {tr : OpenTray} (h : s.reports.tray = some tr) : s.needTray = s := by
  simp [State.needTray, h]

theorem State.needTray_of_starved {s : State} (h : s.reports.starved = true) : s.needTray = s := by
  simp [State.needTray, h]

theorem State.needTray_of_shortage {s : State} (h : s.reports.tray = none) (hs : s.reports.starved = false) :
    s.needTray = s.searchRack := by
  simp [State.needTray, h, hs]

/-- With ENABLE 0 or nothing held no report moves (R160). -/
theorem State.fileReports_of_idle {s : State} (h : s.port.enable = false ∨ s.reports.held = []) : s.fileReports = s.filed := by
  rw [State.fileReports_eq]
  cases hh : s.reports.held with
  | nil => rfl
  | cons x rest =>
    have he : s.filed.port.enable = false := h.resolve_right (by simp [hh])
    simp only [List.length_cons, State.fileLoop, he]
    simp

/-- With a tray open the head of the queue moves, and the moves go on from there (R160). -/
theorem State.fileReports_of_tray {s : State} {x : Report} {rest : List Report} {tr : OpenTray} (he : s.port.enable = true)
    (hh : s.reports.held = x :: rest) (ht : s.reports.tray = some tr) : s.fileReports = s.moveOne.fileReports := by
  rw [State.fileReports_eq, State.fileReports_eq, State.moveOne_held hh ht, State.filed_moveOne hh ht, hh, List.length_cons,
    State.fileLoop, State.needTray_of_tray (s := s.filed) ht]
  simp [State.filed, hh, he, ht]

/-- While the shortage of trays stands no report moves (R162, R163). -/
theorem State.fileReports_of_starved {s : State} (ht : s.reports.tray = none) (hs : s.reports.starved = true) :
    s.fileReports = s.filed := by
  rw [State.fileReports_eq]
  cases hh : s.reports.held with
  | nil => rfl
  | cons x rest =>
    rw [List.length_cons, State.fileLoop, State.needTray_of_starved (s := s.filed) hs]
    simp [State.filed, ht]

/-- A search that takes no tray has found the shortage (R163). -/
theorem State.searchRack_starved (s : State) (h : s.searchRack.reports.tray = none) :
    s.searchRack.reports.starved = true := by
  unfold State.searchRack at h ⊢
  split at h
  · simp [State.takeTray] at h
  · split
    · assumption
    · rfl

/-- With none open and the shortage of trays not yet found the rack is searched first, which takes a tray or finds the shortage
(R162). -/
theorem State.fileReports_of_search {s : State} (ht : s.reports.tray = none) (hs : s.reports.starved = false)
    (he : s.port.enable = true) (hh : s.reports.held ≠ []) : s.fileReports = s.searchRack.fileReports := by
  obtain ⟨x, rest, hh⟩ := List.exists_cons_of_ne_nil hh
  have hstart : s.fileReports =
      if s.filed.searchRack.reports.tray.isSome then s.filed.searchRack.moveOne.fileLoop rest.length
      else s.filed.searchRack := by
    rw [State.fileReports_eq, hh, List.length_cons, State.fileLoop, State.needTray_of_shortage (s := s.filed) ht hs]
    simp [State.filed, hh, he]
  have hheld : s.searchRack.reports.held = x :: rest := by simpa using hh
  rw [hstart, ← State.filed_searchRack]
  cases htr : s.searchRack.reports.tray with
  | some tr =>
    rw [State.fileReports_of_tray (by simpa using he) hheld htr, State.fileReports_eq, State.moveOne_held hheld htr,
      State.filed_moveOne hheld htr]
    simp [State.filed, htr]
  | none =>
    rw [State.fileReports_of_starved htr (s.searchRack_starved htr)]
    simp [State.filed, htr]

end Sys2Proof.Machine

/-! PROOFS. The port, the trays and the reports in them (R157, R160 to R169, R178, R179). -/

namespace Sys2Proof.Machine

open Sys2Proof.Safety

/-! ## Fields of a word -/

theorem getLsbD_fieldAt (lo width : Nat) (x : Word) {i : Nat} (h : i < 32) :
    (fieldAt lo width x).getLsbD i = (decide (lo ≤ i ∧ i < lo + width) && x.getLsbD (i - lo)) := by
  by_cases hlo : i < lo
  · simp [fieldAt, hlo, show ¬ lo ≤ i by omega]
  · have hlo' : lo ≤ i := by omega
    by_cases hw : i < lo + width
    · simp [fieldAt, h, hlo, hlo', hw, show i - lo < 32 by omega, show i - lo < width by omega]
    · simp [fieldAt, h, hlo, hlo', hw, show ¬ i - lo < width by omega]

theorem getLsbD_bitOf (b : Bool) {lo : Nat} (i : Nat) (h : lo < 32) : (bitOf b lo).getLsbD i = (b && decide (i = lo)) := by
  unfold bitOf
  cases b with
  | false => simp
  | true =>
    simp only [if_true, BitVec.getLsbD_shiftLeft, Bool.true_and]
    by_cases hi : i = lo
    · simp [hi, h]
    · by_cases hlt : i < lo
      · simp [hlt, hi]
      · have : i - lo ≠ 0 := by omega
        simp [hi, BitVec.getLsbD_one, this]

theorem extractLsb'_fieldAt_apart {lo width lo' width' : Nat} (x : Word) (hw : lo + width ≤ 32)
    (h : lo + width ≤ lo' ∨ lo' + width' ≤ lo) : (fieldAt lo' width' x).extractLsb' lo width = 0 := by
  ext k hk
  rw [BitVec.getElem_extractLsb', getLsbD_fieldAt _ _ _ (by omega)]
  have : ¬ (lo' ≤ lo + k ∧ lo + k < lo' + width') := by omega
  simp [this]

theorem extractLsb'_bitOf_apart {lo width n : Nat} (b : Bool) (hn : n < 32) (h : lo + width ≤ n ∨ n < lo) :
    (bitOf b n).extractLsb' lo width = 0 := by
  ext k hk
  rw [BitVec.getElem_extractLsb', getLsbD_bitOf _ _ hn]
  have : lo + k ≠ n := by omega
  simp [this]

theorem countWord_setWidth {w : Nat} (n : Nat) (h : w ≤ 32) : (countWord n).setWidth w = BitVec.ofNat w n := by
  apply BitVec.eq_of_toNat_eq
  have hdvd : 2 ^ w ∣ 2 ^ 32 := Nat.pow_dvd_pow 2 h
  rw [countWord, BitVec.toNat_setWidth, BitVec.toNat_ofNat, BitVec.toNat_ofNat, Nat.mod_mod_of_dvd n hdvd]

theorem posWord_setWidth (p : Pos) : (posWord p).setWidth 16 = p := by
  simp [posWord]

/-! ## The words of a piece report (R157, R178) -/

/-- The sixteen words of a report are its items, each at its place. -/
theorem holdsReport_of_words {m : Memory} {a : Word} {x : Report}
    (h : ∀ k w, (reportWords x)[k]? = some w → m.readWord (a + BitVec.ofNat 32 (4 * k)) = w) : holdsReport m a x := by
  have word : ∀ k w, (reportWords x)[k]? = some w → m.readWord (a + BitVec.ofNat 32 (4 * k)) = w := h
  simp only [holdsReport]
  rw [word 0 _ rfl, word 1 _ rfl, word 2 _ rfl, word 3 _ rfl, word 4 _ rfl, word 5 _ rfl, word 6 _ rfl, word 7 _ rfl,
    word 8 _ rfl, word 9 _ rfl, word 10 _ rfl]
  refine ⟨rfl, ⟨?_, fun n hn => ?_, ?_, ?_⟩, fun g hg => ?_, ⟨?_, ?_, ?_, ?_, ?_, ?_, ?_, ?_⟩, ⟨?_, ?_⟩, fun sp hsp => ?_, ⟨?_, ?_, fun k c hc => ?_, ?_⟩,
    ?_, ?_, fun pl hpl => ?_, ?_, rfl⟩
  · simp [BitVec.extractLsb'_or, extractLsb'_fieldAt, extractLsb'_fieldAt_apart, extractLsb'_bitOf_apart, posWord_setWidth]
  · simp [BitVec.extractLsb'_or, extractLsb'_fieldAt, extractLsb'_fieldAt_apart, extractLsb'_bitOf_apart, hn, countWord_setWidth]
  · simp only [BitVec.getLsbD_or, getLsbD_fieldAt, getLsbD_bitOf, Nat.reduceLT]
    simp
  · simp only [BitVec.getLsbD_or, getLsbD_fieldAt, getLsbD_bitOf, Nat.reduceLT]
    simp
  · rw [hg]
    rfl
  · simp [BitVec.extractLsb'_or, extractLsb'_fieldAt, extractLsb'_fieldAt_apart]
  · simp [BitVec.extractLsb'_or, extractLsb'_fieldAt, extractLsb'_fieldAt_apart]
  · simp [BitVec.extractLsb'_or, extractLsb'_fieldAt, extractLsb'_fieldAt_apart]
  · simp [BitVec.extractLsb'_or, extractLsb'_fieldAt, extractLsb'_fieldAt_apart, Record.attitude]
  · simp [BitVec.extractLsb'_or, extractLsb'_fieldAt, extractLsb'_fieldAt_apart, Record.cls]
  · simp [BitVec.extractLsb'_or, extractLsb'_fieldAt, extractLsb'_fieldAt_apart, Record.turning]
  · simp [BitVec.extractLsb'_or, extractLsb'_fieldAt, extractLsb'_fieldAt_apart]
  · simp [BitVec.extractLsb'_or, extractLsb'_fieldAt, extractLsb'_fieldAt_apart]
  · simp [BitVec.extractLsb'_or, extractLsb'_fieldAt, extractLsb'_fieldAt_apart, countWord_setWidth]
  · simp [BitVec.extractLsb'_or, extractLsb'_fieldAt, extractLsb'_fieldAt_apart, countWord_setWidth]
  · simp [BitVec.extractLsb'_or, extractLsb'_fieldAt, extractLsb'_fieldAt_apart, countWord_setWidth, Record.span, hsp]
  · simp [BitVec.extractLsb'_or, extractLsb'_fieldAt, extractLsb'_fieldAt_apart, extractLsb'_bitOf_apart, countWord_setWidth]
  · simp [BitVec.extractLsb'_or, extractLsb'_fieldAt, extractLsb'_fieldAt_apart, extractLsb'_bitOf_apart]
  · have hk : k.val < 8 := k.isLt
    have hhas : x.piece.culls.word.getLsbD k = x.piece.culls.has c := by
      rw [CullSet.word, getLsbD_bitsWord _ (by omega), List.getD_eq_getElem?_getD, List.getElem?_map, hc]
      rfl
    rw [← hhas]
    simp only [BitVec.getLsbD_or]
    rw [getLsbD_fieldAt _ _ _ (by omega), getLsbD_fieldAt _ _ _ (by omega), getLsbD_fieldAt _ _ _ (by omega),
      getLsbD_bitOf _ _ (by omega)]
    simp [show ¬ 16 + k.val < 5 by omega, show ¬ 16 + k.val < 12 by omega, show 16 + k.val < 24 by omega,
      show ¬ 16 + k.val = 31 by omega]
  · simp only [BitVec.getLsbD_or, getLsbD_fieldAt, getLsbD_bitOf, Nat.reduceLT]
    simp [Record.span]
  · refine ⟨?_, ?_, ?_, ?_, ?_, ?_, ?_⟩ <;> exact getLsbD_bitsWord _ (by decide)
  · cases x.piece.plan with
    | none => rfl
    | some pl =>
      simp only [BitVec.getLsbD_or, getLsbD_fieldAt, getLsbD_bitOf, Nat.reduceLT]
      simp
  · rw [hpl]
    refine ⟨?_, ?_, fun b hb => ?_, ?_, ?_, ?_⟩
    · simp [BitVec.extractLsb'_or, extractLsb'_fieldAt, extractLsb'_fieldAt_apart, extractLsb'_bitOf_apart]
    · simp [BitVec.extractLsb'_or, extractLsb'_fieldAt, extractLsb'_fieldAt_apart, extractLsb'_bitOf_apart, countWord_setWidth]
    · simp [BitVec.extractLsb'_or, extractLsb'_fieldAt, extractLsb'_fieldAt_apart, extractLsb'_bitOf_apart, countWord_setWidth, hb]
    · simp only [BitVec.getLsbD_or, getLsbD_fieldAt, getLsbD_bitOf, Nat.reduceLT]
      simp
    · simp [BitVec.extractLsb'_or, extractLsb'_fieldAt, extractLsb'_fieldAt_apart, countWord_setWidth]
    · simp [BitVec.extractLsb'_or, extractLsb'_fieldAt, extractLsb'_fieldAt_apart, countWord_setWidth]
  · have hslot : (countWord x.piece.slot.val).getLsbD 0 = decide (x.piece.slot = 1) := by
      generalize x.piece.slot = i
      revert i
      decide
    cases x.piece.plan with
    | none | some pl =>
      simp only [BitVec.getLsbD_or, getLsbD_fieldAt, Nat.reduceLT]
      simpa using hslot

end Sys2Proof.Machine

/-! PROOFS. The rack, the closes of trays and the moves of reports, and the statements about them (R160 to R169). -/

namespace Sys2Proof.Machine

open Sys2Proof.Safety

/-! ## The close of a tray -/

theorem State.closeTray_closed {s : State} {tr : OpenTray} (h : s.reports.tray = some tr) (cause : CloseCause) :
    closedTray s (s.closeTray cause) tr cause := by
  rw [State.closeTray_of_open h]
  refine ⟨?_, rfl, rfl, ?_⟩
  · simp only [headerWords, countWord]
  · simp only

/-! ## The search of the rack (R162) -/

theorem searchOrder_getElem (cursor : Option (Fin 16)) (i : Fin 16) :
    (searchOrder cursor)[searchRank cursor i]? = some i := by
  revert cursor i
  decide

theorem exists_searchRank (cursor : Option (Fin 16)) (k : Fin 16) : ∃ i, searchRank cursor i = k := by
  revert cursor k
  decide

/-- The first READY entry in rank is the one a search finds. -/
theorem State.findReady_of_first {s : State} {i : Fin 16} (h : firstReady s i) : s.findReady = some i := by
  obtain ⟨hready, hbefore⟩ := h
  obtain ⟨hlt, hi⟩ := List.getElem?_eq_some_iff.mp (searchOrder_getElem s.reports.cursor i)
  refine List.find?_eq_some_iff_getElem.mpr ⟨by simpa using hready, _, hlt, hi, fun k hk => ?_⟩
  have hlen : k < 16 := lt_of_lt_of_eq (hk.trans hlt) (by simp [searchOrder])
  obtain ⟨j, rfl⟩ : ∃ j, searchRank s.reports.cursor j = k := exists_searchRank _ ⟨k, hlen⟩
  obtain ⟨_, hj⟩ := List.getElem?_eq_some_iff.mp (searchOrder_getElem s.reports.cursor j)
  rw [hj]
  simpa using hbefore j hk

theorem State.findReady_of_no_ready {s : State} (h : ∀ i : Fin 16, s.pageWord (rackOffset i 0) ≠ rackReady) : s.findReady = none :=
  State.findReady_eq_none.mpr fun i _ => h i

theorem State.searchRack_searched (s : State) : rackSearched s s.searchRack := by
  refine ⟨fun i hi => ?_, fun hnone hs => ?_, fun hnone hs => ?_⟩
  · rw [State.searchRack_of_found (State.findReady_of_first hi)]
    rfl
  · exact State.searchRack_of_starved (State.findReady_of_no_ready hnone) hs
  · simp only [State.searchRack, State.findReady_of_no_ready hnone, hs]
    rfl

/-! ## The timer and the request that close a tray -/

/-- An age timer's expiry with ENABLE 1 and a tray open closes it AGE, at the time of the expiry, and what is held moves (R164). -/
theorem exec_trayAgeExpiry_of_open {s : State} {d : Nat} {tr : OpenTray} (ht : s.reports.ageTimer = some d)
    (he : s.port.enable = true) (htr : s.reports.tray = some tr) :
    exec .trayAgeExpiry s = .next ((s.reachTime d).closeTray .age).fileReports := by
  simp only [exec, execTrayAgeExpiry, ht, State.reachTime, he, if_true]
  rw [State.closeTray_of_open (s := { s with now := max s.now d }) htr, State.closeTray_of_open (tr := tr) (by simpa using htr)]
  simp only [State.pageAt]

/-- In a closed tray apart from its rack entry the header stands, and the entry reads FULL (R165, R179). -/
theorem header_of_closedTray {s t : State} {tr : OpenTray} {cause : CloseCause} (h : closedTray s t tr cause) (hwf : s.mem.wf = true)
    (hapart : ∀ k, k < 8 → wordsApart (tr.addr + BitVec.ofNat 32 (4 * k)) (s.pageAt (rackOffset tr.index 0))) :
    ∀ k w, (headerWords s.reports.serial cause tr)[k]? = some w → t.mem.readWord (tr.addr + BitVec.ofNat 32 (4 * k)) = w := by
  obtain ⟨hmem, -, -, -⟩ := h
  intro k w hk
  have hk8 : k < 8 := (List.getElem?_eq_some_iff.mp hk).1
  rw [hmem, Memory.readWord_writeWord_other _ _ _ _ (hapart k hk8)]
  exact Memory.readWord_writeWords_get hwf (by simp) tr.addr hk

theorem wordsBytes_congr (a : Word) {ws vs : List Word} (h : ws.length = vs.length) : wordsBytes a ws = wordsBytes a vs := by
  induction ws generalizing a vs with
  | nil => rw [List.eq_nil_of_length_eq_zero h.symm]
  | cons w ws ih =>
    obtain ⟨v, vs, rfl⟩ := List.exists_cons_of_length_eq_add_one h.symm
    rw [wordsBytes, wordsBytes, ih _ (by simpa using h)]

/-- A close stores nothing but the header and FULL. -/
theorem kept_of_closedTray {s t : State} {tr : OpenTray} {cause : CloseCause} (h : closedTray s t tr cause) (serial : Word) :
    keptOutside s t (wordsBytes tr.addr (headerWords serial cause tr) ++ pageBytes s (rackOffset tr.index 0)) := by
  obtain ⟨hmem, -, -, -⟩ := h
  intro a ha
  obtain ⟨hheader, hentry⟩ := not_or.mp (List.mem_append.not.mp ha)
  rw [hmem, Memory.read_writeWord_other _ _ _ hentry,
    Memory.read_writeWords_other _ _ _ (by rwa [wordsBytes_congr _ (vs := headerWords serial cause tr) (by rfl)])]

/-- Settles O35: the tray closes as any tray, and what is held then moves as by MOVE_REPORTS. -/
theorem trayAgeCloses : Obligations.TrayAgeCloses := by
  refine fun s => ⟨fun ht => by simp [exec, execTrayAgeExpiry, ht],
    fun d ht he => by simp [exec, execTrayAgeExpiry, ht, State.reachTime, he], fun d tr ht he htr => ?_,
    fun d tr hwf ht he htr hheld hapart => ?_⟩
  · exact ⟨_, _, exec_trayAgeExpiry_of_open ht he htr, rfl, State.closeTray_closed (s := s.reachTime d) htr .age⟩
  · have hclosed := State.closeTray_closed (s := s.reachTime d) htr .age
    have hheader := header_of_closedTray hclosed hwf hapart
    have hkept := kept_of_closedTray hclosed 0
    obtain ⟨hmem, hport, hreports, heq⟩ := hclosed
    refine ⟨_, exec_trayAgeExpiry_of_open ht he htr, ?_⟩
    rw [State.fileReports_of_idle (.inr (by simpa using hheld))]
    refine ⟨?_, hheader 1 _ rfl, hheader 2 _ rfl, hheader 3 _ rfl, hheader 4 _ rfl, ?_, fun a ha hr => ?_, hport, ?_, ?_⟩
    · simpa [State.filed] using hheader 0 _ rfl
    · rw [State.pageWord, State.pageAt, State.filed, hport]
      simp only [hmem]
      exact Memory.readWord_writeWord_same (Memory.wf_writeWords hwf _ _) _ _
    · refine hkept a fun hmem => (List.mem_append.mp hmem).elim ha hr
    · simp only [State.filed, hreports]
      rfl
    · rw [State.filed, heq]
      rfl

end Sys2Proof.Machine

/-! PROOFS. Requests answered at once, the writes of CONTROL, and the moves of reports (R160 to R174). -/

namespace Sys2Proof.Machine

open Sys2Proof.Safety

/-! ## Requests answered at once -/

/-- A request completed in the state with its cell TAKEN is answered, and nothing but memory and the port has changed (R172, R173). -/
theorem answered_takeCell {s : State} (hwf : s.mem.wf = true) (cell : Fin 8) (tag : Word) (r : ResultCode) (value : Word) :
    answered s ((s.takeCell cell).completeRequest cell tag r value) cell tag r value ∧
      (s.takeCell cell).completeRequest cell tag r value =
        { s with
          mem := ((s.takeCell cell).completeRequest cell tag r value).mem
          port := ((s.takeCell cell).completeRequest cell tag r value).port } :=
  ⟨answered_completeRequest hwf rfl rfl _ _ _, State.completeRequest_eq _ _ _ _ _⟩

theorem answered_of_completeRequest {s : State} (hwf : s.mem.wf = true) (cell : Fin 8) (tag : Word) (r : ResultCode) (value : Word) :
    answered s (s.completeRequest cell tag r value) cell tag r value := by
  obtain ⟨hanswer, hkept⟩ := answer_of_completeRequest (t := s.completeRequest cell tag r value) (cell := cell) (tag := tag)
    (r := r) (value := value) hwf rfl rfl rfl (by simp)
  exact ⟨hanswer, hkept, rfl⟩

/-- The answer leaves every word apart from the request cell as it was. -/
theorem State.readWord_completeRequest (s : State) {cell : Fin 8} {b : Word}
    (h : ∀ w, w < 8 → wordsApart b (s.pageAt (requestOffset cell w))) (tag : Word) (r : ResultCode) (value : Word) :
    (s.completeRequest cell tag r value).mem.readWord b = s.mem.readWord b := by
  rw [State.completeRequest_mem, Memory.readWord_writeWord_other _ _ _ _ (h 0 (by decide)),
    Memory.readWord_writeWord_other _ _ _ _ (h 2 (by decide)), Memory.readWord_writeWord_other _ _ _ _ (h 7 (by decide)),
    Memory.readWord_writeWord_other _ _ _ _ (h 6 (by decide))]

/-- A word of the page that is not of a request cell is apart from each of them. -/
theorem wordsApart_requestOffset (s : State) {off : Nat} (h : 0x200 ≤ off) (hoff : off + 3 < 4294967296) (cell : Fin 8) {w : Nat}
    (hw : w < 8) : wordsApart (s.pageAt off) (s.pageAt (requestOffset cell w)) := by
  have hcell := cell.isLt
  have hreq : requestOffset cell w + 3 < 0x200 := by unfold requestOffset; omega
  exact wordsApart_of_offsets _ hoff (by omega) (.inr (by omega))

theorem State.pageWord_completeRequest (s : State) (cell : Fin 8) {off : Nat} (h : 0x200 ≤ off) (hoff : off + 3 < 4294967296)
    (tag : Word) (r : ResultCode) (value : Word) : (s.completeRequest cell tag r value).pageWord off = s.pageWord off := by
  have hpage : (s.completeRequest cell tag r value).pageAt off = s.pageAt off := by simp [State.pageAt]
  rw [State.pageWord, hpage]
  exact s.readWord_completeRequest (fun w hw => wordsApart_requestOffset s h hoff cell hw) _ _ _

/-- Settles O53. -/
theorem unknownKindIsAnswered : Obligations.UnknownKindIsAnswered := fun _ cell tag _ hwf htake _ =>
  ⟨_, congrArg Host.Outcome.next (State.onRequest_of_canTake htake _), answered_takeCell hwf cell tag .unknownKind 0⟩

@[simp] theorem State.takeCell_pageAt (s : State) (cell : Fin 8) (off : Nat) : (s.takeCell cell).pageAt off = s.pageAt off := rfl

/-! ## CLOSE TRAY (R166) -/

theorem exec_closeTray_of_open {s : State} {cell : Fin 8} {tr : OpenTray} (htake : s.canTake cell = true)
    (ht : s.reports.tray = some tr) (tag : Word) :
    exec (.closeTray cell tag) s =
      .next (((s.takeCell cell).closeTray .request).completeRequest cell tag .ok s.reports.serial).fileReports := by
  refine congrArg Host.Outcome.next ((State.onRequest_of_canTake htake _).trans ?_)
  have htray : (s.takeCell cell).reports.tray = some tr := by simpa using ht
  simp only [State.decideCloseTray, htray]
  simp

/-- Settles O51. -/
theorem closeTrayCloses : Obligations.CloseTrayCloses := by
  intro s cell tag hwf htake
  have hwf' : (s.takeCell cell).mem.wf = true := Memory.wf_writeWord hwf _ _
  have hclosed : ∀ tr, s.reports.tray = some tr →
      closedTray (s.takeCell cell) ((s.takeCell cell).closeTray .request) tr .request := fun tr ht =>
    State.closeTray_closed (by simpa using ht) _
  have hclosedwf : ((s.takeCell cell).closeTray .request).mem.wf = true :=
    (State.closeTray_keeps _ _).memory hwf'
  refine ⟨fun ht => ⟨_, congrArg Host.Outcome.next ((State.onRequest_of_canTake htake _).trans ?_),
    answered_takeCell hwf cell tag .nothingToClose 0⟩, fun tr ht => ?_, fun tr ht hheld => ?_⟩
  · have htray : (s.takeCell cell).reports.tray = none := by simpa using ht
    simp only [State.decideCloseTray, htray]
  · exact ⟨_, _, _, exec_closeTray_of_open htake ht tag, hclosed tr ht, answered_of_completeRequest hclosedwf _ _ _ _,
      State.completeRequest_eq _ _ _ _ _, rfl⟩
  · have hclosed := hclosed tr ht
    have hheld' : (((s.takeCell cell).closeTray .request).completeRequest cell tag .ok s.reports.serial).reports.held = [] := by
      simpa using hheld
    obtain ⟨hanswer, hkept, hport⟩ := answered_of_completeRequest hclosedwf cell tag .ok s.reports.serial
    have hclosedkept := kept_of_closedTray hclosed 0
    have hheader := header_of_closedTray hclosed hwf'
    obtain ⟨hmem, hclosedport, hreports, heq⟩ := hclosed
    have hpage : ∀ off, ((s.takeCell cell).closeTray .request).pageAt off = s.pageAt off := fun off => by simp [State.pageAt]
    refine ⟨_, exec_closeTray_of_open htake ht tag, ?_⟩
    rw [State.fileReports_of_idle (.inr hheld')]
    simp only [holdsAnswer, State.filed_pageWord, State.filed_mem, State.filed_port]
    refine ⟨hanswer, ?_, fun hapart => ?_, ?_, ?_, fun a ha => ?_, ?_⟩
    · refine (State.pageWord_completeRequest _ cell (by unfold rackOffset; omega) (by unfold rackOffset; omega) _ _ _).trans ?_
      rw [State.pageWord, hpage, hmem, State.takeCell_pageAt]
      refine Memory.readWord_writeWord_same ?_ _ _
      exact Memory.wf_writeWords hwf' _ _
    · have hread : ∀ k w, (headerWords s.reports.serial .request tr)[k]? = some w →
          (((s.takeCell cell).closeTray .request).completeRequest cell tag .ok s.reports.serial).mem.readWord
            (tr.addr + BitVec.ofNat 32 (4 * k)) = w := fun k w hk => by
        have hk8 : k < 8 := (List.getElem?_eq_some_iff.mp hk).1
        rw [State.readWord_completeRequest]
        · exact hheader (fun k hk => (hapart k hk).1) k w hk
        · intro w' hw'
          rw [hpage]
          exact (hapart k hk8).2 w' hw'
      refine ⟨?_, hread 1 _ rfl, hread 2 _ rfl⟩
      simpa using hread 0 _ rfl
    · exact hport.trans (by rw [hclosedport]; rfl)
    · simp only [State.filed, State.completeRequest_frame, hreports]
      rfl
    · obtain ⟨ha, hcell⟩ := not_or.mp (List.mem_append.not.mp ha)
      have hcell' : a ∉ answerBytes ((s.takeCell cell).closeTray .request) cell := by
        simpa only [answerBytes, cellStateBytes, pageBytes, hpage] using hcell
      have ha' : a ∉ wordsBytes tr.addr (headerWords 0 .request tr) ++ pageBytes (s.takeCell cell) (rackOffset tr.index 0) := by
        simpa only [pageBytes, State.takeCell_pageAt] using ha
      have hstate : a ∉ cellStateBytes s cell := fun h => hcell (by simp [answerBytes, h])
      rw [State.filed_mem, hkept a hcell', hclosedkept a ha', State.takeCell_keptOutside s cell a hstate]
    · rw [State.filed, State.completeRequest_eq, heq]
      rfl

/-! ## Writes of CONTROL and of PAGE ADDRESS (R168, R169) -/

/-- The moves leave no more held than there was. -/
theorem State.fileLoop_held_le (n : Nat) (s : State) : (s.fileLoop n).reports.held.length ≤ s.reports.held.length := by
  induction n generalizing s with
  | zero => exact le_rfl
  | succ n ih =>
    simp only [State.fileLoop]
    split
    · exact le_rfl
    · next hgo =>
      split
      · next ht =>
        obtain ⟨tr, htr⟩ := Option.isSome_iff_exists.mp ht
        obtain ⟨x, rest, hh⟩ := List.exists_cons_of_ne_nil (l := s.reports.held) (fun h => hgo (by simp [h]))
        refine (ih _).trans ?_
        rw [State.moveOne_held (s := s.needTray) (by simpa using hh) htr, hh]
        exact Nat.le_succ _
      · simp

theorem State.fileReports_held_lt {s : State} {tr : OpenTray} (he : s.port.enable = true) (ht : s.reports.tray = some tr)
    (hh : s.reports.held ≠ []) : s.fileReports.reports.held.length < s.reports.held.length := by
  obtain ⟨x, rest, hh⟩ := List.exists_cons_of_ne_nil hh
  rw [State.fileReports_of_tray he hh ht, hh]
  refine Nat.lt_succ_of_le ((State.fileLoop_held_le _ _).trans ?_)
  simp [State.moveOne_held hh ht]

theorem State.enablePort_of_enabled {s : State} (h : s.port.enable = true) : s.enablePort = s := by
  simp [State.enablePort, h]

theorem State.disablePort_of_disabled {s : State} (h : s.port.enable = false) : s.disablePort = s := by
  simp [State.disablePort, h]

/-- ENABLE set and the scan timer started, before anything is moved (R169). -/
def State.started (s : State) : State :=
  { s with port := { s.port with enable := true, scanTimer := some (s.now + 2 ^ s.port.scanTap.toNat) } }

/-- ENABLE 1 while ENABLE is 0 moves what is held into a tray left open (R160, R169). -/
theorem State.enablePort_of_disabled {s : State} (h : s.port.enable = false) :
    s.enablePort = if s.reports.tray.isSome then s.started.fileReports else s.started := by
  simp only [State.enablePort, h]
  rfl

/-- With a scan in progress ENABLE 0 finds it made to its end first (log entry 34). -/
theorem State.disablePort_of_scan {s : State} (h : s.port.enable = true) :
    s.disablePort =
      if (s.workScan s.port.scanLeft.length).run.state.isRunning then s.workScan s.port.scanLeft.length
      else { s.workScan s.port.scanLeft.length with
        port := { (s.workScan s.port.scanLeft.length).port with enable := false, scanTimer := none } } := by
  simp [State.disablePort, h]

theorem getLsbD_pageMask : ∀ i < 32, (~~~(0xFFF#32)).getLsbD i = decide (12 ≤ i) := by
  decide

/-- The address of the 4,096-byte page that holds an address (R168). -/
theorem pageAddressOf_toNat (v : Word) : (pageAddressOf v).toNat = v.toNat / 4096 * 4096 := by
  have hmask : pageAddressOf v = (v >>> 12) <<< 12 := by
    refine BitVec.eq_of_getLsbD_eq fun i hi => ?_
    rw [pageAddressOf, BitVec.getLsbD_and, getLsbD_pageMask i hi, BitVec.getLsbD_shiftLeft, BitVec.getLsbD_ushiftRight]
    by_cases h : 12 ≤ i
    · simp [h, hi, show ¬ i < 12 by omega, show 12 + (i - 12) = i by omega]
    · simp [h, show i < 12 by omega]
  have hlt := v.isLt
  rw [hmask, BitVec.toNat_shiftLeft, BitVec.toNat_ushiftRight, Nat.shiftLeft_eq, Nat.shiftRight_eq_div_pow]
  omega

/-- What a write of ENABLE 1 does while ENABLE is 0, with SCAN TAP as the same write leaves it (R160, R169). -/
theorem State.enablePort_effect {s : State} (h : s.port.enable = false) :
    s.enablePort.port.enable = true ∧ s.enablePort.port.scanTap = s.port.scanTap ∧
      s.enablePort.port.scanTimer = some (s.now + 2 ^ s.port.scanTap.toNat) ∧
      (s.reports.tray = none → s.enablePort = s.started) ∧
      (s.reports.tray ≠ none → s.reports.held ≠ [] → s.enablePort.reports.held.length < s.reports.held.length) ∧
      (s.reports.tray ≠ none → exec .moveReports s.started = .next s.enablePort) := by
  rw [State.enablePort_of_disabled h]
  cases ht : s.reports.tray with
  | none => simp [State.started]
  | some tr =>
    refine ⟨by simp [State.started], by simp [State.started], by simp [State.started], by simp, fun _ hheld => ?_, fun _ => ?_⟩
    · exact State.fileReports_held_lt (s := s.started) rfl ht hheld
    · simp [exec, execMoveReports]

theorem State.controlWord_fields (s : State) :
    s.controlWord.getLsbD 0 = s.port.enable ∧ s.controlWord.getLsbD 1 = false ∧
      s.controlWord.extractLsb' 4 3 = s.port.scanTap := by
  refine ⟨?_, ?_, ?_⟩
  · rw [State.controlWord, BitVec.getLsbD_or, getLsbD_bitOf _ _ (by decide), getLsbD_fieldAt _ _ _ (by decide)]
    simp
  · rw [State.controlWord, BitVec.getLsbD_or, getLsbD_bitOf _ _ (by decide), getLsbD_fieldAt _ _ _ (by decide)]
    simp
  · rw [State.controlWord, BitVec.extractLsb'_or, extractLsb'_bitOf_apart _ (by decide) (.inr (by decide)),
      extractLsb'_fieldAt _ (by decide)]
    simp

/-- Settles O4: each word is taken by its bits, SCAN TAP first. -/
theorem portWritesTakeEffect : Obligations.PortWritesTakeEffect := by
  intro s v
  refine ⟨?_, fun he => by simp [exec, execPageAddressWrite, he],
    fun he => ⟨_, rfl, by simp [he, pageAddressOf_toNat], by simp [he]⟩, rfl, s.controlWord_fields⟩
  intro hreset i hi tap
  have htap : s.writeScanTap (v.extractLsb' 4 3) = s.withTap tap := s.writeScanTap_eq _
  have hon := s.writeControl_of_enable hreset
  have hoff := s.writeControl_of_disable hreset
  rw [exec_writeControl hi]
  rw [htap] at hon hoff
  clear_value tap
  refine ⟨fun he => ?_, fun hv he => ?_, fun hv he hleft hrun => ?_, fun hv he hleft hrun => ?_, fun hv he hleft => ?_⟩
  · cases hv : v.getLsbD 0 with
    | true => rw [hon hv, State.enablePort_of_enabled (s := s.withTap tap) (he.symm.trans hv)]; rfl
    | false => rw [hoff hv, State.disablePort_of_disabled (s := s.withTap tap) (he.symm.trans hv)]; rfl
  · rw [hon hv]
    exact ⟨_, rfl, State.enablePort_effect (s := s.withTap tap) he⟩
  · rw [hoff hv, State.disablePort_of_no_scan (s := s.withTap tap) hleft]
    simp [State.withTap, hrun]
  · rw [hoff hv, State.disablePort_of_no_scan (s := s.withTap tap) hleft]
    simp [State.withTap, hrun, he]
  · rw [hoff hv, State.disablePort_of_scan (s := s.withTap tap) he]
    refine ⟨_, execPageScan_of_begun (s := s.withTap tap) ⟨[], s.port.scanLeft.length⟩ hleft, ?_, ?_, fun hrun => ?_,
      fun hrun => ?_⟩
    · simp [State.withTap]
    · simp [State.withTap, he]
    · rw [if_pos (by exact hrun)]
      rfl
    · rw [if_neg (ne_true_of_eq_false (by exact hrun))]
      rfl

end Sys2Proof.Machine

/-! PROOFS. The moves of reports (R160 to R165). -/

namespace Sys2Proof.Machine

open Sys2Proof.Safety

/-! ## What moves leave alone -/

theorem State.searchRack_filingDue (s : State) : s.searchRack.reports.filingDue = s.reports.filingDue := by
  unfold State.searchRack
  split
  · rfl
  · split <;> rfl

theorem State.moveOne_filingDue (s : State) : s.moveOne.reports.filingDue = s.reports.filingDue := by
  cases hh : s.reports.held with
  | nil => simp [State.moveOne, hh]
  | cons x rest =>
    cases ht : s.reports.tray with
    | none => simp [State.moveOne, hh, ht]
    | some tr =>
      rw [State.moveOne_eq hh ht]
      split
      · rw [State.closeTray_of_open rfl]
        rfl
      · rfl

theorem State.needTray_filingDue (s : State) : s.needTray.reports.filingDue = s.reports.filingDue := by
  unfold State.needTray
  split
  · exact s.searchRack_filingDue
  · rfl

theorem State.fileLoop_filingDue (n : Nat) (s : State) : (s.fileLoop n).reports.filingDue = s.reports.filingDue := by
  induction n generalizing s with
  | zero => rfl
  | succ n ih =>
    simp only [State.fileLoop]
    split
    · rfl
    · split
      · rw [ih, State.moveOne_filingDue, State.needTray_filingDue]
      · exact s.needTray_filingDue

theorem State.fileReports_filingDue (s : State) : s.fileReports.reports.filingDue = false :=
  State.fileLoop_filingDue _ s.filed

/-- Moves change memory, the report unit, the feed and attention only (R160). -/
theorem State.fileReports_parts (s : State) :
    s.fileReports.port = { s.port with causes := s.fileReports.port.causes, seen := s.fileReports.port.seen } ∧
      s.fileReports = { s with
        mem := s.fileReports.mem, reports := s.fileReports.reports, run := s.fileReports.run, port := s.fileReports.port } := by
  have hframe := State.fileReports_frame s
  generalize s.fileReports = t at hframe ⊢
  obtain ⟨_, _, _, _, _, _, _, _, _, _, _, _, _, _, _, _, _, _, _, p, _, _, _, _⟩ := t
  cases p
  simp_all

theorem State.putReport_moved (s : State) (tr : OpenTray) (x : Report) (rest : List Report) :
    movedReport s (s.putReport tr x rest).recomputeFeed tr x rest := by
  refine ⟨?_, rfl, rfl, rfl, ?_⟩ <;> simp only [State.putReport, State.recomputeFeed, placeAt_eq]

/-! ## A tray with places for all that is held -/

/-- Reports in the places of a tray that follow the first `c` (R160). -/
def placeReports (m : Memory) (addr : Word) (c : Nat) : List Report → Memory
  | [] => m
  | x :: rest => placeReports (m.writeWords (addr + countWord (placeOffset (c + 1))) (reportWords x)) addr (c + 1) rest

theorem reportWords_length (x : Report) : (reportWords x).length = 16 := rfl

theorem placeOffset_succ (c : Nat) : placeOffset (c + 1) = 32 + 64 * c := rfl

/-- The places before the first one filled read as they did. -/
theorem readWord_placeReports_before (m : Memory) (addr : Word) {c off : Nat} {xs : List Report} (hroom : c + xs.length < 32)
    (hoff : off + 4 ≤ 32 + 64 * c) :
    (placeReports m addr c xs).readWord (addr + BitVec.ofNat 32 off) = m.readWord (addr + BitVec.ofNat 32 off) := by
  induction xs generalizing m c with
  | nil => rfl
  | cons x rest ih =>
    rw [List.length_cons] at hroom
    rw [placeReports, ih _ (by omega) (by omega)]
    refine Memory.readWord_writeWords_other _ _ _ _ fun k hk => ?_
    rw [reportWords_length] at hk
    rw [placeOffset_succ, countWord, add_ofNat_assoc]
    exact wordsApart_of_offsets addr (by omega) (by omega) (.inl (by omega))

/-- Each report stands in its place (R157, R160). -/
theorem holdsReport_placeReports {m : Memory} (hwf : m.wf = true) (addr : Word) {c k : Nat} {xs : List Report} {y : Report}
    (hroom : c + xs.length < 32) (hk : xs[k]? = some y) :
    holdsReport (placeReports m addr c xs) (addr + countWord (placeOffset (c + k + 1))) y := by
  induction xs generalizing m c k with
  | nil => simp at hk
  | cons x rest ih =>
    rw [List.length_cons] at hroom
    cases k with
    | zero =>
      obtain rfl : x = y := by simpa using hk
      refine holdsReport_of_words fun j w hj => ?_
      have hj16 : j < 16 := (List.getElem?_eq_some_iff.mp hj).1
      rw [placeReports, Nat.add_zero, placeOffset_succ, countWord, add_ofNat_assoc,
        readWord_placeReports_before _ _ (by omega) (by omega), ← add_ofNat_assoc addr (32 + 64 * c)]
      have hlen : 4 * (reportWords x).length ≤ 4294967296 := by rw [reportWords_length]; decide
      exact Memory.readWord_writeWords_get hwf hlen _ hj
    | succ k =>
      rw [placeReports, show c + (k + 1) + 1 = c + 1 + k + 1 by omega]
      refine ih ?_ (by omega) (by simpa using hk)
      exact Memory.wf_writeWords hwf _ _

/-- No byte outside the places filled changes. -/
theorem read_placeReports_outside (m : Memory) (addr a : Word) {c : Nat} {xs : List Report} (hroom : c + xs.length < 32)
    (ha : (a - addr).toNat < 32 + 64 * c ∨ 32 + 64 * (c + xs.length) ≤ (a - addr).toNat) :
    (placeReports m addr c xs).read a.toNat = m.read a.toNat := by
  induction xs generalizing m c with
  | nil => rfl
  | cons x rest ih =>
    rw [List.length_cons] at hroom ha
    rw [placeReports, ih _ (by omega) (by omega)]
    refine Memory.read_writeWords_far _ (by rw [reportWords_length]; decide) ?_
    rw [reportWords_length, placeOffset_succ, countWord]
    have hoff : (BitVec.ofNat 32 (32 + 64 * c)).toNat = 32 + 64 * c := Nat.mod_eq_of_lt (by omega)
    generalize BitVec.ofNat 32 (32 + 64 * c) = d at hoff
    have hsplit : a - (addr + d) = (a - addr) - d := sub_add_eq_sub_sub a addr d
    have hlt := (a - addr).isLt
    rw [hsplit, BitVec.toNat_sub, hoff]
    omega

/-- With room for all, every held report moves into its place (R160, R164). -/
theorem State.fileReports_of_room {s : State} {tr : OpenTray} {x : Report} {rest : List Report} (he : s.port.enable = true)
    (ht : s.reports.tray = some tr) (hh : s.reports.held = x :: rest) (hroom : tr.count + (x :: rest).length < 32) :
    s.fileReports.mem = placeReports s.mem tr.addr tr.count (x :: rest) ∧
      s.fileReports.reports = { s.reports with
        held := []
        tray := some { tr with
          count := tr.count + (x :: rest).length
          firstPiece := some (tr.firstPiece.getD x.piece.number)
          lastPiece := ((x :: rest).getLast?).map (·.piece.number) }
        ageTimer := if tr.count = 0 then some (s.now + s.plan.trayAge) else s.reports.ageTimer
        filingDue := false } ∧
      s.fileReports = { s with mem := s.fileReports.mem, reports := s.fileReports.reports, run := s.fileReports.run } := by
  rw [List.length_cons] at hroom
  induction rest generalizing s tr x with
  | nil =>
    rw [State.fileReports_of_tray he hh ht, State.moveOne_eq hh ht, if_neg (by omega), State.fileReports_of_idle (.inr rfl)]
    refine ⟨?_, ?_, ?_⟩
    · simp only [State.filed_mem, State.recomputeFeed_mem, State.putReport, placeReports]
    · simp [State.filed, State.putReport]
    · simp only [State.filed, State.putReport, State.recomputeFeed]
  | cons y rest ih =>
    rw [List.length_cons] at hroom
    rw [State.fileReports_of_tray he hh ht, State.moveOne_eq hh ht, if_neg (by omega)]
    obtain ⟨hmem, hreports, heq⟩ := ih (s := (s.putReport tr x (y :: rest)).recomputeFeed) (x := y) he rfl rfl
      (by simp only; omega)
    refine ⟨?_, ?_, ?_⟩
    · rw [hmem]
      simp only [State.recomputeFeed_mem, State.putReport, placeReports]
    · rw [hreports]
      simp [State.putReport, Nat.add_assoc, Nat.add_comm 1]
    · rw [heq]
      simp only [State.putReport, State.recomputeFeed]

/-! ## MOVE_REPORTS -/

/-- Settles O41. -/
theorem reportsFillOpenTray : Obligations.ReportsFillOpenTray := by
  intro s
  refine ⟨?_, fun h => congrArg Host.Outcome.next (State.fileReports_of_idle h), fun he hh ht => ⟨fun hs => ?_, fun hs => ?_⟩,
    fun tr x rest he ht hh => ⟨?_, fun hrest hc => ?_, fun hroom => ?_⟩⟩
  · obtain ⟨hport, heq⟩ := s.fileReports_parts
    exact ⟨_, rfl, s.fileReports_filingDue, by simp, by simp, by simp, hport, heq⟩
  · exact congrArg Host.Outcome.next (State.fileReports_of_starved ht hs)
  · exact ⟨_, s.searchRack_searched, congrArg Host.Outcome.next (State.fileReports_of_search ht hs he hh)⟩
  · refine ⟨_, s.putReport_moved tr x rest, fun hc => ?_, fun hc => ⟨_, State.closeTray_closed ?_ .full, ?_⟩⟩
    · simp only [exec, execMoveReports]
      rw [State.fileReports_of_tray he hh ht, State.moveOne_eq hh ht, if_neg (by omega)]
    · simp [State.putReport, hc]
    · simp only [exec, execMoveReports]
      rw [State.fileReports_of_tray he hh ht, State.moveOne_eq hh ht, if_pos (by omega)]
  · subst hrest
    refine ⟨_, rfl, ?_⟩
    rw [State.fileReports_of_tray he hh ht, State.moveOne_eq hh ht, if_pos (by omega), State.closeTray_of_open rfl,
      State.fileReports_of_idle (.inr rfl)]
    exact ⟨rfl, rfl, rfl, rfl⟩
  · obtain ⟨hmem, hreports, heq⟩ := State.fileReports_of_room he ht hh hroom
    refine ⟨_, rfl, ?_, ?_, ?_, ?_, ?_, fun hwf k y hk => ?_, fun hrest => ?_, fun a ha => ?_, by simp, by simp, heq⟩
    · rw [hreports]
    · rw [hreports]
    · rw [hreports]
    · rw [hreports]
    · rw [hreports]
    · rw [hmem]
      exact holdsReport_placeReports hwf tr.addr hroom hk
    · subst hrest
      rw [hmem, placeAt_eq]
      rfl
    · rw [hmem]
      exact read_placeReports_outside _ _ _ hroom ha

end Sys2Proof.Machine

/-! PROOFS. The page scan, part by part (R145, R147, R162, R167, R170 to R172, R178, R179). -/

namespace Sys2Proof.Machine

open Sys2Proof.Safety

/-! ## The row of the request in a cell (R172) -/

/-- The row of each kind, undefined kinds included. -/
theorem cellCommand_rows (s : State) (i : Fin 8) :
    let tag := s.pageWord (requestOffset i 2)
    let arg := fun k => s.pageWord (requestOffset i (3 + k))
    let kind := s.pageWord (requestOffset i 1)
    let row := cellCommand s i
    (kind = 1 → row = .loadPlan i tag) ∧ (kind = 2 → row = .start i tag) ∧ (kind = 3 → row = .drain i tag) ∧
      (kind = 4 → row = .stop i tag) ∧ (kind = 5 → row = .setImpression i tag (arg 0) (arg 1)) ∧
      (kind = 6 → row = .loadKiller i tag (arg 0) (arg 1)) ∧ (kind = 7 → row = .setStacker i tag (arg 0) (arg 1)) ∧
      (kind = 8 → row = .snapshotTallies i tag (arg 0)) ∧ (kind = 9 → row = .closeTray i tag) ∧
      (kind = 10 → row = .clearJam i tag) ∧ (kind = 0 ∨ 10 < kind.toNat → row = .unknownKind i tag kind) := by
  intro tag arg kind row
  have hrow : ∀ n : Word, kind = n → row = (Request.mk i n tag (arg 0) (arg 1) (arg 2)).command := by
    rintro _ rfl
    rfl
  refine ⟨hrow 1, hrow 2, hrow 3, hrow 4, hrow 5, hrow 6, hrow 7, hrow 8, hrow 9, hrow 10, fun hkind => ?_⟩
  have hundefined : kind.toNat = 0 ∨ 10 < kind.toNat := hkind.imp_left fun h => by rw [h]; rfl
  rw [hrow kind rfl, Request.command]
  split
  all_goals try rfl
  all_goals (next h => exact absurd hundefined (by simp only at h; omega))

/-! ## The status block (R171) -/

theorem toNat_holdWord_lt : ∀ a b c d e : Bool, (bitsWord [a, b, c, d, e]).toNat < 32 := by
  decide

theorem State.writeStatus_word {s : State} (hwf : s.mem.wf = true) {k : Nat} {w : Word} (hk : s.statusWords[k]? = some w)
    (off : Nat) (hoff : off = 0x200 + 4 * k) : s.writeStatus.pageWord off = w := by
  rw [hoff]
  exact State.pageWord_storeWords_get hwf (by simp [State.statusWords]) statusOffset hk

theorem State.writeStatus_holds {s : State} (hwf : s.mem.wf = true) : holdsStatus s.writeStatus s := by
  have word := fun k w hk => State.writeStatus_word (k := k) (w := w) hwf hk
  refine ⟨word 0 _ rfl _ rfl, ?_, word 2 _ rfl _ rfl, word 3 _ rfl _ rfl, word 4 _ rfl _ rfl, word 5 _ rfl _ rfl, ?_,
    word 7 _ rfl _ rfl, word 8 _ rfl _ rfl, ?_, word 10 _ rfl _ rfl, word 11 _ rfl _ rfl⟩
  · rw [word 1 _ rfl _ rfl, FeedHold.word]
    refine ⟨?_, ?_, ?_, ?_, ?_, toNat_holdWord_lt _ _ _ _ _⟩ <;> exact getLsbD_bitsWord _ (by decide)
  · rw [word 6 _ rfl _ rfl]
    cases s.reports.tray <;> rfl
  · rw [word 9 _ rfl _ rfl]
    cases s.printer.waiting <;> rfl

theorem State.writeStatus_mem (s : State) : s.writeStatus.mem = s.mem.writeWords (s.pageAt statusOffset) s.statusWords := by
  rw [State.writeStatus, State.storeWords]

theorem State.writeStatus_eq (s : State) : s.writeStatus = { s with mem := s.writeStatus.mem } := by
  rw [State.writeStatus, State.storeWords]

theorem State.writeStatus_kept (s : State) {z : Nat} (hz : ∀ k : Fin 12, z ∉ pageBytes s (0x200 + 4 * k.val)) :
    s.writeStatus.mem.read z = s.mem.read z := by
  rw [State.writeStatus_mem]
  refine Memory.read_writeWords_other _ _ _ fun hmem => ?_
  obtain ⟨k, hk, hz'⟩ := (mem_wordsBytes _ _).mp hmem
  rw [State.pageAt_add] at hz'
  exact hz ⟨k, hk⟩ hz'

theorem State.writeStatus_done {s : State} (hwf : s.mem.wf = true) : partDone .status s s.writeStatus :=
  ⟨State.writeStatus_holds hwf, fun _ hz => s.writeStatus_kept hz, s.writeStatus_eq⟩

/-! ## The jam record (R144, R145, R147) -/

theorem jamEntryWords_length (r : Record) : (jamEntryWords r).length = 4 := rfl

/-- Entry i of a list of entries of four words stands at word 4 i. -/
theorem flatMap_jamEntryWords_getElem? {l : List Record} {i : Nat} {r : Record} (hi : l[i]? = some r) {j : Nat} (hj : j < 4) :
    (l.flatMap jamEntryWords)[4 * i + j]? = (jamEntryWords r)[j]? := by
  induction l generalizing i with
  | nil => simp at hi
  | cons x l ih =>
    rw [List.flatMap_cons]
    cases i with
    | zero =>
      obtain rfl : x = r := by simpa using hi
      rw [List.getElem?_append_left (by rw [jamEntryWords_length]; omega), Nat.mul_zero, Nat.zero_add]
    | succ i =>
      rw [List.getElem?_append_right (by rw [jamEntryWords_length]; omega), jamEntryWords_length,
        show 4 * (i + 1) + j - 4 = 4 * i + j by omega]
      exact ih (by simpa using hi)

theorem flatMap_jamEntryWords_length (l : List Record) : (l.flatMap jamEntryWords).length = 4 * l.length := by
  rw [List.length_flatMap]
  simp [jamEntryWords_length, Nat.mul_comm]

/-- What a jam record stores: the eleven words, the entries, and COMPLETE at last (R145). -/
def State.jamStored (s : State) : State :=
  ((s.storeWords (s.pageAt 0x404) s.jamHeader).storeWords (s.pageAt 0x430) (s.records.flatMap jamEntryWords)).storeWord
    (s.pageAt 0x400) recordComplete

theorem State.writeJamRecord_eq (s : State) :
    s.writeJamRecord = { s.jamStored with protect := { s.protect with recordWritten := true } } := by
  simp only [State.writeJamRecord, State.jamStored, State.pageAt, State.storeWords_port, State.storeWord_protect,
    State.storeWords_protect, jamOffset, jamEntryOffset, Nat.reduceAdd, Nat.reduceMul]

theorem State.jamStored_eq (s : State) : s.jamStored = { s with mem := s.jamStored.mem } := by
  rw [State.jamStored, State.storeWord, State.storeWords, State.storeWords]

theorem State.jamStored_mem (s : State) :
    s.jamStored.mem = ((s.mem.writeWords (s.pageAt 0x404) s.jamHeader).writeWords (s.pageAt 0x430)
      (s.records.flatMap jamEntryWords)).writeWord (s.pageAt 0x400) recordComplete := by
  rw [State.jamStored, State.storeWord, State.storeWords, State.storeWords]

theorem State.jamStored_pageWord (s : State) (off : Nat) : s.jamStored.pageWord off = s.jamStored.mem.readWord (s.pageAt off) := by
  rw [State.pageWord, State.pageAt, State.jamStored_eq, State.pageAt]

theorem State.pageAt_apart (s : State) {m n : Nat} (hm : m + 3 < 4294967296) (hn : n + 3 < 4294967296)
    (h : m + 3 < n ∨ n + 3 < m) : wordsApart (s.pageAt m) (s.pageAt n) :=
  wordsApart_of_offsets _ hm hn h

theorem State.jamHeader_length (s : State) : s.jamHeader.length = 11 := rfl

theorem State.jamStored_header {s : State} (hwf : s.mem.wf = true) (hroom : s.records.length ≤ 32) {k : Nat} {w : Word}
    (hk : s.jamHeader[k]? = some w) (off : Nat) (hoff : off = 0x404 + 4 * k) : s.jamStored.pageWord off = w := by
  have hk11 : k < 11 := (List.getElem?_eq_some_iff.mp hk).1
  have hlen : 4 * s.jamHeader.length ≤ 4294967296 := by rw [State.jamHeader_length]; decide
  rw [State.jamStored_pageWord, State.jamStored_mem, hoff]
  rw [Memory.readWord_writeWord_other _ _ _ _ (s.pageAt_apart (m := 0x404 + 4 * k) (n := 0x400) (by omega) (by decide) (.inr (by omega))),
    Memory.readWord_writeWords_other, ← State.pageAt_add, Memory.readWord_writeWords_get hwf hlen _ hk]
  intro j hj
  rw [flatMap_jamEntryWords_length] at hj
  rw [State.pageAt_add]
  exact s.pageAt_apart (by omega) (by omega) (.inl (by omega))

theorem State.jamStored_entry {s : State} (hwf : s.mem.wf = true) (hroom : s.records.length ≤ 32) {i : Nat} {r : Record}
    (hi : s.records[i]? = some r) {j : Nat} {w : Word} (hj : (jamEntryWords r)[j]? = some w) (off : Nat)
    (hoff : off = 0x430 + 4 * (4 * i + j)) : s.jamStored.pageWord off = w := by
  have hi32 : i < s.records.length := (List.getElem?_eq_some_iff.mp hi).1
  have hj4 : j < 4 := (List.getElem?_eq_some_iff.mp hj).1
  have hlen : 4 * (s.records.flatMap jamEntryWords).length ≤ 4294967296 := by rw [flatMap_jamEntryWords_length]; omega
  have hget := (flatMap_jamEntryWords_getElem? hi hj4).trans hj
  have hwf' := Memory.wf_writeWords hwf (s.pageAt 0x404) s.jamHeader
  rw [State.jamStored_pageWord, State.jamStored_mem, hoff]
  rw [Memory.readWord_writeWord_other _ _ _ _ (s.pageAt_apart (m := 0x430 + 4 * (4 * i + j)) (n := 0x400) (by omega) (by decide) (.inr (by omega))),
    ← State.pageAt_add, Memory.readWord_writeWords_get hwf' hlen _ hget]

/-- A jam record of at most 32 pieces holds each item at its place (R144, R178). -/
theorem State.jamStored_holds {s : State} (hwf : s.mem.wf = true) (hroom : s.records.length ≤ 32) : holdsJamRecord s.jamStored s := by
  have header := fun k w hk => State.jamStored_header (k := k) (w := w) hwf hroom hk
  refine ⟨?_, header 0 _ rfl _ rfl, header 1 _ rfl _ rfl, header 2 _ rfl _ rfl, fun p hp => ?_, ?_, header 5 _ rfl _ rfl,
    header 6 _ rfl _ rfl, header 7 _ rfl _ rfl, fun i r hi => ?_⟩
  · rw [State.jamStored_pageWord, State.jamStored_mem]
    refine Memory.readWord_writeWord_same ?_ _ _
    exact Memory.wf_writeWords (Memory.wf_writeWords hwf _ _) _ _
  · rw [header 3 _ rfl _ rfl, hp]
    rfl
  · rw [header 4 _ rfl _ rfl]
    rfl
  · have entry := fun j w hj => State.jamStored_entry hwf hroom hi (j := j) (w := w) hj
    refine ⟨entry 0 _ rfl _ (by omega), ?_, ?_, ?_, entry 2 _ rfl _ (by omega)⟩
    · rw [entry 1 _ rfl _ (by omega)]
      simp [BitVec.extractLsb'_or, extractLsb'_fieldAt, extractLsb'_fieldAt_apart]
    · rw [entry 1 _ rfl _ (by omega)]
      simp [BitVec.extractLsb'_or, extractLsb'_fieldAt, extractLsb'_fieldAt_apart]
    · rw [entry 1 _ rfl _ (by omega)]
      simp [BitVec.extractLsb'_or, extractLsb'_fieldAt, extractLsb'_fieldAt_apart]

/-- A jam record stores nothing outside its bytes (R178). -/
theorem State.jamStored_kept (s : State) : keptOutside s s.jamStored (jamBytes s s.records.length) := by
  intro a ha
  obtain ⟨hhead, hentries⟩ := not_or.mp (List.mem_append.not.mp ha)
  rw [mem_wordsBytes] at hhead hentries
  rw [State.jamStored_mem, Memory.read_writeWord_other, Memory.read_writeWords_other, Memory.read_writeWords_other]
  · intro hmem
    obtain ⟨k, hk, hz⟩ := (mem_wordsBytes _ _).mp hmem
    rw [State.jamHeader_length] at hk
    rw [State.pageAt_add] at hz
    refine hhead ⟨k + 1, by rw [List.length_replicate]; omega, ?_⟩
    rw [State.pageAt_add]
    exact (show 0x404 + 4 * k = 0x400 + 4 * (k + 1) by omega) ▸ hz
  · intro hmem
    obtain ⟨k, hk, hz⟩ := (mem_wordsBytes _ _).mp hmem
    rw [flatMap_jamEntryWords_length] at hk
    exact hentries ⟨k, by rw [List.length_replicate]; omega, hz⟩
  · intro hz
    exact hhead ⟨0, by simp, by simpa using hz⟩

/-- What a rewrite stores: the further-trip count and the belt position (R147). -/
def State.rewriteStored (s : State) : State :=
  (s.storeWord (s.pageAt 0x418) (countWord s.protect.furtherTrips)).storeWord (s.pageAt 0x41C) (posWord s.position)

theorem State.rewriteRecordIfDue_of_due {s : State} (h : s.protect.rewriteDue = true) (he : s.port.enable = true) :
    s.rewriteRecordIfDue = { s.rewriteStored with protect := { s.protect with rewriteDue := false } } := by
  simp only [State.rewriteRecordIfDue, h, he, Bool.and_self, if_true]
  rfl

theorem State.rewriteRecordIfDue_of_not_due {s : State} (h : ¬ (s.protect.rewriteDue = true ∧ s.port.enable = true)) :
    s.rewriteRecordIfDue = s := by
  simp only [State.rewriteRecordIfDue, Bool.and_eq_true, if_neg h]

theorem State.rewriteStored_kept (s : State) : keptOutside s s.rewriteStored (pageBytes s 0x418 ++ pageBytes s 0x41C) := by
  intro a ha
  obtain ⟨h1, h2⟩ := not_or.mp (List.mem_append.not.mp ha)
  exact (Memory.read_writeWord_other _ _ _ h2).trans (Memory.read_writeWord_other _ _ _ h1)

theorem State.rewriteStored_words {s : State} (hwf : s.mem.wf = true) :
    s.rewriteStored.pageWord 0x418 = countWord s.protect.furtherTrips ∧ s.rewriteStored.pageWord 0x41C = posWord s.position := by
  have hwf' := State.wf_storeWord hwf (s.pageAt 0x418) (countWord s.protect.furtherTrips)
  constructor
  · refine (State.pageWord_storeWord_other (s.storeWord _ _) _ (s.pageAt_apart (m := 0x418) (by decide) (by decide) (.inl (by decide)))).trans ?_
    exact State.pageWord_storeWord_same hwf _ _
  · exact State.pageWord_storeWord_same hwf' _ _

/-- Where the two words already stand, a rewrite changes no word (R147). -/
theorem State.rewriteStored_pageWord {s : State} (hwf : s.mem.wf = true)
    (h1 : s.pageWord 0x418 = countWord s.protect.furtherTrips) (h2 : s.pageWord 0x41C = posWord s.position) {off : Nat}
    (h4 : 4 ∣ off) (hoff : off < 0x1000) : s.rewriteStored.pageWord off = s.pageWord off := by
  obtain ⟨hcount, hpos⟩ := State.rewriteStored_words hwf
  by_cases ha : off = 0x418
  · rw [ha, hcount, h1]
  · by_cases hb : off = 0x41C
    · rw [hb, hpos, h2]
    · refine (State.pageWord_storeWord_other (s.storeWord _ _) _ (s.pageAt_apart (m := off) (by omega) (by decide) (by omega))).trans ?_
      exact State.pageWord_storeWord_other _ _ (s.pageAt_apart (by omega) (by decide) (by omega))

/-- A state whose page reads alike holds the same jam record. -/
theorem holdsJamRecord_congr {t u s : State} (hroom : s.records.length ≤ 32)
    (h : ∀ off, 4 ∣ off → off < 0x1000 → t.pageWord off = u.pageWord off) (hu : holdsJamRecord u s) : holdsJamRecord t s := by
  obtain ⟨h0, h1, h2, h3, h4, h5, h6, h7, h8, hentries⟩ := hu
  refine ⟨?_, ?_, ?_, ?_, fun p hp => ?_, ?_, ?_, ?_, ?_, fun i r hi => ?_⟩
  · rw [h _ (by decide) (by decide), h0]
  · rw [h _ (by decide) (by decide), h1]
  · rw [h _ (by decide) (by decide), h2]
  · rw [h _ (by decide) (by decide), h3]
  · rw [h _ (by decide) (by decide), h4 p hp]
  · rw [h _ (by decide) (by decide), h5]
  · rw [h _ (by decide) (by decide), h6]
  · rw [h _ (by decide) (by decide), h7]
  · rw [h _ (by decide) (by decide), h8]
  · have hi32 : i < 32 := lt_of_lt_of_le (List.getElem?_eq_some_iff.mp hi).1 hroom
    rw [h (0x430 + 16 * i) (by omega) (by omega), h (0x434 + 16 * i) (by omega) (by omega), h (0x438 + 16 * i) (by omega) (by omega)]
    exact hentries i r hi

/-- The occasion of R145. -/
abbrev jamRecordDue (s : State) : Prop :=
  s.protect.latch = true ∧ s.drive.still = true ∧ s.port.enable = true ∧ s.protect.recordWritten = false

theorem State.writeRecordIfDue_of_due {s : State} (h : jamRecordDue s) : s.writeRecordIfDue = s.writeJamRecord := by
  obtain ⟨h1, h2, h3, h4⟩ := h
  simp [State.writeRecordIfDue, h1, h2, h3, h4]

theorem State.writeRecordIfDue_of_not_due {s : State} (h : ¬ jamRecordDue s) : s.writeRecordIfDue = s := by
  unfold State.writeRecordIfDue
  rw [if_neg]
  simpa [jamRecordDue, and_assoc] using h

/-- The bytes of a word of the jam record's first twelve are bytes of the record. -/
theorem mem_jamBytes_of_header (s : State) (n : Nat) {off : Nat} (h4 : 4 ∣ off) (hlo : 0x400 ≤ off) (hhi : off < 0x430) {a : Nat}
    (ha : a ∈ pageBytes s off) : a ∈ jamBytes s n := by
  obtain ⟨q, rfl⟩ := h4
  refine List.mem_append_left _ ((mem_wordsBytes _ _).mpr ⟨q - 0x100, by rw [List.length_replicate]; omega, ?_⟩)
  rw [State.pageAt_add, show 0x400 + 4 * (q - 0x100) = 4 * q by omega]
  exact ha

/-- The state in which a due record has been stored (R145). -/
def State.jamRecorded (s : State) : State := { s.jamStored with protect := { s.protect with recordWritten := true } }

theorem State.jamRecorded_of_due {s : State} (h : jamRecordDue s) : s.writeRecordIfDue = s.jamRecorded := by
  rw [State.writeRecordIfDue_of_due h, State.writeJamRecord_eq, State.jamRecorded]

theorem State.jamRecorded_mem (s : State) : s.jamRecorded.mem = s.jamStored.mem := by
  rw [State.jamRecorded]

theorem State.jamRecorded_pageWord (s : State) (off : Nat) : s.jamRecorded.pageWord off = s.jamStored.pageWord off := by
  rw [State.pageWord, State.pageAt, State.jamRecorded, State.pageWord, State.pageAt]

theorem State.jamRecorded_holds {s : State} (hwf : s.mem.wf = true) (hroom : s.records.length ≤ 32) :
    holdsJamRecord s.jamRecorded s :=
  holdsJamRecord_congr hroom (fun off _ _ => s.jamRecorded_pageWord off) (State.jamStored_holds hwf hroom)

theorem State.jamRecorded_eq (s : State) :
    s.jamRecorded = { s with mem := s.jamRecorded.mem, protect := { s.protect with recordWritten := true } } := by
  rw [State.jamRecorded, State.jamStored_eq]

theorem State.jamRecorded_kept (s : State) : keptOutside s s.jamRecorded (jamBytes s s.records.length) := by
  intro a ha
  rw [State.jamRecorded_mem]
  exact s.jamStored_kept a ha

theorem State.jamRecorded_wf {s : State} (hwf : s.mem.wf = true) : s.jamRecorded.mem.wf = true := by
  rw [State.jamRecorded_mem, State.jamStored_mem]
  refine Memory.wf_writeWord ?_ _ _
  exact Memory.wf_writeWords (Memory.wf_writeWords hwf _ _) _ _

theorem State.pageWord_congr {s t : State} (hmem : t.mem = s.mem) (hpage : t.port.pageAddress = s.port.pageAddress) (off : Nat) :
    t.pageWord off = s.pageWord off := by
  rw [State.pageWord, State.pageAt, hmem, hpage, State.pageWord, State.pageAt]

theorem rewritten_eq {s m : State} {mem : Memory}
    (h : m = { s with mem := mem, protect := { s.protect with recordWritten := true } }) :
    { m.rewriteStored with protect := { m.protect with rewriteDue := false } } =
      { s with mem := m.rewriteStored.mem, protect := { s.protect with recordWritten := true, rewriteDue := false } } := by
  subst h
  rfl

/-- A rewrite due besides finds the record just stored, and stores what stands there (R145, R147). -/
theorem State.jamRecorded_rewritten {s : State} (hwf : s.mem.wf = true) (he : s.port.enable = true) (hroom : s.records.length ≤ 32) :
    holdsJamRecord s.jamRecorded.rewriteRecordIfDue s ∧ keptOutside s s.jamRecorded.rewriteRecordIfDue (jamBytes s s.records.length) ∧
      s.jamRecorded.rewriteRecordIfDue = { s with
        mem := s.jamRecorded.rewriteRecordIfDue.mem
        protect := { s.protect with recordWritten := true, rewriteDue := false } } := by
  have hholds := State.jamRecorded_holds hwf hroom
  have hkept := s.jamRecorded_kept
  have heq := s.jamRecorded_eq
  have hwf' := State.jamRecorded_wf hwf
  have ⟨_, _, _, _, _, _, hcount, hpos, _, _⟩ := hholds
  have hprotect : s.jamRecorded.protect = { s.protect with recordWritten := true } := rfl
  have hport : s.jamRecorded.port = s.port := by rw [heq]
  have hposition : s.jamRecorded.position = s.position := by rw [heq]
  generalize s.jamRecorded = m at *
  have hpage : ∀ off, pageBytes m off = pageBytes s off := fun off => by rw [pageBytes, State.pageAt, hport, pageBytes, State.pageAt]
  by_cases hr : s.protect.rewriteDue = true
  · rw [State.rewriteRecordIfDue_of_due (s := m) (by rw [hprotect]; exact hr) (by rw [hport]; exact he)]
    refine ⟨holdsJamRecord_congr (u := m) hroom (fun off h4 hoff => ?_) hholds, fun a ha => ?_, rewritten_eq heq⟩
    · refine (State.pageWord_congr (s := m.rewriteStored) rfl rfl off).trans ?_
      exact State.rewriteStored_pageWord hwf' (by rw [hcount, hprotect]; rfl) (by rw [hpos, hposition]; rfl) h4 hoff
    · refine (m.rewriteStored_kept a fun hmem => ha ?_).trans (hkept a ha)
      rw [hpage, hpage] at hmem
      exact (List.mem_append.mp hmem).elim (mem_jamBytes_of_header s _ (by decide) (by decide) (by decide))
        (mem_jamBytes_of_header s _ (by decide) (by decide) (by decide))
  · rw [State.rewriteRecordIfDue_of_not_due fun h => hr (by simpa [hprotect] using h.1)]
    refine ⟨hholds, hkept, heq.trans ?_⟩
    rw [← Bool.eq_false_of_not_eq_true hr]

theorem State.jamTended_done {s : State} (hwf : s.mem.wf = true) : jamTended s s.writeRecordIfDue.rewriteRecordIfDue := by
  refine ⟨fun hd hr => ?_, fun hd hr => ?_, fun hd hroom => ?_⟩
  · rw [State.writeRecordIfDue_of_not_due hd, State.rewriteRecordIfDue_of_not_due hr]
  · rw [State.writeRecordIfDue_of_not_due hd, State.rewriteRecordIfDue_of_due hr.1 hr.2]
    obtain ⟨hcount, hpos⟩ := State.rewriteStored_words hwf
    exact ⟨hcount, hpos, s.rewriteStored_kept, rfl⟩
  · rw [State.jamRecorded_of_due hd]
    exact State.jamRecorded_rewritten hwf hd.2.2.1 hroom

/-! ## The trays, the cells and the whole scan (R162, R167, R170, R172) -/

theorem State.scanTrays_done (s : State) : traysTended s s.scanTrays := by
  refine ⟨if s.reports.closeDue then s.closeTray .age else s, fun h => ?_, fun hc tr ht => ?_, fun he hh ht => ?_, fun h => ?_⟩
  · obtain h | h := h
    · simp [h]
    · rw [State.closeTray_of_none h, ite_self]
  · rw [if_pos hc]
    exact State.closeTray_closed ht .age
  · refine ⟨_, State.searchRack_searched _, congrArg Host.Outcome.next ?_⟩
    simp only [State.scanTrays, State.searchAndFile, he, ht]
    simp [hh]
  · simp only [State.scanTrays, State.searchAndFile]
    refine if_neg ?_
    obtain h | h | h := h <;> simp [h]

theorem State.canTake_iff (s : State) (i : Fin 8) :
    s.canTake i = true ↔ s.port.enable = true ∧ s.run.request.map (·.cell) ≠ some i := by
  simp [State.canTake]

theorem State.scanCell_done (s : State) (i : Fin 8) : partDone (.cell i) s (s.scanCell i) := by
  refine ⟨fun ⟨he, hr, hp⟩ => State.scanCell_of_taken ((s.canTake_iff i).mpr ⟨he, hr⟩) hp, fun h => State.scanCell_of_passed ?_⟩
  cases ht : s.canTake i with
  | false => exact .inl rfl
  | true =>
    obtain ⟨he, hr⟩ := (s.canTake_iff i).mp ht
    exact .inr fun hp => h ⟨he, hr, hp⟩

theorem State.scanPart_done {s : State} (hwf : s.mem.wf = true) (p : ScanPart) : partDone p s (s.scanPart p) := by
  cases p with
  | status => exact State.writeStatus_done hwf
  | jamRecord => exact State.jamTended_done hwf
  | trays => exact s.scanTrays_done
  | cell i => exact s.scanCell_done i

/-- The parts worked are done one after another. -/
theorem State.workScan_done (n : Nat) {s : State} (hwf : s.mem.wf = true) : partsDone n s (s.workScan n) := by
  induction n generalizing s with
  | zero => rfl
  | succ n ih =>
    refine ⟨fun h => State.workScan_of_nil h _, fun p rest h => ⟨_, State.scanPart_done (by exact hwf) p, ?_⟩⟩
    rw [State.workScan_succ h]
    exact ih ((State.scanPart_keepsUnlatched _ p).memory hwf)

theorem scanStart_wf {s : State} (hwf : s.mem.wf = true) (stores : List LineStore) (d : Nat) :
    (scanStart s stores d).mem.wf = true := by
  have hstores := State.wf_applyStores hwf stores
  unfold scanStart
  split
  · exact hstores
  · exact hstores

/-- A PAGE_SCAN that the timer, or a scan in progress, allows works its parts from the start of R170. -/
theorem execPageScan_of_scanStart {s : State} {d : Nat} (h : s.port.scanLeft = [] → s.port.scanTimer = some d) (x : ScanAct) :
    execPageScan x s = .next ((scanStart s x.stores d).workScan x.parts) := by
  by_cases hnil : s.port.scanLeft = []
  · rw [execPageScan_of_expiry x hnil (h hnil), scanStart, if_pos hnil]
    simp [State.reachTime, State.beginScan, scanParts]
  · rw [execPageScan_of_begun x hnil, scanStart, if_neg hnil]

/-- Settles O30. -/
theorem pageScanWritesStatusAndTakes : Obligations.PageScanWritesStatusAndTakes := by
  refine ⟨cellCommand_rows, fun s x => ⟨fun hleft ht => execPageScan_of_stopped x hleft ht, fun d hwf ht => ?_⟩⟩
  exact ⟨_, execPageScan_of_scanStart ht x, State.workScan_done _ (scanStart_wf hwf _ _), by simp⟩

end Sys2Proof.Machine

/-! PROOFS. Only a reset or a CLEAR JAM ends the jam (R141, R148, R170). -/

namespace Sys2Proof.Machine

open Sys2Proof.Safety

/-! ## Requests outside their run states (R173) -/

theorem State.decideLoadPlan_of_wrongState {s : State} (h : s.run.state ≠ .idle) (cell : Fin 8) (tag : Word) :
    s.decideLoadPlan cell tag = s.completeRequest cell tag .wrongState 0 := if_pos h

theorem State.decideStart_of_wrongState {s : State} (h : s.run.state ≠ .idle) (cell : Fin 8) (tag : Word) :
    s.decideStart cell tag = s.completeRequest cell tag .wrongState 0 := if_pos h

theorem State.decideLoadKiller_of_wrongState {s : State} (h : s.run.state ≠ .idle) (cell : Fin 8) (tag bank columns : Word) :
    s.decideLoadKiller cell tag bank columns = s.completeRequest cell tag .wrongState 0 := if_pos h

theorem State.decideClearJam_of_wrongState {s : State} (h : s.run.state ≠ .jammed) (cell : Fin 8) (tag : Word) :
    s.decideClearJam cell tag = s.completeRequest cell tag .wrongState 0 := if_pos h

theorem State.decideDrain_of_wrongState {s : State} (h : s.run.state ≠ .starting) (h' : s.run.state ≠ .running) (cell : Fin 8)
    (tag : Word) : s.decideDrain cell tag = s.completeRequest cell tag .wrongState 0 := by
  unfold State.decideDrain
  split
  · next hr => exact absurd hr h'
  · next hs => exact absurd hs h
  all_goals rfl

theorem State.decideStop_of_wrongState {s : State} (h : s.run.state ≠ .starting) (h' : s.run.state ≠ .running)
    (h'' : s.run.state ≠ .draining) (cell : Fin 8) (tag : Word) :
    s.decideStop cell tag = s.completeRequest cell tag .wrongState 0 := by
  unfold State.decideStop
  split
  · next hs => exact absurd hs h
  · next hr => exact absurd hr h'
  · next hd => exact absurd hd h''
  all_goals rfl

/-! ## What the parts of a scan leave alone in a jam -/

/-- No tray is open, no report held, and the jam record ends within its area: nothing a scan stores falls on a request cell. -/
abbrev nothingToFile (s : State) : Prop := s.reports.tray = none ∧ s.reports.held = [] ∧ s.records.length ≤ 32

/-- Of `s` and `t`: a cell POSTED in `t` was POSTED in `s`, and no request has changed its kind. -/
abbrev postedBefore (s t : State) : Prop :=
  ∀ j : Fin 8, (t.pageWord (requestOffset j 0) = cellPosted → s.pageWord (requestOffset j 0) = cellPosted) ∧
    t.pageWord (requestOffset j 1) = s.pageWord (requestOffset j 1)

/-- Of `s` and `t`: the belt, the cells and the run state are as they were, and with nothing to file no cell is POSTED anew. -/
structure Quiet (s t : State) : Prop where
  still : t.drive.still = s.drive.still := by simp
  cells : t.cellUnit.cells = s.cellUnit.cells := by simp
  state : t.run.state = s.run.state := by simp
  posted : s.mem.wf = true → nothingToFile s → t.mem.wf = true ∧ nothingToFile t ∧ postedBefore s t

theorem Quiet.refl (s : State) : Quiet s s where
  posted := fun hwf h => ⟨hwf, h, fun _ => ⟨id, rfl⟩⟩

theorem Quiet.trans {s t u : State} (h : Quiet s t) (h' : Quiet t u) : Quiet s u where
  still := h'.still.trans h.still
  cells := h'.cells.trans h.cells
  state := h'.state.trans h.state
  posted := fun hwf hfile => by
    obtain ⟨hwf', hfile', hposted⟩ := h.posted hwf hfile
    obtain ⟨hwf'', hfile'', hposted'⟩ := h'.posted hwf' hfile'
    exact ⟨hwf'', hfile'', fun j => ⟨(hposted j).1 ∘ (hposted' j).1, (hposted' j).2.trans (hposted j).2⟩⟩

theorem requestOffset_lt (j : Fin 8) {w : Nat} (hw : w < 8) : 0x100 ≤ requestOffset j w ∧ requestOffset j w + 3 < 0x200 := by
  have := j.isLt
  unfold requestOffset
  omega

/-- Pages that read alike below the status block have the same requests. -/
theorem postedBefore_of_words {s t : State} (h : ∀ off, off + 3 < 0x200 → t.pageWord off = s.pageWord off) : postedBefore s t :=
  fun j => ⟨fun hp => (h _ (requestOffset_lt j (by decide)).2).symm.trans hp, h _ (requestOffset_lt j (by decide)).2⟩

/-- A word stored at or above the status block. -/
theorem State.storeWord_quiet (s : State) {off : Nat} (hlo : 0x200 ≤ off) (hhi : off + 3 < 4294967296) (w : Word) :
    Quiet s (s.storeWord (s.pageAt off) w) where
  posted := fun hwf h => ⟨State.wf_storeWord hwf _ _, h, postedBefore_of_words fun off' hoff' =>
    State.pageWord_storeWord_other _ _ (s.pageAt_apart (by omega) hhi (.inl (by omega)))⟩

theorem State.storeWords_quiet (s : State) {off : Nat} {ws : List Word} (hlo : 0x200 ≤ off) (hhi : off + 4 * ws.length < 4294967296) :
    Quiet s (s.storeWords (s.pageAt off) ws) where
  posted := fun hwf h => ⟨State.wf_storeWords hwf _ _, h, postedBefore_of_words fun off' hoff' =>
    State.pageWord_storeWords_other s (by omega) hhi (.inl (by omega))⟩

/-- A change that leaves memory, the port, the reports and the number of records alone. -/
theorem Quiet.of_same {s t : State} (hmem : t.mem = s.mem) (hport : t.port = s.port) (hreports : t.reports = s.reports)
    (hrecords : t.records = s.records) (still : t.drive.still = s.drive.still) (cells : t.cellUnit.cells = s.cellUnit.cells)
    (state : t.run.state = s.run.state) : Quiet s t where
  still := still
  cells := cells
  state := state
  posted := fun hwf h => ⟨hmem ▸ hwf, by rw [nothingToFile, hreports, hrecords]; exact h,
    postedBefore_of_words fun off _ => State.pageWord_congr hmem (by rw [hport]) off⟩

theorem State.requestWords_apart_of_ne (s : State) {i j : Fin 8} {v w : Nat} (hv : v < 8) (hw : w < 8) (h : j ≠ i ∨ v ≠ w) :
    wordsApart (s.pageAt (requestOffset j v)) (s.pageAt (requestOffset i w)) := by
  have hoff : requestOffset j v + 3 < requestOffset i w ∨ requestOffset i w + 3 < requestOffset j v := by
    rw [Ne, ← Fin.val_inj] at h
    unfold requestOffset
    omega
  exact s.pageAt_apart (by have := (requestOffset_lt j hv).2; omega) (by have := (requestOffset_lt i hw).2; omega) hoff

/-- The words a completion leaves alone among those of the request cells. -/
theorem State.requestWord_completeRequest (s : State) {cell j : Fin 8} {v : Nat} (hv : v < 8)
    (h : j ≠ cell ∨ (v ≠ 0 ∧ v ≠ 2 ∧ v ≠ 6 ∧ v ≠ 7)) (tag : Word) (r : ResultCode) (value : Word) :
    (s.completeRequest cell tag r value).pageWord (requestOffset j v) = s.pageWord (requestOffset j v) := by
  have hapart : ∀ w, w < 8 → j ≠ cell ∨ v ≠ w → wordsApart (s.pageAt (requestOffset j v)) (s.pageAt (requestOffset cell w)) :=
    fun w hw hne => s.requestWords_apart_of_ne hv hw hne
  have hpage : (s.completeRequest cell tag r value).pageAt (requestOffset j v) = s.pageAt (requestOffset j v) := by
    simp [State.pageAt]
  rw [State.pageWord, hpage, State.completeRequest_mem,
    Memory.readWord_writeWord_other _ _ _ _ (hapart 0 (by decide) (h.imp_right (·.1))),
    Memory.readWord_writeWord_other _ _ _ _ (hapart 2 (by decide) (h.imp_right (·.2.1))),
    Memory.readWord_writeWord_other _ _ _ _ (hapart 7 (by decide) (h.imp_right (·.2.2.2))),
    Memory.readWord_writeWord_other _ _ _ _ (hapart 6 (by decide) (h.imp_right (·.2.2.1))), State.pageWord]

/-- A cell whose request is answered is POSTED no more (R173). -/
theorem State.completeRequest_quiet (s : State) (cell : Fin 8) (tag : Word) (r : ResultCode) (value : Word) :
    Quiet s (s.completeRequest cell tag r value) where
  posted := fun hwf h => by
    refine ⟨(s.completeRequest_keeps cell tag r value).memory hwf, by simpa [nothingToFile] using h, fun j => ⟨?_, ?_⟩⟩
    · obtain ⟨⟨hdone, -, -, -⟩, -, -⟩ := answered_of_completeRequest hwf cell tag r value
      by_cases hj : j = cell
      · rw [hj, hdone]
        exact fun hp => absurd hp (by decide)
      · rw [s.requestWord_completeRequest (by decide) (.inl hj)]
        exact id
    · exact s.requestWord_completeRequest (by decide) (.inr (by decide)) _ _ _

theorem State.takeCell_quiet (s : State) (cell : Fin 8) : Quiet s (s.takeCell cell) where
  posted := fun hwf h => by
    refine ⟨State.wf_storeWord hwf _ _, h, fun j => ⟨?_, ?_⟩⟩
    · by_cases hj : j = cell
      · rw [hj, State.takeCell, State.pageWord_storeWord_same hwf]
        exact fun hp => absurd hp (by decide)
      · rw [State.takeCell, State.pageWord_storeWord_other _ _ (s.requestWords_apart_of_ne (by decide) (by decide) (.inl hj))]
        exact id
    · exact State.pageWord_storeWord_other _ _ (s.requestWords_apart_of_ne (by decide) (by decide) (.inr (by decide)))

/-! ## The parts in a jam -/

theorem State.writeStatus_quiet (s : State) : Quiet s s.writeStatus :=
  s.storeWords_quiet (by decide) (by simp [State.statusWords, statusOffset])

theorem State.jamStored_quiet {s : State} (hroom : s.records.length ≤ 32) : Quiet s s.jamStored := by
  have hlen := flatMap_jamEntryWords_length s.records
  have hhead := s.jamHeader_length
  have h1 : Quiet s (s.storeWords (s.pageAt 0x404) s.jamHeader) := s.storeWords_quiet (by decide) (by omega)
  have h2 := (s.storeWords (s.pageAt 0x404) s.jamHeader).storeWords_quiet (off := 0x430) (ws := s.records.flatMap jamEntryWords)
    (by decide) (by omega)
  have h3 := State.storeWord_quiet ((s.storeWords (s.pageAt 0x404) s.jamHeader).storeWords (s.pageAt 0x430)
    (s.records.flatMap jamEntryWords)) (off := 0x400) (by decide) (by decide) recordComplete
  rw [State.jamStored]
  generalize s.jamHeader = header at *
  generalize s.records.flatMap jamEntryWords = entries at *
  exact (h1.trans h2).trans h3

theorem Quiet.of_protect (s : State) (p : Protect) : Quiet s { s with protect := p } :=
  .of_same rfl rfl rfl rfl rfl rfl rfl

theorem Quiet.of_tally (s : State) (y : Tally) : Quiet s { s with tally := y } :=
  .of_same rfl rfl rfl rfl rfl rfl rfl

/-- The jam record of at most 32 pieces ends within its area. -/
theorem State.jamRecorded_quiet (s : State) : Quiet s s.jamRecorded where
  still := by rw [s.jamRecorded_eq]
  cells := by rw [s.jamRecorded_eq]
  state := by rw [s.jamRecorded_eq]
  posted := fun hwf h => ((State.jamStored_quiet h.2.2).trans (.of_protect _ _)).posted hwf h

theorem State.rewriteRecordIfDue_quiet (s : State) : Quiet s s.rewriteRecordIfDue := by
  by_cases h : s.protect.rewriteDue = true ∧ s.port.enable = true
  · have hstored : Quiet s s.rewriteStored :=
      (s.storeWord_quiet (off := 0x418) (by decide) (by decide) _).trans
        (State.storeWord_quiet _ (off := 0x41C) (by decide) (by decide) _)
    rw [State.rewriteRecordIfDue_of_due h.1 h.2]
    exact hstored.trans (.of_protect _ _)
  · rw [State.rewriteRecordIfDue_of_not_due h]
    exact .refl s

theorem State.writeRecordIfDue_quiet (s : State) : Quiet s s.writeRecordIfDue := by
  by_cases h : jamRecordDue s
  · rw [State.jamRecorded_of_due h]
    exact s.jamRecorded_quiet
  · rw [State.writeRecordIfDue_of_not_due h]
    exact .refl s

theorem State.scanTrays_quiet (s : State) : Quiet s s.scanTrays where
  still := by unfold State.scanTrays; split <;> simp
  cells := by unfold State.scanTrays; split <;> simp
  state := by unfold State.scanTrays; split <;> simp
  posted := fun hwf h => by
    have hnone : s.scanTrays = s := by
      simp [State.scanTrays, State.closeTray_of_none h.1, State.searchAndFile, h.2.1]
    rw [hnone]
    exact (Quiet.refl s).posted hwf h

theorem State.decideSetImpression_quiet (s : State) (cell : Fin 8) (tag slot columns : Word) :
    Quiet s (s.decideSetImpression cell tag slot columns) := by
  have hanswer := s.completeRequest_quiet cell tag
  simp only [State.decideSetImpression]
  split
  · exact hanswer _ _
  · split
    · exact hanswer _ _
    · split
      · exact hanswer _ _
      · refine Quiet.trans ?_ (State.completeRequest_quiet _ _ _ _ _)
        exact .of_same (by simp) (by simp) (by simp) (by simp) (by simp) (by simp) (by simp)

theorem State.decideSetStacker_quiet (s : State) (cell : Fin 8) (tag stacker service : Word) :
    Quiet s (s.decideSetStacker cell tag stacker service) := by
  simp only [State.decideSetStacker]
  split
  · exact s.completeRequest_quiet _ _ _ _
  · refine Quiet.trans ?_ (State.completeRequest_quiet _ _ _ _ _)
    exact .of_same rfl rfl rfl rfl rfl rfl rfl

theorem State.writeTallyArea_quiet (s : State) (clear : Word) : Quiet s (s.writeTallyArea clear) := by
  simp only [State.writeTallyArea]
  refine (s.storeWords_quiet (off := tallyOffset) (by decide) (by simp [tallyOffset])).trans
    (State.storeWords_quiet _ (off := tallyOffset + 32) (by decide) (by simp [tallyOffset]))

theorem State.decideSnapshot_quiet (s : State) (cell : Fin 8) (tag clear : Word) : Quiet s (s.decideSnapshot cell tag clear) := by
  simp only [State.decideSnapshot]
  split
  · exact s.completeRequest_quiet _ _ _ _
  · refine Quiet.trans ?_ (State.completeRequest_quiet _ _ _ _ _)
    have harea := (Quiet.of_tally s { s.tally with snapshot := s.tally.snapshot + 1 }).trans (State.writeTallyArea_quiet _ clear)
    split
    · exact harea.trans (.of_tally _ _)
    · exact harea

theorem State.decideCloseTray_quiet (s : State) (cell : Fin 8) (tag : Word) : Quiet s (s.decideCloseTray cell tag) := by
  unfold State.decideCloseTray
  split
  · exact s.completeRequest_quiet _ _ _ _
  · next tr ht => exact ⟨by simp, by simp, by simp, fun _ h => absurd h.1 (by simp [ht])⟩

/-! ## What a request does in a jam -/

/-- CLEAR JAM is refused while the belt steps or a cell is covered (R148). -/
theorem State.decideClearJam_refused {s : State} {cell : Fin 8} {tag : Word}
    (h : s.drive.still = false ∨ ∃ c, (s.cell c).covered = true) :
    ∃ r value, s.decideClearJam cell tag = s.completeRequest cell tag r value := by
  unfold State.decideClearJam
  split
  · exact ⟨_, _, rfl⟩
  · split
    · exact ⟨_, _, rfl⟩
    · next hstill =>
      split
      · exact ⟨_, _, rfl⟩
      · next hnone =>
        obtain ⟨c, hc⟩ := h.resolve_left hstill
        have := List.find?_eq_none.mp hnone c (by cases c with | stk k => cases k <;> decide | _ => decide)
        exact absurd hc this

/-- In a jam every request but a CLEAR JAM on a still belt with every cell uncovered leaves the belt, the cells and the run alone. -/
theorem State.decideRequest_quiet {s : State} (hjam : s.run.state = .jammed) (q : Request)
    (h : q.kind.toNat = 10 → s.drive.still = false ∨ ∃ c, (s.cell c).covered = true) : Quiet s (s.decideRequest q) := by
  unfold State.decideRequest State.onRequest
  split
  · refine (s.takeCell_quiet q.cell).trans ?_
    have hstate : (s.takeCell q.cell).run.state = .jammed := hjam
    have hrefused := State.completeRequest_quiet (s.takeCell q.cell) q.cell q.tag .wrongState 0
    beta_reduce
    split
    · rw [State.decideLoadPlan_of_wrongState (by rw [hstate]; decide)]
      exact hrefused
    · rw [State.decideStart_of_wrongState (by rw [hstate]; decide)]
      exact hrefused
    · rw [State.decideDrain_of_wrongState (by rw [hstate]; decide) (by rw [hstate]; decide)]
      exact hrefused
    · rw [State.decideStop_of_wrongState (by rw [hstate]; decide) (by rw [hstate]; decide) (by rw [hstate]; decide)]
      exact hrefused
    · exact State.decideSetImpression_quiet _ _ _ _ _
    · rw [State.decideLoadKiller_of_wrongState (by rw [hstate]; decide)]
      exact hrefused
    · exact State.decideSetStacker_quiet _ _ _ _ _
    · exact State.decideSnapshot_quiet _ _ _ _
    · exact State.decideCloseTray_quiet _ _ _
    · next h10 =>
      obtain ⟨r, value, hr⟩ := State.decideClearJam_refused (s := s.takeCell q.cell) (cell := q.cell) (tag := q.tag) (h h10)
      rw [hr]
      exact State.completeRequest_quiet _ _ _ _ _
    · exact State.completeRequest_quiet _ _ _ _ _
  · exact .refl s

/-- A request leaves the latch set unless it is a CLEAR JAM on a still belt with every cell uncovered. -/
theorem State.decideRequest_latch {s : State} {q : Request}
    (h : q.kind.toNat = 10 → s.drive.still = false ∨ ∃ c, (s.cell c).covered = true) (hlatch : s.protect.latch = true) :
    (s.decideRequest q).protect.latch = true := by
  by_cases h10 : q.kind.toNat = 10
  · rw [s.decideRequest_of_clearJam h10]
    unfold State.onRequest
    split
    · obtain ⟨r, value, hr⟩ := State.decideClearJam_refused (s := s.takeCell q.cell) (cell := q.cell) (tag := q.tag) (h h10)
      beta_reduce
      rw [hr]
      exact (State.completeRequest_keeps _ _ _ _ _).latch hlatch
    · exact hlatch
  · exact (s.decideRequest_keeps h10).latch hlatch

/-- Of `s`: the part is a cell whose request is a CLEAR JAM that takes effect. -/
def clearsJam (s : State) (p : ScanPart) : Prop :=
  ∃ i, p = .cell i ∧ takesCell s i ∧ s.pageWord (requestOffset i 1) = 10 ∧ s.drive.still = true ∧ ∀ c, (s.cell c).covered = false

/-- A cell taken with a kind that clears no jam: the kind is another, the belt steps, or a cell is covered. -/
theorem not_clears_of_not_clearsJam {s : State} {i : Fin 8} (h : ¬ clearsJam s (.cell i)) (hcan : s.canTake i = true)
    (hposted : s.pageWord (requestOffset i 0) = cellPosted) (h10 : (s.readRequest i).kind.toNat = 10) :
    s.drive.still = false ∨ ∃ c, (s.cell c).covered = true := by
  obtain ⟨henable, hrequest⟩ := (s.canTake_iff i).mp hcan
  by_contra hno
  simp only [not_or, not_exists, Bool.not_eq_true, Bool.not_eq_false] at hno
  exact h ⟨i, rfl, ⟨henable, hrequest, hposted⟩, BitVec.eq_of_toNat_eq h10, hno⟩

/-- In a jam every part of a scan but such a cell leaves the belt, the cells and the run alone. -/
theorem State.scanPart_quiet {s : State} (hjam : s.run.state = .jammed) {p : ScanPart} (h : ¬ clearsJam s p) :
    Quiet s (s.scanPart p) := by
  cases p with
  | status => exact s.writeStatus_quiet
  | jamRecord => exact s.writeRecordIfDue_quiet.trans (State.rewriteRecordIfDue_quiet _)
  | trays => exact s.scanTrays_quiet
  | cell i =>
    simp only [State.scanPart, State.scanCell]
    split
    · next htaken =>
      obtain ⟨hcan, hposted⟩ := (Bool.and_eq_true _ _).mp htaken
      exact State.decideRequest_quiet hjam _ (not_clears_of_not_clearsJam h hcan (eq_of_beq hposted))
    · exact .refl s

/-- Every part of a scan but such a cell leaves the latch set. -/
theorem State.scanPart_latch {s : State} {p : ScanPart} (h : ¬ clearsJam s p) (hlatch : s.protect.latch = true) :
    (s.scanPart p).protect.latch = true := by
  cases p with
  | status => exact (s.storeWords_keeps _ _).latch hlatch
  | jamRecord => exact (s.writeRecordIfDue_keeps.trans (State.rewriteRecordIfDue_keeps _)).latch hlatch
  | trays => exact s.scanTrays_keeps.latch hlatch
  | cell i =>
    simp only [State.scanPart, State.scanCell]
    split
    · next htaken =>
      obtain ⟨hcan, hposted⟩ := (Bool.and_eq_true _ _).mp htaken
      exact State.decideRequest_latch (not_clears_of_not_clearsJam h hcan (eq_of_beq hposted)) hlatch
    · exact hlatch

/-! ## A scan that ends the jam -/

/-- A scan that clears a set latch comes to a cell whose CLEAR JAM takes effect, the belt, the cells and the run being till then as the
scan found them. -/
theorem State.workScan_clears (n : Nat) {s : State} (hjam : jamSafe s ∧ motorFollows s ∧ pocketHeld s)
    (hlatch : s.protect.latch = true) (hclear : (s.workScan n).protect.latch = false) :
    ∃ m < n, ∃ p rest, (s.workScan m).port.scanLeft = p :: rest ∧ clearsJam (s.workScan m) p ∧ Quiet s (s.workScan m) := by
  induction n generalizing s with
  | zero => exact absurd hlatch (by rw [show s.protect.latch = false from hclear]; decide)
  | succ n ih =>
    cases hleft : s.port.scanLeft with
    | nil =>
      rw [State.workScan_of_nil hleft, hlatch] at hclear
      exact absurd hclear (by decide)
    | cons p rest =>
      by_cases hp : clearsJam s p
      · exact ⟨0, Nat.succ_pos n, p, rest, hleft, hp, .refl s⟩
      · have hfirst : Quiet s { s with port := { s.port with scanLeft := rest } } :=
          { posted := fun hwf h => ⟨hwf, h, fun _ => ⟨id, rfl⟩⟩ }
        have hjam' : jamSafe { s with port := { s.port with scanLeft := rest } } ∧
            motorFollows { s with port := { s.port with scanLeft := rest } } ∧
            pocketHeld { s with port := { s.port with scanLeft := rest } } := hjam
        have hp' : ¬ clearsJam { s with port := { s.port with scanLeft := rest } } p := hp
        have hlatch' : ({ s with port := { s.port with scanLeft := rest } } : State).protect.latch = true := hlatch
        simp only [State.workScan_succ hleft] at hclear
        have hnext : ∀ m, s.workScan (m + 1) = _ := State.workScan_succ hleft
        generalize ({ s with port := { s.port with scanLeft := rest } } : State) = u at *
        obtain ⟨m, hm, p', rest', hleft', hclears, hquiet⟩ :=
          ih ((State.scanPart_keepsUnlatched _ p).jam hjam') (State.scanPart_latch hp' hlatch') hclear
        refine ⟨m + 1, Nat.succ_lt_succ hm, p', rest', ?_⟩
        rw [hnext]
        exact ⟨hleft', hclears, (hfirst.trans (State.scanPart_quiet (hjam'.1.1.mp hlatch') hp')).trans hquiet⟩

/-- Such a scan takes a CLEAR JAM, on a still belt with every cell uncovered (R148, R170). -/
theorem takesClearJam_of_latch {s : State} {x : ScanAct} {d : Nat} (htimer : s.port.scanLeft = [] → s.port.scanTimer = some d)
    (hjam : jamSafe s ∧ motorFollows s ∧ pocketHeld s) (hlatch : s.protect.latch = true)
    (hclear : ((scanStart s x.stores d).workScan x.parts).protect.latch = false) :
    s.drive.still = true ∧ (∀ k, (s.cell k).covered = false) ∧ (s.mem.wf = true → takesClearJam s x) := by
  have hkeeps : Keeps s (scanStart s x.stores d) := by
    unfold scanStart
    split
    · exact (s.applyStores_keeps x.stores).trans { seen := by simp [seenOnlySet] }
    · exact s.applyStores_keeps x.stores
  have hstill : (scanStart s x.stores d).drive.still = s.drive.still := by
    unfold scanStart; split <;> simp
  have hcells : (scanStart s x.stores d).cellUnit.cells = s.cellUnit.cells := by
    unfold scanStart; split <;> simp
  obtain ⟨m, hm, p, rest, hleft, ⟨i, rfl, htakes, h10, hs, hc⟩, hquiet⟩ :=
    State.workScan_clears x.parts (hkeeps.jam hjam) (hkeeps.latch hlatch) hclear
  refine ⟨?_, fun k => ?_, fun hwf => ?_⟩
  · rw [← hstill, ← hquiet.still, hs]
  · have := hc k
    rwa [State.cell, hquiet.cells, hcells] at this
  · have hwf' := scanStart_wf hwf x.stores d
    refine ⟨d, m, i, _, htimer, hm, State.workScan_done m hwf', by rw [hleft]; rfl, htakes, h10, fun htray hheld hroom => ?_⟩
    have hfile : nothingToFile (scanStart s x.stores d) := by
      unfold nothingToFile scanStart
      split <;> simp [htray, hheld, hroom]
    obtain ⟨-, -, hposted⟩ := hquiet.posted hwf' hfile
    have hmem : (s.applyStores x.stores).mem = (scanStart s x.stores d).mem := by
      unfold scanStart; split <;> rfl
    have hpage : (s.applyStores x.stores).port.pageAddress = (scanStart s x.stores d).port.pageAddress := by
      unfold scanStart; split <;> simp
    have hword := fun off => State.pageWord_congr hmem hpage off
    rw [hword, hword]
    exact ⟨(hposted i).1 htakes.2.2, (hposted i).2.symm.trans h10⟩

/-! ## The commands that can clear the latch -/

/-- ENABLE 0 clears the latch by a CLEAR JAM that the rest of the page scan takes (log entry 34). -/
theorem State.disablePort_latch {s : State} (hjam : jamSafe s ∧ motorFollows s ∧ pocketHeld s) (hlatch : s.protect.latch = true)
    (hclear : s.disablePort.protect.latch = false) :
    s.drive.still = true ∧ (∀ k, (s.cell k).covered = false) ∧
      (s.mem.wf = true → takesClearJam s ⟨[], s.port.scanLeft.length⟩) := by
  have hscan : (s.workScan s.port.scanLeft.length).protect.latch = false := by
    cases he : s.port.enable with
    | true =>
      rw [State.disablePort_of_scan he] at hclear
      split at hclear
      · exact hclear
      · exact hclear
    | false =>
      rw [State.disablePort_of_disabled he, hlatch] at hclear
      exact absurd hclear (by decide)
  by_cases hleft : s.port.scanLeft = []
  · rw [State.workScan_of_nil hleft, hlatch] at hscan
    exact absurd hscan (by decide)
  · refine takesClearJam_of_latch (x := ⟨[], s.port.scanLeft.length⟩) (d := 0) (absurd · hleft) hjam hlatch ?_
    rw [scanStart, if_neg hleft]
    exact hscan

theorem State.writeControl_latch {s : State} {v : Word} (hjam : jamSafe s ∧ motorFollows s ∧ pocketHeld s) (hlatch : s.protect.latch = true)
    (hclear : (s.writeControl v).protect.latch = false) :
    v.getLsbD 1 = true ∨ (v.getLsbD 0 = false ∧ s.drive.still = true ∧ (∀ k, (s.cell k).covered = false) ∧
      (s.mem.wf = true → takesClearJam { s with port := { s.port with scanTap := newTap s (v.extractLsb' 4 3) } }
        ⟨[], s.port.scanLeft.length⟩)) := by
  cases hv : v.getLsbD 1 with
  | true => exact .inl rfl
  | false =>
    refine .inr ?_
    cases hv0 : v.getLsbD 0 with
    | true =>
      rw [s.writeControl_of_enable hv hv0, ((s.writeScanTap_keeps _).trans (State.enablePort_keeps _)).latch hlatch] at hclear
      exact absurd hclear (by decide)
    | false =>
      rw [s.writeControl_of_disable hv hv0, State.writeScanTap_eq] at hclear
      exact ⟨rfl, State.disablePort_latch (s := s.withTap (newTap s (v.extractLsb' 4 3))) hjam hlatch hclear⟩

/-- CLEAR JAM clears the latch on a still belt with every cell uncovered. -/
theorem State.onClearJam_latch {s : State} {cell : Fin 8} {tag : Word} (hlatch : s.protect.latch = true)
    (hclear : (s.onRequest cell (fun t => t.decideClearJam cell tag)).protect.latch = false) :
    s.drive.still = true ∧ ∀ k, (s.cell k).covered = false := by
  by_contra hno
  have h : s.drive.still = false ∨ ∃ c, (s.cell c).covered = true := by
    rcases not_and_or.mp hno with h | h
    · exact .inl (by simpa using h)
    · exact .inr (by simpa using h)
  have := State.decideRequest_latch (q := ⟨cell, 10, tag, 0, 0, 0⟩) (fun _ => h) hlatch
  rw [State.decideRequest_of_clearJam _ (by rfl), hclear] at this
  exact absurd this (by decide)

/-- A page scan clears the latch by a CLEAR JAM it takes. -/
theorem execPageScan_latch {s t : State} {x : ScanAct} (hjam : jamSafe s ∧ motorFollows s ∧ pocketHeld s)
    (h : execPageScan x s = .next t) (hlatch : s.protect.latch = true) (hclear : t.protect.latch = false) :
    s.drive.still = true ∧ (∀ k, (s.cell k).covered = false) ∧ (s.mem.wf = true → takesClearJam s x) := by
  by_cases hstop : s.port.scanLeft = [] ∧ s.port.scanTimer = none
  · rw [execPageScan_of_stopped x hstop.1 hstop.2] at h
    have := (s.applyStores_keeps x.stores).latch hlatch
    rw [Host.Outcome.next.inj h, hclear] at this
    exact absurd this (by decide)
  · have htimer : ∃ d, s.port.scanLeft = [] → s.port.scanTimer = some d := by
      cases ht : s.port.scanTimer with
      | none => exact ⟨0, fun hleft => absurd ⟨hleft, ht⟩ hstop⟩
      | some d => exact ⟨d, fun _ => rfl⟩
    obtain ⟨d, hd⟩ := htimer
    rw [execPageScan_of_scanStart hd] at h
    exact takesClearJam_of_latch hd hjam hlatch (Host.Outcome.next.inj h ▸ hclear)

/-- Settles O55: every act keeps the outputs of a jam safe, and every command that clears the latch is one that may. -/
theorem stepKeepsJamSafe : Obligations.StepKeepsJamSafe := by
  refine fun s t hjam h => ⟨(step_keepsUnlatched h).jam hjam, fun hlatch hclear => ?_⟩
  unfold step at h
  split at h
  · next c rest hpending =>
    refine ⟨c, rest, hpending, ?_⟩
    cases hc : freesLatch c with
    | false => exact absurd hclear (by rw [(exec_keeps hc h).latch hlatch]; decide)
    | true =>
      have hcontrol : ∀ v, Host.Outcome.next (({ s with pending := rest } : State).writeControl v) =
          (.next t : Host.Outcome State Fault Refusal) → _ := fun v h =>
        State.writeControl_latch (s := { s with pending := rest }) hjam hlatch (Host.Outcome.next.inj h ▸ hclear)
      cases c with
      | resetInput => exact .inl rfl
      | controlReset => exact .inr (.inl rfl)
      | setEnable v =>
        rcases hcontrol v h with hv | ⟨hv, hstill, hcells, htakes⟩
        · exact .inr (.inr (.inl ⟨v, hv, .inl rfl⟩))
        · exact .inr (.inr (.inr ⟨hstill, hcells, .inr (.inr ⟨v, hv, .inl rfl, htakes⟩)⟩))
      | clearEnable v =>
        rcases hcontrol v h with hv | ⟨hv, hstill, hcells, htakes⟩
        · exact .inr (.inr (.inl ⟨v, hv, .inr (.inl rfl)⟩))
        · exact .inr (.inr (.inr ⟨hstill, hcells, .inr (.inr ⟨v, hv, .inr (.inl rfl), htakes⟩)⟩))
      | scanTap v =>
        rcases hcontrol v h with hv | ⟨hv, hstill, hcells, htakes⟩
        · exact .inr (.inr (.inl ⟨v, hv, .inr (.inr rfl)⟩))
        · exact .inr (.inr (.inr ⟨hstill, hcells, .inr (.inr ⟨v, hv, .inr (.inr rfl), htakes⟩)⟩))
      | pageScan x =>
        obtain ⟨hstill, hcells, htakes⟩ := execPageScan_latch (s := { s with pending := rest }) hjam h hlatch hclear
        exact .inr (.inr (.inr ⟨hstill, hcells, .inr (.inl ⟨x, rfl, htakes⟩)⟩))
      | clearJam cell tag =>
        obtain ⟨hstill, hcells⟩ := State.onClearJam_latch (s := { s with pending := rest }) hlatch (Host.Outcome.next.inj h ▸ hclear)
        exact .inr (.inr (.inr ⟨hstill, hcells, .inl ⟨cell, tag, rfl⟩⟩))
      | _ => simp [freesLatch] at hc
  · rw [← Host.Outcome.next.inj h, s.idleStep_keeps.latch hlatch] at hclear
    exact absurd hclear (by decide)

end Sys2Proof.Machine

/-! PROOFS. The requests that load a bank, a slot and a plan, and the refusals of requests (sections 6.1, 8.3, 11.3, 11.4). -/

namespace Sys2Proof.Machine

open Sys2Proof.Safety

/-- A request decided by its answer alone changes nothing but its cell (R173). -/
theorem exec_answered {i : Instr} {s : State} {cell : Fin 8} {tag : Word} {decision : State → State} {r : ResultCode} {value : Word}
    (hwf : s.mem.wf = true) (htake : s.canTake cell = true) (hexec : exec i s = .next (s.onRequest cell decision))
    (hdecision : decision (s.takeCell cell) = (s.takeCell cell).completeRequest cell tag r value) :
    ∃ t, exec i s = .next t ∧ answered s t cell tag r value ∧ t = { s with mem := t.mem, port := t.port } := by
  refine ⟨_, hexec, ?_⟩
  rw [State.onRequest_of_canTake htake, hdecision]
  exact answered_takeCell hwf cell tag r value

theorem exec_loadPlan (s : State) (cell : Fin 8) (tag : Word) :
    exec (.loadPlan cell tag) s = .next (s.onRequest cell fun t => t.decideLoadPlan cell tag) := rfl

theorem exec_start (s : State) (cell : Fin 8) (tag : Word) :
    exec (.start cell tag) s = .next (s.onRequest cell fun t => t.decideStart cell tag) := rfl

theorem exec_drain (s : State) (cell : Fin 8) (tag : Word) :
    exec (.drain cell tag) s = .next (s.onRequest cell fun t => t.decideDrain cell tag) := rfl

theorem exec_stop (s : State) (cell : Fin 8) (tag : Word) :
    exec (.stop cell tag) s = .next (s.onRequest cell fun t => t.decideStop cell tag) := rfl

theorem exec_setImpression (s : State) (cell : Fin 8) (tag slot columns : Word) :
    exec (.setImpression cell tag slot columns) s =
      .next (s.onRequest cell fun t => t.decideSetImpression cell tag slot columns) := rfl

theorem exec_loadKiller (s : State) (cell : Fin 8) (tag bank columns : Word) :
    exec (.loadKiller cell tag bank columns) s = .next (s.onRequest cell fun t => t.decideLoadKiller cell tag bank columns) := rfl

theorem exec_snapshotTallies (s : State) (cell : Fin 8) (tag clear : Word) :
    exec (.snapshotTallies cell tag clear) s = .next (s.onRequest cell fun t => t.decideSnapshot cell tag clear) := rfl

theorem exec_clearJam (s : State) (cell : Fin 8) (tag : Word) :
    exec (.clearJam cell tag) s = .next (s.onRequest cell fun t => t.decideClearJam cell tag) := rfl

/-- Settles O42: each request tests the run state first. -/
theorem wrongStateIsRefused : Obligations.WrongStateIsRefused := by
  intro s cell tag bank columns hwf htake
  have hstate : (s.takeCell cell).run.state = s.run.state := rfl
  refine ⟨fun h => ⟨?_, ?_, ?_⟩, fun h h' => ?_, fun h h' h'' => ?_, fun h => ?_⟩
  · exact exec_answered hwf htake (exec_loadPlan s cell tag) (State.decideLoadPlan_of_wrongState (hstate ▸ h) _ _)
  · exact exec_answered hwf htake (exec_start s cell tag) (State.decideStart_of_wrongState (hstate ▸ h) _ _)
  · exact exec_answered hwf htake (exec_loadKiller s cell tag bank columns)
      (State.decideLoadKiller_of_wrongState (hstate ▸ h) _ _ _ _)
  · exact exec_answered hwf htake (exec_drain s cell tag) (State.decideDrain_of_wrongState (hstate ▸ h) (hstate ▸ h') _ _)
  · exact exec_answered hwf htake (exec_stop s cell tag)
      (State.decideStop_of_wrongState (hstate ▸ h) (hstate ▸ h') (hstate ▸ h'') _ _)
  · exact exec_answered hwf htake (exec_clearJam s cell tag) (State.decideClearJam_of_wrongState (hstate ▸ h) _ _)

/-! ## Images (R90, R91) -/

/-- TAKEN is written below the staging area. -/
theorem State.stagedColumns_takeCell (s : State) (cell : Fin 8) {n : Nat} (hn : n ≤ 96) :
    (s.takeCell cell).stagedColumns n = s.stagedColumns n := by
  refine List.map_congr_left fun c hc => ?_
  have hlt : c < n := List.mem_range.mp hc
  exact State.pageWord_storeWord_other _ _ (wordsApart_requestOffset s (by unfold stagingOffset; omega)
    (by unfold stagingOffset; omega) cell (by decide))

/-- The columns SET IMPRESSION and LOAD KILLER refuse. -/
theorem inRange_eq_false_iff (lo hi x : Nat) : inRange lo hi x = false ↔ x < lo ∨ hi < x := by
  simp only [inRange, Bool.and_eq_false_iff, decide_eq_false_iff_not]
  omega

/-- The printer as a load leaves it. -/
def State.withPrinter (s : State) (p : Printer) : State := { s with printer := p }

/-- A load made on the TAKEN state and answered. -/
theorem State.withPrinter_answered {s : State} (hwf : s.mem.wf = true) (cell : Fin 8) (p : Printer) (tag : Word) (r : ResultCode)
    (value : Word) :
    let t := ((s.takeCell cell).withPrinter p).completeRequest cell tag r value
    answered s t cell tag r value ∧ t.printer = p ∧ t = { s with mem := t.mem, port := t.port, printer := p } :=
  ⟨answered_completeRequest (u := (s.takeCell cell).withPrinter p) hwf rfl rfl tag r value, rfl,
    State.completeRequest_eq _ _ _ _ _⟩

/-- The bank LOAD KILLER loads. -/
def Printer.withBank (p : Printer) (b : Fin 4) (columns : List Word) : Printer := { p with banks := put p.banks b columns }

theorem State.decideLoadKiller_of_bad {s : State} {bank columns : Word} (hidle : s.run.state = .idle)
    (h : 4 ≤ bank.toNat ∨ columns.toNat < 1 ∨ 96 < columns.toNat) (cell : Fin 8) (tag : Word) :
    s.decideLoadKiller cell tag bank columns = s.completeRequest cell tag .badArgument 0 := by
  rw [State.decideLoadKiller, if_neg (not_not.mpr hidle), if_pos (h.imp_right (inRange_eq_false_iff _ _ _).mpr)]

theorem State.decideLoadKiller_of_good {s : State} {bank columns : Word} (hidle : s.run.state = .idle)
    (h : ¬ (4 ≤ bank.toNat ∨ columns.toNat < 1 ∨ 96 < columns.toNat)) (cell : Fin 8) (tag : Word) :
    s.decideLoadKiller cell tag bank columns =
      (s.withPrinter (s.printer.withBank (Fin.ofNat 4 bank.toNat) (s.stagedColumns columns.toNat))).completeRequest cell tag .ok
        columns := by
  rw [State.decideLoadKiller, if_neg (not_not.mpr hidle), if_neg (mt (Or.imp_right (inRange_eq_false_iff _ _ _).mp) h)]
  rfl

/-- Settles O48. -/
theorem loadKillerRule : Obligations.LoadKillerRule := by
  intro s cell tag bank columns hwf htake bad b
  have hexec := exec_loadKiller s cell tag bank columns
  have hstate : (s.takeCell cell).run.state = s.run.state := rfl
  have hprinter : (s.takeCell cell).printer = s.printer := rfl
  refine ⟨fun h => exec_answered hwf htake hexec (State.decideLoadKiller_of_wrongState (hstate ▸ h) _ _ _ _), fun h hbad =>
    exec_answered hwf htake hexec (State.decideLoadKiller_of_bad (hstate.trans h) hbad _ _), fun h hgood => ⟨_, hexec, ?_⟩⟩
  have hcolumns : columns.toNat ≤ 96 := by simp only [bad] at hgood; omega
  rw [State.onRequest_of_canTake htake]
  rw [State.decideLoadKiller_of_good (hstate.trans h) hgood, s.stagedColumns_takeCell cell hcolumns, hprinter]
  obtain ⟨hanswered, hload, hframe⟩ :=
    State.withPrinter_answered hwf cell (s.printer.withBank b (s.stagedColumns columns.toNat)) tag .ok columns
  refine ⟨hanswered, ?_, fun c hc => ?_, fun k hk => ?_, ?_⟩
  · rw [hload, Printer.withBank, get_put_same, State.stagedColumns, List.length_map, List.length_range]
  · rw [hload, Printer.withBank, get_put_same]
    simp [State.stagedColumns, hc, stagingOffset]
  · rw [hload]
    exact get_put_other _ _ hk
  · rw [hload]
    exact hframe

/-- The slot SET IMPRESSION loads; a slot not in place becomes the pending one (R90). -/
def Printer.withDie (p : Printer) (i : Fin 2) (columns : List Word) : Printer :=
  { p with
    slots := put p.slots i { p.slots.get i with columns := columns }
    waiting := if i = p.active then p.waiting else some i }

theorem State.loadSlot_eq (s : State) (i : Fin 2) (columns : List Word) :
    s.loadSlot i columns = s.withPrinter (s.printer.withDie i columns) := by
  simp only [State.loadSlot, State.withPrinter, Printer.withDie]
  split <;> rfl

section
variable {s : State} {cell : Fin 8} {tag slot columns : Word}

theorem State.decideSetImpression_of_bad (h : 2 ≤ slot.toNat ∨ columns.toNat < 1 ∨ 64 < columns.toNat) :
    s.decideSetImpression cell tag slot columns = s.completeRequest cell tag .badArgument 0 := by
  rw [State.decideSetImpression, if_pos (h.imp_right (inRange_eq_false_iff _ _ _).mpr)]

theorem State.decideSetImpression_of_active (h : ¬ (2 ≤ slot.toNat ∨ columns.toNat < 1 ∨ 64 < columns.toNat))
    (hactive : Fin.ofNat 2 slot.toNat = s.printer.active) (hrun : s.run.state ≠ .idle) :
    s.decideSetImpression cell tag slot columns = s.completeRequest cell tag .slotActive 0 := by
  rw [State.decideSetImpression, if_neg (mt (Or.imp_right (inRange_eq_false_iff _ _ _).mp) h)]
  exact if_pos ⟨hactive, hrun⟩

theorem State.decideSetImpression_of_inUse (h : ¬ (2 ≤ slot.toNat ∨ columns.toNat < 1 ∨ 64 < columns.toNat))
    (hactive : Fin.ofNat 2 slot.toNat ≠ s.printer.active) (huse : 0 < (s.printer.slots.get (Fin.ofNat 2 slot.toNat)).inUse) :
    s.decideSetImpression cell tag slot columns = s.completeRequest cell tag .notReady 0 := by
  rw [State.decideSetImpression, if_neg (mt (Or.imp_right (inRange_eq_false_iff _ _ _).mp) h)]
  exact (if_neg fun ha => hactive ha.1).trans (if_pos ⟨hactive, huse⟩)

theorem State.decideSetImpression_of_good (h : ¬ (2 ≤ slot.toNat ∨ columns.toNat < 1 ∨ 64 < columns.toNat))
    (hactive : Fin.ofNat 2 slot.toNat = s.printer.active → s.run.state = .idle)
    (huse : Fin.ofNat 2 slot.toNat ≠ s.printer.active → (s.printer.slots.get (Fin.ofNat 2 slot.toNat)).inUse = 0) :
    s.decideSetImpression cell tag slot columns =
      (s.withPrinter (s.printer.withDie (Fin.ofNat 2 slot.toNat) (s.stagedColumns columns.toNat))).completeRequest cell tag .ok
        columns := by
  rw [State.decideSetImpression, if_neg (mt (Or.imp_right (inRange_eq_false_iff _ _ _).mp) h), ← State.loadSlot_eq]
  exact (if_neg fun ha => ha.2 (hactive ha.1)).trans (if_neg fun ha => absurd (huse ha.1) (Nat.ne_of_gt ha.2))

end

/-- Settles O47. -/
theorem setImpressionLoads : Obligations.SetImpressionLoads := by
  intro s cell tag slot columns hwf htake bad i
  have hexec := exec_setImpression s cell tag slot columns
  have hstate : (s.takeCell cell).run.state = s.run.state := rfl
  have hprinter : (s.takeCell cell).printer = s.printer := rfl
  refine ⟨fun hbad => exec_answered hwf htake hexec (State.decideSetImpression_of_bad hbad), fun hgood ha hr =>
    exec_answered hwf htake hexec (State.decideSetImpression_of_active hgood ha hr), fun hgood ha hu =>
    exec_answered hwf htake hexec (State.decideSetImpression_of_inUse hgood ha hu), fun hgood ha hu => ⟨_, hexec, ?_⟩⟩
  have hcolumns : columns.toNat ≤ 96 := by simp only [bad] at hgood; omega
  rw [State.onRequest_of_canTake htake]
  rw [State.decideSetImpression_of_good (s := s.takeCell cell) hgood ha hu, s.stagedColumns_takeCell cell hcolumns, hprinter]
  obtain ⟨hanswered, hload, hframe⟩ :=
    State.withPrinter_answered hwf cell (s.printer.withDie i (s.stagedColumns columns.toNat)) tag .ok columns
  refine ⟨hanswered, ?_, fun k hk => ?_, ?_, ?_⟩
  · rw [hload, Printer.withDie, get_put_same]
  · rw [hload]
    exact get_put_other _ _ hk
  · rw [hload, Printer.withDie]
  · rw [hload]
    exact hframe

end Sys2Proof.Machine

/-! PROOFS. SNAPSHOT TALLIES (R155, R156): the tally area and the counters it clears. -/

namespace Sys2Proof.Machine

open Sys2Proof.Safety

/-! ## The tally area -/

/-- Words 0 to 5 of the tally area. -/
def State.tallyHead (s : State) (clear : Word) : List Word :=
  [ s.tally.snapshot.setWidth 32, runStateCode s.run.state, clear, bitsWord s.tally.pieceCarry.toList,
    bitsWord s.tally.eventCarry.toList, bitOf s.tally.dotsCarry 0 ]

/-- The 44 counters, from word 8 of the tally area on. -/
def State.tallyCounts (s : State) : List Word :=
  s.tally.pieces.toList.map (·.setWidth 32) ++ s.tally.events.toList.map (·.setWidth 32) ++ [s.tally.dots]

theorem State.tallyHead_length (s : State) (clear : Word) : (s.tallyHead clear).length = 6 := rfl

theorem State.tallyCounts_length (s : State) : s.tallyCounts.length = 44 := by
  simp [State.tallyCounts]

theorem State.tallyCounts_piece (s : State) (i : Fin 29) : s.tallyCounts[i.val]? = some ((s.tally.pieces.get i).setWidth 32) := by
  have hi : i.val < (s.tally.pieces.toList.map (·.setWidth 32)).length := by simp
  rw [State.tallyCounts, List.append_assoc, List.getElem?_append_left hi]
  simp [Vector.get]

theorem State.tallyCounts_event (s : State) (i : Fin 14) :
    s.tallyCounts[29 + i.val]? = some ((s.tally.events.get i).setWidth 32) := by
  rw [State.tallyCounts, List.append_assoc, List.getElem?_append_right (by simp)]
  have hi : 29 + i.val - (s.tally.pieces.toList.map (·.setWidth 32)).length = i.val := by simp
  rw [hi, List.getElem?_append_left (by simp)]
  simp [Vector.get]

theorem State.tallyCounts_dots (s : State) : s.tallyCounts[43]? = some s.tally.dots := by
  rw [State.tallyCounts, List.getElem?_append_right (by simp)]
  simp

section
variable {s : State} {head counts : List Word}

/-- The two blocks of the tally area: words 0 to 5, and the words from 8 on. -/
def State.storeTally (s : State) (head counts : List Word) : State :=
  (s.storeWords (s.pageAt 0x2C0) head).storeWords (s.pageAt 0x2E0) counts

theorem State.storeTally_wf (hwf : s.mem.wf = true) : (s.storeTally head counts).mem.wf = true :=
  State.wf_storeWords (State.wf_storeWords hwf _ _) _ _

theorem State.storeTally_head (hwf : s.mem.wf = true) (hlen : head.length = 6) (hlen' : counts.length = 44) {k : Nat} {w : Word}
    (hk : head[k]? = some w) : (s.storeTally head counts).pageWord (0x2C0 + 4 * k) = w := by
  have hk6 : k < head.length := (List.getElem?_eq_some_iff.mp hk).1
  refine (State.pageWord_storeWords_other (s.storeWords _ head) (off' := 0x2E0) (by omega) (by omega) (.inl (by omega))).trans ?_
  exact State.pageWord_storeWords_get hwf (by omega) _ hk

theorem State.storeTally_count (hwf : s.mem.wf = true) (hlen' : counts.length = 44) {k : Nat} {w : Word} (hk : counts[k]? = some w) :
    (s.storeTally head counts).pageWord (0x2E0 + 4 * k) = w :=
  State.pageWord_storeWords_get (s := s.storeWords _ head) (State.wf_storeWords hwf _ _) (by omega) 0x2E0 hk

/-- The bytes outside words 0 to 5 and 8 to 51 of the tally area stay as they were. -/
theorem State.storeTally_kept (hlen : head.length = 6) (hlen' : counts.length = 44) {a : Nat}
    (ha : ∀ w, w < 52 → w ≠ 6 → w ≠ 7 → a ∉ pageBytes s (0x2C0 + 4 * w)) :
    (s.storeTally head counts).mem.read a = s.mem.read a := by
  refine (Memory.read_writeWords_other _ _ _ fun hmem => ?_).trans (Memory.read_writeWords_other _ _ _ fun hmem => ?_)
  · obtain ⟨k, hk, hak⟩ := (mem_wordsBytes _ _).mp hmem
    rw [State.pageAt_add] at hak
    refine ha (8 + k) (by omega) (by omega) (by omega) ?_
    rwa [show 0x2C0 + 4 * (8 + k) = 0x2E0 + 4 * k by omega]
  · obtain ⟨k, hk, hak⟩ := (mem_wordsBytes _ _).mp hmem
    rw [State.pageAt_add] at hak
    exact ha k (by omega) (by omega) (by omega) hak

end

theorem State.writeTallyArea_eq (s : State) (clear : Word) :
    s.writeTallyArea clear = s.storeTally (s.tallyHead clear) s.tallyCounts := by
  simp only [State.writeTallyArea, State.storeTally, State.tallyHead, State.tallyCounts, State.pageAt, State.storeWords_port,
    tallyOffset, Nat.reduceAdd]

/-! ## The decision -/

/-- The counters with the next snapshot number (R155). -/
def State.numbered (s : State) : State := { s with tally := { s.tally with snapshot := s.tally.snapshot + 1 } }

/-- The counters as a snapshot leaves them: as they stood, or all zero (R155). -/
def Tally.snapped (y : Tally) (clear : Word) : Tally :=
  if clear = 1 then { Tally.zero with snapshot := y.snapshot + 1 } else { y with snapshot := y.snapshot + 1 }

/-- The state as SNAPSHOT TALLIES leaves it, but for the answer. -/
def State.snapped (s : State) (clear : Word) : State :=
  { s with
    mem := (s.numbered.storeTally (s.numbered.tallyHead clear) s.numbered.tallyCounts).mem
    tally := s.tally.snapped clear }

theorem State.decideSnapshot_of_bad {s : State} {clear : Word} (h : 1 < clear.toNat) (cell : Fin 8) (tag : Word) :
    s.decideSnapshot cell tag clear = s.completeRequest cell tag .badArgument 0 := if_pos h

theorem State.decideSnapshot_of_good {s : State} {clear : Word} (h : clear.toNat ≤ 1) (cell : Fin 8) (tag : Word) :
    s.decideSnapshot cell tag clear =
      (s.snapped clear).completeRequest cell tag .ok ((s.tally.snapshot + 1).setWidth 32) := by
  rw [State.decideSnapshot, if_neg (Nat.not_le.mpr (Nat.lt_succ_of_le h))]
  simp only [State.writeTallyArea_eq]
  rw [State.snapped, Tally.snapped]
  change State.completeRequest (if clear = 1 then
    { (s.numbered.storeTally (s.numbered.tallyHead clear) s.numbered.tallyCounts) with
      tally := { Tally.zero with snapshot := s.tally.snapshot + 1 } }
    else s.numbered.storeTally (s.numbered.tallyHead clear) s.numbered.tallyCounts) _ _ _ _ = _
  generalize s.numbered.tallyHead clear = head
  generalize s.numbered.tallyCounts = counts
  split <;> rfl

theorem State.numbered_wf {s : State} (hwf : s.mem.wf = true) : s.numbered.mem.wf = true := hwf

theorem State.snapped_wf {s : State} (hwf : s.mem.wf = true) (clear : Word) : (s.snapped clear).mem.wf = true :=
  State.storeTally_wf (State.numbered_wf hwf)

theorem State.snapped_head {s : State} (hwf : s.mem.wf = true) {clear : Word} {k : Nat} {w : Word}
    (hk : (s.numbered.tallyHead clear)[k]? = some w) : (s.snapped clear).pageWord (0x2C0 + 4 * k) = w :=
  State.storeTally_head (State.numbered_wf hwf) (State.tallyHead_length _ _) (State.tallyCounts_length _) hk

theorem State.snapped_count {s : State} (hwf : s.mem.wf = true) (clear : Word) {k : Nat} {w : Word}
    (hk : s.tallyCounts[k]? = some w) : (s.snapped clear).pageWord (0x2E0 + 4 * k) = w :=
  State.storeTally_count (State.numbered_wf hwf) (State.tallyCounts_length _) hk

theorem State.snapped_kept (s : State) (clear : Word) {a : Nat}
    (ha : ∀ w, w < 52 → w ≠ 6 → w ≠ 7 → a ∉ pageBytes s (0x2C0 + 4 * w)) : (s.snapped clear).mem.read a = s.mem.read a :=
  State.storeTally_kept (s := s.numbered) (State.tallyHead_length _ _) (State.tallyCounts_length _) ha

theorem getD_toList {α : Type} {n : Nat} (v : Vector α n) (i : Fin n) (d : α) : v.toList.getD i.val d = v.get i := by
  simp [Vector.get]

/-- A snapshot taken and answered: every word of the tally area, and what stays. -/
theorem State.snapped_answered {s : State} (hwf : s.mem.wf = true) (cell : Fin 8) (tag clear : Word) (r : ResultCode) (value : Word) :
    let t := ((s.takeCell cell).snapped clear).completeRequest cell tag r value
    holdsAnswer t cell tag r value ∧ t.port = portRaised s.port .requestDone ∧
      (∀ {k w}, (s.numbered.tallyHead clear)[k]? = some w → t.pageWord (0x2C0 + 4 * k) = w) ∧
      (∀ {k w}, s.tallyCounts[k]? = some w → t.pageWord (0x2E0 + 4 * k) = w) ∧
      (∀ a, (∀ w, w < 52 → w ≠ 6 → w ≠ 7 → a ∉ pageBytes s (0x2C0 + 4 * w)) → a ∉ answerBytes s cell →
        t.mem.read a = s.mem.read a) ∧
      t.tally = s.tally.snapped clear ∧ t = { s with mem := t.mem, port := t.port, tally := t.tally } := by
  intro t
  have hwf' : (s.takeCell cell).mem.wf = true := State.wf_storeWord hwf _ _
  obtain ⟨hanswer, hkept, hport⟩ := answered_of_completeRequest (State.snapped_wf hwf' clear) cell tag r value
  have hlen := State.tallyHead_length s.numbered clear
  have hlen' := State.tallyCounts_length s
  refine ⟨hanswer, hport, fun {k w} hk => ?_, fun {k w} hk => ?_, fun a ha hcell => ?_, rfl, ?_⟩
  · have hlt : k < (s.numbered.tallyHead clear).length := (List.getElem?_eq_some_iff.mp hk).1
    exact (State.pageWord_completeRequest _ _ (by omega) (by omega) _ _ _).trans (State.snapped_head hwf' hk)
  · have hlt : k < s.tallyCounts.length := (List.getElem?_eq_some_iff.mp hk).1
    exact (State.pageWord_completeRequest _ _ (by omega) (by omega) _ _ _).trans (State.snapped_count hwf' clear hk)
  · have h0 : a ∉ cellStateBytes s cell := fun hmem => hcell (by simp [answerBytes, hmem])
    have hsnap : ((s.takeCell cell).snapped clear).mem.read a = (s.takeCell cell).mem.read a := State.snapped_kept _ clear ha
    exact (hkept a hcell).trans (hsnap.trans (State.takeCell_keptOutside s cell a h0))
  · exact State.completeRequest_eq _ _ _ _ _

/-- Settles O50. -/
theorem snapshotCopiesCounters : Obligations.SnapshotCopiesCounters := by
  intro s cell tag clear hwf htake at'
  have hexec := exec_snapshotTallies s cell tag clear
  refine ⟨fun h => exec_answered hwf htake hexec (State.decideSnapshot_of_bad h _ _), fun h => ⟨_, hexec, ?_⟩⟩
  have htally : (s.takeCell cell).tally = s.tally := rfl
  rw [State.onRequest_of_canTake htake, State.decideSnapshot_of_good h, htally]
  obtain ⟨hanswer, hport, hhead, hcount, hkept, hsnapped, hframe⟩ :=
    State.snapped_answered hwf cell tag clear .ok ((s.tally.snapshot + 1).setWidth 32)
  generalize ((s.takeCell cell).snapped clear).completeRequest cell tag .ok ((s.tally.snapshot + 1).setWidth 32) = t at *
  have hcount' : ∀ {k j w}, s.tallyCounts[k]? = some w → j = 8 + k → t.pageWord (at' j) = w := fun {k j w} hk hj => by
    rw [show at' j = 0x2E0 + 4 * k by simp only [at', tallyOffset]; omega]
    exact hcount hk
  refine ⟨hanswer, hport, hhead (k := 0) rfl, hhead (k := 1) rfl, hhead (k := 2) rfl,
    fun i => ⟨hcount' (State.tallyCounts_piece _ i) rfl, ?_⟩, fun i => ⟨hcount' (State.tallyCounts_event _ i) (by omega), ?_⟩,
    hcount' (State.tallyCounts_dots _) rfl, ?_, hkept, hsnapped, hframe⟩
  · rw [show t.pageWord (at' 3) = _ from hhead (k := 3) rfl, getLsbD_bitsWord _ (by omega)]
    exact getD_toList _ i _
  · rw [show t.pageWord (at' 4) = _ from hhead (k := 4) rfl, getLsbD_bitsWord _ (by omega)]
    exact getD_toList _ i _
  · rw [show t.pageWord (at' 5) = _ from hhead (k := 5) rfl, getLsbD_bitOf _ _ (by decide)]
    simp [State.numbered]

end Sys2Proof.Machine

/-! PROOFS. Runs, run lists and the decision as functions of the lists (spec/02 and spec/03). -/

namespace Sys2Proof.Machine

open Sys2Proof.Safety

/-! ## Least and greatest of a list -/

section
variable {α : Type} (f : α → Nat)

theorem foldl_min_le (l : List α) (a : Nat) :
    l.foldl (fun m y => min m (f y)) a ≤ a ∧ ∀ y ∈ l, l.foldl (fun m y => min m (f y)) a ≤ f y := by
  induction l generalizing a with
  | nil => simp
  | cons x l ih =>
    obtain ⟨ha, hl⟩ := ih (min a (f x))
    simp only [List.foldl_cons, List.mem_cons, forall_eq_or_imp]
    exact ⟨ha.trans (min_le_left _ _), ha.trans (min_le_right _ _), hl⟩

theorem foldl_min_attained (l : List α) (a : Nat) :
    l.foldl (fun m y => min m (f y)) a = a ∨ ∃ y ∈ l, f y = l.foldl (fun m y => min m (f y)) a := by
  induction l generalizing a with
  | nil => simp
  | cons x l ih =>
    simp only [List.foldl_cons, List.mem_cons, exists_eq_or_imp]
    rcases ih (min a (f x)) with h | h
    · rcases min_choice a (f x) with hm | hm
      · exact .inl (h.trans hm)
      · exact .inr (.inl (hm.symm.trans h.symm))
    · exact .inr (.inr h)

theorem le_foldl_max (l : List α) (a : Nat) :
    a ≤ l.foldl (fun m y => max m (f y)) a ∧ ∀ y ∈ l, f y ≤ l.foldl (fun m y => max m (f y)) a := by
  induction l generalizing a with
  | nil => simp
  | cons x l ih =>
    obtain ⟨ha, hl⟩ := ih (max a (f x))
    simp only [List.foldl_cons, List.mem_cons, forall_eq_or_imp]
    exact ⟨(le_max_left _ _).trans ha, (le_max_right _ _).trans ha, hl⟩

theorem foldl_max_attained (l : List α) (a : Nat) :
    l.foldl (fun m y => max m (f y)) a = a ∨ ∃ y ∈ l, f y = l.foldl (fun m y => max m (f y)) a := by
  induction l generalizing a with
  | nil => simp
  | cons x l ih =>
    simp only [List.foldl_cons, List.mem_cons, exists_eq_or_imp]
    rcases ih (max a (f x)) with h | h
    · rcases max_choice a (f x) with hm | hm
      · exact .inl (h.trans hm)
      · exact .inr (.inl (hm.symm.trans h.symm))
    · exact .inr (.inr h)

end

/-! ## Qualification and the run list (R32 to R38) -/

theorem corner_iff (sc : Scanner) (p : Prop) [Decidable p] : (sc.isTrailing || decide p) = true ↔ sc = .bTop ∨ sc = .aBottom ∨ p := by
  cases sc <;> simp [Scanner.isTrailing]

section
variable {pl : Plan} {sc : Scanner} {r : OpenRun} {e : Nat}

theorem runClass_eq_none_iff {len index : Nat} : runClass pl len index = none ↔
    ¬ (pl.tagRMin ≤ index ∧ pl.tagLenMin ≤ len ∧ len ≤ pl.tagLenMax) ∧
      ¬ (pl.mtrRMin ≤ index ∧ index ≤ pl.mtrRMax ∧ pl.mtrLenMin ≤ len ∧ len ≤ pl.mtrLenMax) := by
  unfold runClass
  split
  · next h => simp [h]
  · next h =>
    split
    · next h' => simp [h']
    · next h' => exact iff_of_true rfl ⟨h, h'⟩

theorem qualify_of_class {c : IndiciumClass} (hclass : runClass pl (e - r.start) (afterglowIndex r.sumP r.sumG) = some c)
    (hcorner : sc = .bTop ∨ sc = .aBottom ∨ r.start < pl.endWin) :
    qualify pl sc r e = some ⟨r.start, e, c, min 65535 r.excess⟩ := by
  unfold qualify
  rw [hclass]
  exact if_pos ((corner_iff _ _).mpr hcorner)

theorem qualify_of_corner (hcorner : ¬ (sc = .bTop ∨ sc = .aBottom ∨ r.start < pl.endWin)) : qualify pl sc r e = none := by
  unfold qualify
  split
  · rfl
  · exact if_neg (mt (corner_iff _ _).mp hcorner)

theorem qualify_of_noise (hclass : runClass pl (e - r.start) (afterglowIndex r.sumP r.sumG) = none) : qualify pl sc r e = none := by
  unfold qualify
  rw [hclass]

end

theorem keepRun_of_room {l : List KeptRun} (h : l.length < 4) (k : KeptRun) : keepRun l k = (l ++ [k], false) := if_pos h

/-- The newest run of a given score is taken out, and the others keep their order. -/
theorem removeNewest_of_mem {l : List KeptRun} {d : KeptRun} (hd : d ∈ l) :
    ∃ older d' newer, l = older ++ d' :: newer ∧ removeNewest d.score l = older ++ newer ∧ d'.score = d.score ∧
      ∀ x ∈ newer, x.score ≠ d.score := by
  obtain ⟨d', l₁, l₂, hbefore, hscore, hl, herase⟩ :=
    List.exists_of_eraseP (p := fun x : KeptRun => x.score == d.score) (List.mem_reverse.mpr hd) (by simp)
  refine ⟨l₂.reverse, d', l₁.reverse, ?_, ?_, by simpa using hscore, fun x hx => by simpa using hbefore x (by simpa using hx)⟩
  · rw [← List.reverse_reverse l, hl]
    simp
  · rw [removeNewest, herase]
    simp

/-- Of five runs the newest of the weakest is dropped (R37, R38). -/
theorem keepRun_of_full {l : List KeptRun} (h : l.length = 4) (k : KeptRun) : (keepRun l k).2 = true ∧
    ∃ older d newer, l ++ [k] = older ++ d :: newer ∧ (keepRun l k).1 = older ++ newer ∧
      (∀ x ∈ older, d.score ≤ x.score) ∧ ∀ x ∈ newer, d.score < x.score := by
  have hkeep : keepRun l k = _ := if_neg (by omega)
  have hle := foldl_min_le KeptRun.score l k.score
  have hattained : ∃ d ∈ l ++ [k], d.score = l.foldl (fun m x => min m x.score) k.score := by
    rcases foldl_min_attained KeptRun.score l k.score with hk | ⟨d, hd, hscore⟩
    · exact ⟨k, by simp, hk.symm⟩
    · exact ⟨d, by simp [hd], hscore⟩
  obtain ⟨d, hd, hscore⟩ := hattained
  have hleast : ∀ x ∈ l ++ [k], d.score ≤ x.score := fun x hx => by
    rw [hscore]
    rcases List.mem_append.mp hx with hx | hx
    · exact hle.2 x hx
    · exact (List.mem_singleton.mp hx) ▸ hle.1
  obtain ⟨older, d', newer, hsplit, hremove, hd', hnewer⟩ := removeNewest_of_mem hd
  rw [hkeep, ← hscore]
  refine ⟨rfl, older, d', newer, hsplit, hremove, fun x hx => ?_, fun x hx => ?_⟩
  · rw [hd']
    exact hleast x (by rw [hsplit]; simp [hx])
  · rw [hd']
    exact lt_of_le_of_ne (hleast x (by rw [hsplit]; simp [hx])) (hnewer x hx).symm

theorem forScanner_windowLists (pl : Plan) (w : Nat) (v : PerScanner ScannerState) (sc : Scanner) :
    forScanner (windowLists pl w v) sc = (edgeClose pl sc w (forScanner v sc)).1.kept := by
  cases sc <;> rfl

/-- Settles O10. -/
theorem runListDropsWeakest : Obligations.RunListDropsWeakest := by
  refine ⟨fun pl sc r e => ⟨fun hcorner htag => ?_, fun hcorner htag hmeter => ?_, ?_⟩,
    fun l k _ => ⟨fun h => keepRun_of_room h k, fun h => keepRun_of_full h k⟩, fun pl w v sc => ⟨fun h => ?_, fun k h => ?_⟩⟩
  · exact qualify_of_class (if_pos htag) hcorner
  · exact qualify_of_class ((if_neg htag).trans (if_pos hmeter)) hcorner
  · rintro (hcorner | hnoise)
    · exact qualify_of_corner hcorner
    · exact qualify_of_noise (runClass_eq_none_iff.mpr hnoise)
  · rw [forScanner_windowLists, edgeClose]
    split
    · rfl
    · next run hrun => rw [closeRun_of_noise (by simpa [hrun] using h)]
  · rw [forScanner_windowLists, edgeClose]
    split
    · next hrun => simp [hrun] at h
    · next run hrun => rw [closeRun_of_qualifying (by simpa [hrun] using h)]

/-! ## The winner (R42, R43) -/

/-- A run is as good as another: a higher score, or the same and no later a start (R42). -/
def KeptRun.atLeast (b k : KeptRun) : Prop := k.score < b.score ∨ (k.score = b.score ∧ b.start ≤ k.start)

theorem KeptRun.atLeast.trans {a b c : KeptRun} (h : a.atLeast b) (h' : b.atLeast c) : a.atLeast c := by
  unfold KeptRun.atLeast at *
  omega

theorem betterRun_atLeast (a b : KeptRun) : (betterRun a b).atLeast a ∧ (betterRun a b).atLeast b := by
  unfold betterRun KeptRun.atLeast
  split <;> omega

theorem betterRun_mem (a b : KeptRun) : betterRun a b = a ∨ betterRun a b = b := by
  unfold betterRun
  split <;> simp

theorem foldl_betterRun (t : List KeptRun) (x : KeptRun) :
    t.foldl betterRun x ∈ x :: t ∧ ∀ k ∈ x :: t, (t.foldl betterRun x).atLeast k := by
  induction t generalizing x with
  | nil => simp [KeptRun.atLeast]
  | cons y t ih =>
    obtain ⟨hmem, hbest⟩ := ih (betterRun x y)
    have hxy := hbest _ List.mem_cons_self
    refine ⟨?_, fun k hk => ?_⟩
    · rcases List.mem_cons.mp hmem with h | h
      · rw [List.foldl_cons, h]
        rcases betterRun_mem x y with h | h <;> simp [h]
      · exact List.mem_cons_of_mem _ (List.mem_cons_of_mem _ h)
    · rcases List.mem_cons.mp hk with rfl | hk
      · exact hxy.trans (betterRun_atLeast k y).1
      · rcases List.mem_cons.mp hk with rfl | hk
        · exact hxy.trans (betterRun_atLeast x k).2
        · exact hbest k (List.mem_cons_of_mem _ hk)

theorem bestRun_eq_none_iff {l : List KeptRun} : bestRun l = none ↔ l = [] := by
  cases l <;> simp [bestRun]

theorem bestRun_spec {l : List KeptRun} {b : KeptRun} (h : bestRun l = some b) : b ∈ l ∧ ∀ k ∈ l, b.atLeast k := by
  cases l with
  | nil => simp [bestRun] at h
  | cons x t =>
    obtain rfl := Option.some.inj h
    exact foldl_betterRun t x

/-- The winner so far, once a scanner has been looked at. -/
def nextWinner (lists : PerScanner (List KeptRun)) (acc : Option (Scanner × KeptRun)) (sc : Scanner) : Option (Scanner × KeptRun) :=
  match bestRun (forScanner lists sc), acc with
  | none, _ => acc
  | some r, none => some (sc, r)
  | some r, some (_, b) => if b.score < r.score then some (sc, r) else acc

theorem winner_eq (lists : PerScanner (List KeptRun)) : winner lists = scannerOrder.foldl (nextWinner lists) none := rfl

/-- Among some scanners in their order: none has a run, or the scanner is the first of those with the highest best. -/
def leads (lists : PerScanner (List KeptRun)) (order : List Scanner) : Option (Scanner × KeptRun) → Prop
  | none => ∀ sc ∈ order, forScanner lists sc = []
  | some (w, b) => w ∈ order ∧ bestRun (forScanner lists w) = some b ∧
      ∀ sc ∈ order, ∀ k ∈ forScanner lists sc, k.score ≤ b.score ∧ (k.score = b.score → order.idxOf w ≤ order.idxOf sc)

theorem nextWinner_leads {lists : PerScanner (List KeptRun)} {order : List Scanner} {acc : Option (Scanner × KeptRun)} {sc : Scanner}
    (h : leads lists order acc) (hsc : sc ∉ order) : leads lists (order ++ [sc]) (nextWinner lists acc sc) := by
  have hidx : ∀ x ∈ order, (order ++ [sc]).idxOf x = order.idxOf x := fun x hx => List.idxOf_append_of_mem hx
  have hidx' : (order ++ [sc]).idxOf sc = order.length := by simp [List.idxOf_append_of_notMem hsc]
  have hlt : ∀ x ∈ order, order.idxOf x < order.length := fun x hx => List.idxOf_lt_length_of_mem hx
  have hmem : ∀ {P : Scanner → Prop}, (∀ x ∈ order, P x) → P sc → ∀ x ∈ order ++ [sc], P x := fun hall hone x hx => by
    rcases List.mem_append.mp hx with hx | hx
    · exact hall x hx
    · exact List.mem_singleton.mp hx ▸ hone
  cases hr : bestRun (forScanner lists sc) with
  | none =>
    have hnil : forScanner lists sc = [] := bestRun_eq_none_iff.mp hr
    have hnext : nextWinner lists acc sc = acc := by simp [nextWinner, hr]
    rw [hnext]
    cases acc with
    | none => exact hmem h hnil
    | some x =>
      obtain ⟨hw, hbest, hall⟩ := h
      refine ⟨List.mem_append_left _ hw, hbest, hmem (fun x hx => ?_) (by simp [hnil])⟩
      rw [hidx _ hw, hidx x hx]
      exact hall x hx
  | some r =>
    obtain ⟨-, hbest⟩ := bestRun_spec hr
    have hle : ∀ k ∈ forScanner lists sc, k.score ≤ r.score := fun k hk => by
      have := hbest k hk
      unfold KeptRun.atLeast at this
      omega
    simp only [nextWinner, hr]
    cases acc with
    | none => exact ⟨by simp, hr, hmem (fun x hx => by simp [h x hx]) fun k hk => ⟨hle k hk, fun _ => le_rfl⟩⟩
    | some x =>
      obtain ⟨w, b⟩ := x
      obtain ⟨hw, hwbest, hall⟩ := h
      dsimp only
      split
      · next hgt =>
        refine ⟨by simp, hr, hmem (fun x hx k hk => ?_) fun k hk => ⟨hle k hk, fun _ => le_rfl⟩⟩
        have := (hall x hx k hk).1
        omega
      · next hngt =>
        refine ⟨List.mem_append_left _ hw, hwbest, hmem (fun x hx => ?_) fun k hk => ?_⟩
        · rw [hidx _ hw, hidx x hx]
          exact hall x hx
        · rw [hidx _ hw, hidx']
          exact ⟨(hle k hk).trans (Nat.le_of_not_lt hngt), fun _ => (hlt _ hw).le⟩

theorem winner_leads (lists : PerScanner (List KeptRun)) : leads lists scannerOrder (winner lists) :=
  nextWinner_leads (order := [.aTop, .bBottom, .bTop]) (nextWinner_leads (order := [.aTop, .bBottom])
    (nextWinner_leads (order := [.aTop]) (nextWinner_leads (order := []) (fun _ h => absurd h (List.not_mem_nil))
      (by decide)) (by decide)) (by decide)) (by decide)

theorem mem_scannerOrder (sc : Scanner) : sc ∈ scannerOrder := by
  cases sc <;> decide

theorem winner_eq_none_iff {lists : PerScanner (List KeptRun)} : winner lists = none ↔ ∀ sc, forScanner lists sc = [] := by
  have h := winner_leads lists
  constructor
  · intro hnone sc
    rw [hnone] at h
    exact h sc (mem_scannerOrder sc)
  · intro hall
    match hw : winner lists with
    | none => rfl
    | some (w, b) =>
      rw [hw] at h
      have hmem := (bestRun_spec h.2.1).1
      rw [hall w] at hmem
      exact absurd hmem List.not_mem_nil

/-! ## The second score (R43) -/

theorem le_bestScore {l : List KeptRun} {k : KeptRun} (hk : k ∈ l) : k.score ≤ bestScore l := by
  cases hb : bestRun l with
  | none => simp [bestRun_eq_none_iff.mp hb] at hk
  | some b =>
    have := (bestRun_spec hb).2 k hk
    simp only [KeptRun.atLeast] at this
    simp only [bestScore, hb, Option.map_some, Option.getD_some]
    omega

theorem bestScore_attained (l : List KeptRun) : bestScore l = 0 ∨ ∃ k ∈ l, k.score = bestScore l := by
  cases hb : bestRun l with
  | none => simp [bestScore, hb]
  | some b => exact .inr ⟨b, (bestRun_spec hb).1, by simp [bestScore, hb]⟩

/-- The scores the second is the highest of. -/
def otherScores (lists : PerScanner (List KeptRun)) (w : Scanner) : List Nat :=
  (scannerOrder.filter (fun sc => sc != w)).map (fun sc => bestScore (forScanner lists sc))

theorem secondScore_eq (lists : PerScanner (List KeptRun)) (w : Scanner) :
    secondScore lists w = (otherScores lists w).foldl (fun m y => max m (id y)) 0 := rfl

theorem mem_otherScores {lists : PerScanner (List KeptRun)} {w : Scanner} {n : Nat} :
    n ∈ otherScores lists w ↔ ∃ sc, sc ≠ w ∧ bestScore (forScanner lists sc) = n := by
  simp [otherScores, mem_scannerOrder]

theorem le_secondScore {lists : PerScanner (List KeptRun)} {w sc : Scanner} (hsc : sc ≠ w) {k : KeptRun} (hk : k ∈ forScanner lists sc) :
    k.score ≤ secondScore lists w := by
  rw [secondScore_eq]
  exact (le_bestScore hk).trans ((le_foldl_max id (otherScores lists w) 0).2 _ (mem_otherScores.mpr ⟨sc, hsc, rfl⟩))

theorem secondScore_attained (lists : PerScanner (List KeptRun)) (w : Scanner) :
    secondScore lists w = 0 ∨ ∃ sc, sc ≠ w ∧ ∃ k ∈ forScanner lists sc, k.score = secondScore lists w := by
  rcases foldl_max_attained id (otherScores lists w) 0 with h | ⟨n, hn, h⟩
  · exact .inl h
  · rw [← secondScore_eq] at h
    obtain ⟨sc, hsc, rfl⟩ := mem_otherScores.mp hn
    rcases bestScore_attained (forScanner lists sc) with h0 | ⟨k, hk, hscore⟩
    · exact .inl (h.symm.trans h0)
    · exact .inr ⟨sc, hsc, k, hk, hscore.trans h⟩

/-! ## The span and the decision field (R46, R48, R52) -/

/-- The span goes from the least start to the greatest end of the runs of the class. -/
theorem scanSpan_of_mem {l : List KeptRun} {b : KeptRun} (hb : b ∈ l) : ∃ lo hi, scanSpan l b.cls = some ⟨lo, hi⟩ ∧
    (∀ k ∈ l, k.cls = b.cls → lo ≤ k.start ∧ k.stop ≤ hi) ∧ (∃ k ∈ l, k.cls = b.cls ∧ k.start = lo) ∧
      ∃ k ∈ l, k.cls = b.cls ∧ k.stop = hi := by
  have hmem : ∀ {k}, k ∈ l.filter (fun x => x.cls == b.cls) ↔ k ∈ l ∧ k.cls = b.cls := by simp
  unfold scanSpan
  split
  · next hnil => exact absurd (hmem.mpr ⟨hb, rfl⟩) (by rw [hnil]; exact List.not_mem_nil)
  · next x t hcons =>
    rw [hcons] at hmem
    obtain ⟨hmin, hmin'⟩ := foldl_min_le KeptRun.start t x.start
    obtain ⟨hmax, hmax'⟩ := le_foldl_max KeptRun.stop t x.stop
    refine ⟨_, _, rfl, fun k hk hcls => ?_, ?_, ?_⟩
    · rcases List.mem_cons.mp (hmem.mpr ⟨hk, hcls⟩) with rfl | ht
      · exact ⟨hmin, hmax⟩
      · exact ⟨hmin' k ht, hmax' k ht⟩
    · rcases foldl_min_attained KeptRun.start t x.start with h | ⟨k, hk, h⟩
      · obtain ⟨hx, hcls⟩ := hmem.mp List.mem_cons_self
        exact ⟨x, hx, hcls, h.symm⟩
      · obtain ⟨hx, hcls⟩ := hmem.mp (List.mem_cons_of_mem _ hk)
        exact ⟨k, hx, hcls, h⟩
    · rcases foldl_max_attained KeptRun.stop t x.stop with h | ⟨k, hk, h⟩
      · obtain ⟨hx, hcls⟩ := hmem.mp List.mem_cons_self
        exact ⟨x, hx, hcls, h.symm⟩
      · obtain ⟨hx, hcls⟩ := hmem.mp (List.mem_cons_of_mem _ hk)
        exact ⟨k, hx, hcls, h⟩

theorem finalSpan_of_not_reverses {t : Turning} (h : t = .straight ∨ t = .twist) (n : Nat) (sp : Span) : finalSpan t n sp = sp := by
  rcases h with rfl | rfl <;> rfl

theorem finalSpan_of_reverses {t : Turning} (h : t = .reverse ∨ t = .both) (n : Nat) (sp : Span) :
    finalSpan t n sp = ⟨n - sp.stop, n - sp.start⟩ := by
  rcases h with rfl | rfl <;> rfl

theorem decisionOf_of_winner {lists : PerScanner (List KeptRun)} {w : Scanner} {b : KeptRun} (h : winner lists = some (w, b)) (n : Nat)
    (turn : Turning) : decisionOf n turn lists =
      { attitude := some w, cls := some b.cls, best := b.score, second := secondScore lists w,
        span := (scanSpan (forScanner lists w) b.cls).map (finalSpan turn n), turning := turn,
        qualifying := qualifyingCount lists } := by
  simp [decisionOf, h]

theorem decisionOf_of_no_winner {lists : PerScanner (List KeptRun)} (h : winner lists = none) (n : Nat) (turn : Turning) :
    decisionOf n turn lists =
      { attitude := none, cls := none, best := 0, second := 0, span := none, turning := turn, qualifying := qualifyingCount lists } := by
  simp [decisionOf, h]

theorem decisionOf_turning (n : Nat) (turn : Turning) (lists : PerScanner (List KeptRun)) : (decisionOf n turn lists).turning = turn := by
  unfold decisionOf
  split <;> rfl

theorem decisionOf_qualifying (n : Nat) (turn : Turning) (lists : PerScanner (List KeptRun)) :
    (decisionOf n turn lists).qualifying = qualifyingCount lists := by
  unfold decisionOf
  split <;> rfl

theorem qualifyingCount_eq (lists : PerScanner (List KeptRun)) :
    qualifyingCount lists = lists.aTop.length + lists.bBottom.length + lists.bTop.length + lists.aBottom.length := by
  simp [qualifyingCount, scannerOrder, forScanner]
  omega

/-- Settles O24: the winner leads the scanners in their order, and the span is that of its runs of its best run's class. -/
theorem winnerIsStrongest : Obligations.WinnerIsStrongest := by
  intro lists
  refine ⟨winner_eq_none_iff, fun w b hw => ?_, fun n turn => ⟨decisionOf_turning _ _ _,
    (decisionOf_qualifying _ _ _).trans (qualifyingCount_eq lists), fun hnone => ?_, fun w b hw => ?_⟩⟩
  · have hlead := winner_leads lists
    rw [hw] at hlead
    obtain ⟨-, hbest, hall⟩ := hlead
    obtain ⟨hmem, hstrong⟩ := bestRun_spec hbest
    exact ⟨hmem, hstrong, fun sc => hall sc (mem_scannerOrder sc), fun sc hsc k hk => le_secondScore hsc hk,
      secondScore_attained lists w⟩
  · rw [decisionOf_of_no_winner hnone]
    exact ⟨rfl, rfl, rfl, rfl, rfl⟩
  · have hlead := winner_leads lists
    rw [hw] at hlead
    obtain ⟨-, hbest, -⟩ := hlead
    obtain ⟨lo, hi, hspan, hbounds, hlo, hhi⟩ := scanSpan_of_mem (bestRun_spec hbest).1
    rw [decisionOf_of_winner hw]
    refine ⟨rfl, rfl, rfl, rfl, lo, hi, hbounds, hlo, hhi, fun h => ?_, fun h => ?_⟩
    · simp [hspan, finalSpan_of_not_reverses h]
    · simp [hspan, finalSpan_of_reverses h]

/-! ## The judgement (R45 to R51) -/

theorem primary_eq_none_iff (c : CullSet) : c.primary = none ↔ c = CullSet.none := by
  rcases c with ⟨a, b, c, d, e, f, g, h⟩
  revert a b c d e f g h
  decide

section
variable {pl : Plan} {q : Pos} {free : Bool} {r : Record} {lists : PerScanner (List KeptRun)}

/-- A piece culled by its evidence is not turned (R49). -/
theorem judge_of_culled (h : evidenceCulls pl r.culls lists ≠ CullSet.none) :
    judge pl q free r lists = (evidenceCulls pl r.culls lists, .straight) :=
  if_pos (Option.isSome_iff_ne_none.mpr (mt (primary_eq_none_iff _).mp h))

/-- With no evidence against the piece the turning called for is judged (R50, R51). -/
theorem judge_of_sound (h : evidenceCulls pl r.culls lists = CullSet.none) : judge pl q free r lists =
    if calledTurning lists = .straight then (CullSet.none, .straight)
    else if !isOnTime pl q r.lead (calledTurning lists) then (CullSet.none.add .lateDecision, .straight)
    else if (calledTurning lists).reverses && !free then (CullSet.none.add .pocketBusy, .straight)
    else (CullSet.none, calledTurning lists) := by
  unfold judge
  rw [h]
  exact if_neg (by decide)

end

theorem Turning.reverses_iff (t : Turning) : t.reverses = true ↔ t = .reverse ∨ t = .both := by
  cases t <;> decide

theorem isOnTime_eq (pl : Plan) (q lead : Pos) (t : Turning) : isOnTime pl q lead t =
    isAhead (posSub (posAdd lead (if t = .twist ∨ t = .both then pl.dTwist else pl.dRev)) pl.gateLead) q := by
  cases t <;> rfl

theorem evidenceCulls_of_winner {lists : PerScanner (List KeptRun)} {w : Scanner} {b : KeptRun} (h : winner lists = some (w, b)) (pl : Plan)
    (c : CullSet) : evidenceCulls pl c lists = if b.score * pl.ambig ≤ secondScore lists w * 16 then c.add .ambiguous else c := by
  simp [evidenceCulls, h, isAmbiguous]

/-- Settles O25. -/
theorem judgementTurnsOnlySafely : Obligations.JudgementTurnsOnlySafely := by
  intro pl q free r lists v ev called onTime
  have honTime : isOnTime pl q r.lead called = onTime := isOnTime_eq _ _ _ _
  refine ⟨judge_of_culled, fun hev hcalled => ?_, fun hev hcalled hlate => ?_, fun hev hcalled htime hrev hbusy => ?_,
    fun hev hcalled htime hfree => ?_, fun hnone => ⟨?_, ?_⟩, fun w b hw => ⟨?_, fun h => ?_, fun h => ?_⟩⟩
  · simp only [v, judge_of_sound hev, hev]
    exact if_pos hcalled
  · simp only [v, judge_of_sound hev, hev]
    exact (if_neg hcalled).trans (if_pos (by rw [honTime, hlate]; rfl))
  · simp only [v, judge_of_sound hev, hev]
    have hreverses := (Turning.reverses_iff called).mpr hrev
    exact (if_neg hcalled).trans ((if_neg (by rw [honTime, htime]; decide)).trans (if_pos (by rw [hreverses, hbusy]; rfl)))
  · simp only [v, judge_of_sound hev, hev]
    refine (if_neg hcalled).trans ((if_neg (by rw [honTime, htime]; decide)).trans (if_neg fun hboth => ?_))
    obtain ⟨hreverses, hnot⟩ := (Bool.and_eq_true _ _).mp hboth
    rw [hfree ((Turning.reverses_iff called).mp hreverses)] at hnot
    exact absurd hnot (by decide)
  · simp [ev, evidenceCulls, hnone]
  · simp [called, calledTurning, hnone]
  · simp only [called, calledTurning, hw]
    cases w <;> rfl
  · exact (evidenceCulls_of_winner hw _ _).trans (if_pos h)
  · exact (evidenceCulls_of_winner hw _ _).trans (if_neg (Nat.not_le.mpr h))

end Sys2Proof.Machine

/-! PROOFS. The schedule's entries, their insertions and deadlines, and the cell inputs that no block takes (spec/01 and spec/04). -/

namespace Sys2Proof.Machine

open Sys2Proof.Safety

/-! ## The schedule (R58, R59, R70) -/

/-- An entry placed stands after every entry whose due precedes or equals its own (R58). -/
theorem placeEntry_split (e : Entry) (l : List Entry) : ∃ before after, l = before ++ after ∧ placeEntry e l = before ++ e :: after ∧
    (∀ x ∈ before, precedes e.due x.due = false) ∧ ∀ x, after.head? = some x → precedes e.due x.due = true := by
  induction l with
  | nil => exact ⟨[], [], rfl, rfl, by simp, by simp⟩
  | cons y l ih =>
    by_cases h : precedes e.due y.due = true
    · refine ⟨[], y :: l, rfl, if_pos h, by simp, fun x hx => ?_⟩
      rw [← Option.some.inj hx]
      exact h
    · obtain ⟨before, after, hl, hplace, hbefore, hafter⟩ := ih
      refine ⟨y :: before, after, by rw [hl]; rfl, ?_, ?_, hafter⟩
      · rw [placeEntry, if_neg h, hplace]
        rfl
      · simp only [List.mem_cons, forall_eq_or_imp]
        exact ⟨by simpa using h, hbefore⟩

theorem isAhead_iff (a b : Pos) : isAhead a b = true ↔ 1 ≤ (a - b).toNat ∧ (a - b).toNat ≤ 32767 := by
  simp only [isAhead, distanceAhead, Bool.and_eq_true]
  exact and_congr decide_eq_true_iff decide_eq_true_iff

/-- Settles O38. -/
theorem sameGateSpansJoin : Obligations.SameGateSpansJoin := by
  refine ⟨fun a b => ⟨isAhead_iff a b, rfl⟩, ?_⟩
  intro s g p due hlatch hahead kept
  obtain ⟨before, after, hkept, hplace, hbefore, hafter⟩ := placeEntry_split ⟨.gateOpen g, p, due⟩ kept
  exact ⟨_, before, after, State.insertEntry_of_ahead hlatch hahead, hkept, hplace, hbefore, hafter, rfl⟩

theorem State.dueEntry_of_latch {s : State} (h : s.protect.latch = true) : s.dueEntry = none := by
  simp [State.dueEntry, h]

/-- Settles O37: a gate entry, due or overdue, is one gate set. -/
theorem gateEntriesMoveGates : Obligations.GateEntriesMoveGates := by
  intro s g p due
  refine ⟨fun h => ?_, fun h => ?_, fun h => ⟨?_, ?_, State.insertEntry_of_latch h _, State.insertEntry_of_latch h _⟩,
    fun h hdue => ?_⟩
  · exact congrArg Host.Outcome.next (State.takeDueIf_of_due h EntryKind.isGateOpen)
  · exact congrArg Host.Outcome.next (State.takeDueIf_of_due h EntryKind.isGateClose)
  · exact congrArg Host.Outcome.next (State.takeDueIf_of_none (State.dueEntry_of_latch h) _)
  · exact congrArg Host.Outcome.next (State.takeDueIf_of_none (State.dueEntry_of_latch h) _)
  · rw [State.insertEntry_of_overdue h (e := ⟨.gateOpen g, p, due⟩) hdue, State.insertEntry_of_overdue h (e := ⟨.gateClose g, p, due⟩) hdue]
    exact ⟨State.gate_setGate_same _ _ _, State.gate_setGate_same _ _ _, fun k hk =>
      ⟨State.gate_setGate_other _ _ hk, State.gate_setGate_other _ _ hk⟩⟩

/-! ## The deadlines (R10, R11) -/

section
variable {s : State} {c : Cell} {p : PieceNo} {due : Pos}

/-- A deadline taken while the piece's expectation stands is MISSING (R10). -/
theorem State.takeEntry_of_standing (h : ∃ x ∈ s.queue c, x.who = .piece p) :
    s.takeEntry ⟨.cellDeadline c, p, due⟩ = s.trip .missing (some c) due (some p) := by
  obtain ⟨x, hx, hwho⟩ := h
  exact if_pos (List.any_eq_true.mpr ⟨x, hx, by simp [hwho]⟩)

theorem State.takeEntry_of_not_standing (h : ∀ x ∈ s.queue c, x.who ≠ .piece p) : s.takeEntry ⟨.cellDeadline c, p, due⟩ = s := by
  refine if_neg fun hany => ?_
  obtain ⟨x, hx, hwho⟩ := List.any_eq_true.mp hany
  exact h x hx (by simpa using hwho)

theorem State.takeEntry_overstay : s.takeEntry ⟨.overstay c, p, due⟩ = s.trip .overstay (some c) due (some p) := rfl

/-- A trip, with the parts of the machine that it leaves alone. -/
theorem State.trip_tripped_frame (hwf : s.mem.wf = true) (hrun : s.run.state.isRunning = true) (hlatch : s.protect.latch = false)
    (cause : TripCause) (cell : Option Cell) (at' : Pos) (piece : Option PieceNo) :
    tripped s (s.trip cause cell at' piece) cause cell at' piece ∧ (s.trip cause cell at' piece).cellUnit = s.cellUnit ∧
      (s.trip cause cell at' piece).position = s.position ∧ (s.trip cause cell at' piece).reports = s.reports ∧
        (s.trip cause cell at' piece).pending = s.pending :=
  ⟨State.trip_tripped hwf hrun hlatch cause cell at' piece, by simp, by simp, by simp, by simp⟩

end

/-- Settles O40: a deadline or overstay, due or overdue, is handed to the cell unit, which trips. -/
theorem deadlinesTrip : Obligations.DeadlinesTrip := by
  intro s c p due hwf hrun u
  have hdue : ∀ {e}, s.dueEntry = some e → u.protect.latch = false := fun h => (State.dueEntry_eq_some.mp h).1
  have hover : ∀ e : Entry, s.protect.latch = false → isAhead e.due s.position = false → (∀ g, e.kind ≠ .gateOpen g) →
      s.insertEntry e = s.takeEntry e := fun e hl ha hg => by
    rw [State.insertEntry_of_overdue hl ha, mergeCloses_of_not_open e _ hg]
  refine ⟨fun h hstand => ⟨_, congrArg Host.Outcome.next (State.takeDueIf_of_due h EntryKind.isCellDeadline), ?_⟩, fun h hnone => ?_,
    fun h => ⟨_, congrArg Host.Outcome.next (State.takeDueIf_of_due h EntryKind.isOverstay), ?_⟩, fun hl ha => ⟨fun t ht => ⟨fun hstand => ?_,
      fun hnone => ?_⟩, fun t ht => ?_⟩⟩
  · have htake : u.takeEntry ⟨.cellDeadline c, p, due⟩ = _ := State.takeEntry_of_standing hstand
    rw [if_pos (by rfl), htake]
    exact State.trip_tripped_frame (s := u) hwf hrun (hdue h) _ _ _ _
  · refine congrArg Host.Outcome.next ((State.takeDueIf_of_due h EntryKind.isCellDeadline).trans ?_)
    rw [if_pos (by rfl)]
    exact State.takeEntry_of_not_standing (s := u) hnone
  · rw [if_pos (by rfl)]
    exact State.trip_tripped_frame (s := u) hwf hrun (hdue h) _ _ _ _
  · rw [ht, hover _ hl ha (by simp), State.takeEntry_of_standing hstand]
    exact State.trip_tripped_frame hwf hrun hl _ _ _ _
  · rw [ht, hover _ hl ha (by simp), State.takeEntry_of_not_standing hnone]
  · rw [ht, hover _ hl ha (by simp)]
    exact State.trip_tripped_frame hwf hrun hl _ _ _ _

/-! ## Cell inputs (R3, R4) -/

theorem State.capturedAt_eq (s : State) (k : Capture) : s.capturedAt k = coverPos s k := by
  cases k
  · rfl
  · simp [coverPos]

/-- A cover of a clear cell is handled from the position it has captured (R3). -/
theorem exec_cover {s : State} {c : Cell} (h : (s.cell c).covered = false) (k : Capture) :
    exec (.cover ⟨c, k⟩) s = .next (s.coverCell c (coverPos s k)) := by
  rw [← State.capturedAt_eq]
  exact congrArg Host.Outcome.next (if_neg (by rw [h]; decide))

theorem exec_uncover {s : State} {c : Cell} (h : (s.cell c).covered = true) : exec (.uncover c) s = .next (s.uncoverCell c) :=
  congrArg Host.Outcome.next (if_pos h)

/-- Settles O12. -/
theorem cellsOutsideRun : Obligations.CellsOutsideRun := by
  intro s c k
  refine ⟨fun h => congrArg Host.Outcome.next (if_pos h), fun h => congrArg Host.Outcome.next (if_neg (by rw [h]; decide)),
    fun hrun h => ?_, fun hrun h => ?_⟩
  · rw [exec_cover h, State.coverCell_of_not_running hrun]
  · rw [exec_uncover h, State.uncoverCell_of_not_running hrun]

/-- What a record update of one piece's last cell leaves to be found, by the piece's number. -/
theorem State.record?_updateRecord_number (s : State) (p q : PieceNo) (f : Record → Record) (hf : ∀ r, (f r).number = r.number) :
    (s.updateRecord p f).record? q = (s.record? q).map (fun r => if q = p then f r else r) := by
  rw [State.record?_updateRecord s p q f hf]
  cases h : s.record? q with
  | none => rfl
  | some r => rw [Option.map_some, Option.map_some, State.number_of_record? h]

/-- A POCKET cover makes the piece the occupant with no OVERSTAY entry (R4). -/
theorem State.occupy_pocket (s : State) (p : PieceNo) (at' : Pos) :
    s.occupy .pocket p at' = (s.setOccupant .pocket (some (.piece p))).updateRecord p (fun r => { r with lastCell := .pocket }) := by
  simp only [State.occupy, if_true]

/-- Settles O20. -/
theorem pocketCoverTakenBack : Obligations.PocketCoverTakenBack := by
  intro s k p hrun hclear hstate hcell hoccupant
  let covered : CellState := { s.cell .pocket with covered := true, coverAt := coverPos s k }
  let u := s.setCell .pocket covered
  have htake : u.handleCover .pocket (coverPos s k) = u.takeBack (coverPos s k) := by
    refine (if_neg (by decide)).trans (if_pos ⟨rfl, hstate, hcell⟩)
  have hback : u.takeBack (coverPos s k) =
      { (u.setOccupant .pocket (some (.piece p))).updateRecord p (fun r => { r with lastCell := .pocket }) with
        pocket := { s.pocket with cellClear := false } } := by
    have hoccupant' : u.pocket.occupant = some p := hoccupant
    simp only [State.takeBack, hoccupant', State.occupy_pocket]
    rfl
  refine ⟨_, exec_cover hclear k, ?_⟩
  rw [State.coverCell_of_running hrun, htake, hback]
  refine ⟨?_, fun c hc => ?_, fun c => rfl, fun q => ?_, rfl⟩
  · have hcovered : u.cell .pocket = covered := State.cell_setCell_same _ _ _
    refine (State.cell_setCell_same u .pocket { u.cell .pocket with occupant := some (.piece p) }).trans ?_
    rw [hcovered]
  · exact (State.cell_setCell_other u _ hc).trans (State.cell_setCell_other s _ hc)
  · exact State.record?_updateRecord_number _ _ _ _ (fun _ => rfl)

/-! ## Uncovers (R4) -/

/-- The OVERSTAY of a cell's tracked occupant goes at its uncover (R4). -/
theorem mem_removeEntries {s : State} {p : PieceNo} {k : EntryKind} {e : Entry} :
    e ∈ (s.removeEntries p k).schedule ↔ e ∈ s.schedule ∧ ¬ (e.piece = p ∧ e.kind = k) := by
  simp only [State.removeEntries, List.mem_filter, Bool.not_eq_true', Bool.and_eq_false_iff, beq_eq_false_iff_ne, not_and_or]

/-- The state an uncover is handed on in: level and capture set, and the occupant's OVERSTAY gone (R3, R4). -/
def State.uncovered (s : State) (c : Cell) : State :=
  let t := s.setCell c { s.cell c with covered := false, uncoverAt := s.position }
  match (s.cell c).occupant with
  | some (.piece p) => t.removeEntries p (.overstay c)
  | some .untracked | none => t

theorem State.uncovered_cell_same (s : State) (c : Cell) :
    (s.uncovered c).cell c = { s.cell c with covered := false, uncoverAt := s.position } := by
  unfold State.uncovered
  split <;> exact State.cell_setCell_same _ _ _

theorem State.uncovered_cell_other (s : State) {c d : Cell} (h : d ≠ c) : (s.uncovered c).cell d = s.cell d := by
  unfold State.uncovered
  split <;> exact State.cell_setCell_other _ _ h

theorem State.uncovered_queue (s : State) (c d : Cell) : (s.uncovered c).queue d = s.queue d := by
  unfold State.uncovered
  split <;> rfl

theorem State.uncovered_schedule (s : State) (c : Cell) (e : Entry) : e ∈ (s.uncovered c).schedule ↔
    e ∈ s.schedule ∧ ¬ ((s.cell c).occupant = some (.piece e.piece) ∧ e.kind = .overstay c) := by
  unfold State.uncovered
  split
  · next p hp =>
    rw [mem_removeEntries, hp]
    simp only [Option.some.injEq, Occupant.piece.injEq]
    exact and_congr_right fun _ => not_congr (and_congr_left fun _ => eq_comm)
  · next hp => simp [hp, State.setCell]
  · next hp => simp [hp, State.setCell]

theorem State.uncovered_eq (s : State) (c : Cell) :
    s.uncovered c = { s with cellUnit := (s.uncovered c).cellUnit, schedule := (s.uncovered c).schedule } := by
  unfold State.uncovered
  split <;> rfl

/-- In the running states an uncover that no forced close precedes is handed on, and the occupant becomes absent (R4). -/
theorem State.uncoverCell_of_uncovered {s : State} (h : s.run.state.isRunning = true) {c : Cell} (hf : s.forcedCloseFirst c = false) :
    s.uncoverCell c = ((s.uncovered c).handUncover c (s.cell c).occupant s.position).setOccupant c none := by
  have hoccupant : ((s.setCell c { s.cell c with covered := false, uncoverAt := s.position }).cell c).occupant = (s.cell c).occupant := by
    rw [State.cell_setCell_same]
  rw [State.uncoverCell_of_running h hf]
  simp only [State.handleUncover, hoccupant, State.uncovered] <;> rfl

/-- A window closed by force or never opened is not the occupant's: nothing precedes its uncover. -/
theorem State.forcedCloseFirst_of_no_window {s : State}
    (h : ∀ x, s.scan.window = some x → (s.cell .scan).occupant ≠ some (.piece x.piece)) (c : Cell) : s.forcedCloseFirst c = false := by
  unfold State.forcedCloseFirst
  split
  · rfl
  · next x hx => simp [h x hx]

theorem State.closeWindow_of_no_window {s : State} {p : PieceNo} (h : ∀ x, s.scan.window = some x → p ≠ x.piece) (at' : Pos) :
    s.closeWindow p at' = s := by
  unfold State.closeWindow
  split
  · rfl
  · next x hx => exact if_neg fun e => h x hx e.symm

/-- An uncover that is handed to no block (R4, R27, R118). -/
theorem State.handUncover_of_nobody {s : State} {c : Cell} {o : Option Occupant} (hentry : c ≠ .entry)
    (h : c = .cancel ∨ o = none ∨ (c ≠ .merge ∧ o = some .untracked) ∨
      (c = .scan ∧ ∀ x, s.scan.window = some x → o ≠ some (.piece x.piece))) (at' : Pos) : s.handUncover c o at' = s := by
  unfold State.handUncover
  split
  · exact absurd rfl hentry
  · next p =>
    refine State.closeWindow_of_no_window (fun x hx e => ?_) _
    simp only [reduceCtorEq, false_or, ne_eq, not_false_eq_true, true_and, Option.some.injEq] at h
    exact h x hx (by rw [e])
  all_goals simp at h ⊢

/-- Settles O22. -/
theorem uncoverHandedToNobody : Obligations.UncoverHandedToNobody := by
  intro s c hrun hcovered hentry hnobody
  have hforced : s.forcedCloseFirst c = false := by
    by_cases hc : c = .scan
    · subst hc
      refine State.forcedCloseFirst_of_no_window (fun x hx => ?_) _
      rcases hnobody with h | h | ⟨-, h⟩ | ⟨-, h⟩
      · exact absurd h (by decide)
      · simp [h]
      · simp [h]
      · exact h x hx
    · exact State.forcedCloseFirst_of_other hc
  have hscan : (s.uncovered c).scan = s.scan := by rw [State.uncovered_eq]
  have hnobody' : c = .cancel ∨ (s.cell c).occupant = none ∨ (c ≠ .merge ∧ (s.cell c).occupant = some .untracked) ∨
      (c = .scan ∧ ∀ x, (s.uncovered c).scan.window = some x → (s.cell c).occupant ≠ some (.piece x.piece)) := by
    rw [hscan]
    refine hnobody.imp_right (Or.imp_right (Or.imp_right ?_))
    rintro ⟨rfl, h⟩
    exact ⟨rfl, h⟩
  have hhand := State.handUncover_of_nobody (s := s.uncovered c) hentry hnobody' s.position
  refine ⟨_, exec_uncover hcovered, ?_⟩
  rw [State.uncoverCell_of_uncovered hrun hforced, hhand]
  refine ⟨?_, fun d hd => ?_, fun d => s.uncovered_queue c d, s.uncovered_schedule c, ?_⟩
  · refine (State.cell_setCell_same _ _ _).trans ?_
    rw [State.uncovered_cell_same]
  · exact (State.cell_setCell_other _ _ hd).trans (State.uncovered_cell_other s hd)
  · rw [State.setOccupant, State.setCell, State.uncovered_eq]

/-! ## The intake and the crawl (R75, R143) -/

/-- Settles O36. -/
theorem intakeAndCrawlComplete : Obligations.IntakeAndCrawlComplete := by
  intro s
  refine ⟨?_, fun h => congrArg Host.Outcome.next (if_neg (by rw [h]; decide)), fun h => ?_, ?_,
    fun h => congrArg Host.Outcome.next (if_neg (by rw [h]; decide)), fun h => congrArg Host.Outcome.next (if_pos h)⟩
  · simp [State.intakeDone, and_assoc]
  · refine congrArg Host.Outcome.next ((if_pos h).trans ?_)
    simp [State.startDwell, State.setPocket, motorFor]
  · simp [State.crawlEnds]

end Sys2Proof.Machine

/-! PROOFS. Covers that match no tracked piece, and the ENTRY uncover (spec/01, R7 to R9, R15, R18, R19). -/

namespace Sys2Proof.Machine

open Sys2Proof.Safety

/-! ## The state a cover is handled in -/

/-- Level and capture set (R3). -/
def State.coveredAt (s : State) (c : Cell) (pos : Pos) : State := s.setCell c { s.cell c with covered := true, coverAt := pos }

theorem State.coveredAt_cell_same (s : State) (c : Cell) (pos : Pos) :
    (s.coveredAt c pos).cell c = { s.cell c with covered := true, coverAt := pos } := State.cell_setCell_same _ _ _

theorem State.coveredAt_cell_other (s : State) {c d : Cell} (pos : Pos) (h : d ≠ c) : (s.coveredAt c pos).cell d = s.cell d :=
  State.cell_setCell_other _ _ h

@[simp] theorem State.coveredAt_queue (s : State) (c d : Cell) (pos : Pos) : (s.coveredAt c pos).queue d = s.queue d := rfl

theorem exec_cover_of_running {s : State} {c : Cell} (hrun : s.run.state.isRunning = true) (h : (s.cell c).covered = false)
    (k : Capture) :
    exec (.cover ⟨c, k⟩) s = .next ((s.coveredAt c (coverPos s k)).handleCover c (coverPos s k)) := by
  rw [exec_cover h, State.coverCell_of_running hrun, State.coveredAt]

/-- A cover of a cell other than ENTRY that is no re-cover of POCKET is matched (R7, R76). -/
theorem State.handleCover_of_match {s : State} {c : Cell} (hentry : c ≠ .entry)
    (hpocket : c = .pocket → s.pocket.state = .releasing → s.pocket.cellClear = false) (pos : Pos) :
    s.handleCover c pos = s.matchCover c pos := by
  refine (if_neg hentry).trans (if_neg ?_)
  rintro ⟨hc, hstate, hclear⟩
  rw [hpocket hc hstate] at hclear
  exact absurd hclear (by decide)

theorem State.insideWindow_iff (s : State) (x : Expectation) (pos : Pos) :
    s.insideWindow x pos = true ↔ distanceAhead pos x.early ≤ 2 * s.plan.cellTol := decide_eq_true_iff

/-! ## STRAY (R9) -/

theorem State.matchCover_of_stray {s : State} {c : Cell} {pos : Pos}
    (h : ∀ x rest, dropStale pos (s.queue c) = x :: rest → s.insideWindow x pos = false) :
    s.matchCover c pos = (s.setQueue c (dropStale pos (s.queue c))).trip .stray (some c) pos none := by
  cases hd : dropStale pos (s.queue c) with
  | nil => exact State.matchCover_of_empty hd
  | cons x rest => exact State.matchCover_of_outside hd (h x rest hd)

/-- A trip found by the cell unit, which has changed the cells and queues before, is a trip of the machine as it was. -/
theorem tripped_of_cellUnit {s u t : State} {cause : TripCause} {cell : Option Cell} {at' : Pos} {piece : Option PieceNo}
    (hu : u = { s with cellUnit := u.cellUnit }) (h : tripped u t cause cell at' piece) : tripped s t cause cell at' piece := by
  rw [hu] at h
  exact h

/-- Settles O15. -/
theorem strayCoverTrips : Obligations.StrayCoverTrips := by
  intro s c k hwf hrun hlatch hclear hentry hpocket pos hmiss
  let u := s.coveredAt c pos
  let v := u.setQueue c (dropStale pos (u.queue c))
  have hmatch : u.matchCover c pos = v.trip .stray (some c) pos none := by
    refine State.matchCover_of_stray fun x rest hx => ?_
    have : ¬ distanceAhead pos x.early ≤ 2 * u.plan.cellTol := Nat.not_le.mpr (hmiss x rest hx)
    exact Bool.eq_false_iff.mpr (mt (State.insideWindow_iff _ _ _).mp this)
  have hv : v = { s with cellUnit := v.cellUnit } := rfl
  have hcell : v.cell c = { s.cell c with covered := true, coverAt := pos } := s.coveredAt_cell_same c pos
  have hcell' : ∀ d, d ≠ c → v.cell d = s.cell d := fun d hd => s.coveredAt_cell_other pos hd
  have hqueue : v.queue c = dropStale pos (s.queue c) := State.queue_setQueue_same _ _ _
  have hqueue' : ∀ d, d ≠ c → v.queue d = s.queue d := fun d hd => State.queue_setQueue_other _ _ hd
  refine ⟨_, (exec_cover_of_running hrun hclear k).trans (congrArg Host.Outcome.next
    ((State.handleCover_of_match (s := u) hentry hpocket pos).trans hmatch)), ?_⟩
  clear_value v
  have htrip : tripped v (v.trip .stray (some c) pos none) .stray (some c) pos none :=
    State.trip_tripped (by rw [hv]; exact hwf) (by rw [hv]; exact hrun) (by rw [hv]; exact hlatch) _ _ _ _
  refine ⟨tripped_of_cellUnit hv htrip, ?_, ?_, fun d hd => ⟨?_, ?_⟩, ?_, ?_, ?_, ?_, ?_⟩
  · simpa [State.cell] using hcell
  · simpa [State.queue] using hqueue
  · simpa [State.cell] using hcell' d hd
  · simpa [State.queue] using hqueue' d hd
  all_goals rw [hv]; simp

/-! ## Untracked matches (R19) -/

/-- The untracked expectation `n` steps from a cover (R5, R19). -/
def untrackedAhead (pl : Plan) (pos : Pos) (n : Nat) : Expectation :=
  ⟨.untracked, posSub (posAdd pos n) pl.cellTol, posAdd (posAdd pos n) pl.cellTol⟩

theorem nextUntracked_iff (pl : Plan) (c d : Cell) (n : Nat) : nextUntracked pl c = some (d, n) ↔
    (c = .scan ∧ d = .merge ∧ n = pl.dMerge - pl.dScan) ∨ (c = .merge ∧ d = .cancel ∧ n = pl.dCancel - pl.dMerge) ∨
      (c = .cancel ∧ d = .endCell ∧ n = pl.dEnd - pl.dCancel) := by
  cases c <;> simp [nextUntracked, eq_comm]

section
variable {s : State} {c : Cell} (pos : Pos)

theorem State.matchUntracked_of_next {d : Cell} {n : Nat} (h : nextUntracked s.plan c = some (d, n)) :
    s.matchUntracked c pos = (s.setOccupant c (some .untracked)).setQueue d (placeExpectation (untrackedAhead s.plan pos n) (s.queue d)) := by
  have hplan : (s.setOccupant c (some .untracked)).plan = s.plan := rfl
  simp only [State.matchUntracked, hplan, h]
  rfl

theorem State.matchUntracked_of_last (h : nextUntracked s.plan c = none) :
    s.matchUntracked c pos = s.setOccupant c (some .untracked) := by
  have hplan : (s.setOccupant c (some .untracked)).plan = s.plan := rfl
  simp only [State.matchUntracked, hplan, h]

/-- The queues after an untracked match: the next cell's gains the expectation, and no other changes. -/
theorem State.matchUntracked_queue (d : Cell) (y : Expectation) : y ∈ (s.matchUntracked c pos).queue d ↔
    y ∈ s.queue d ∨ ∃ n, nextUntracked s.plan c = some (d, n) ∧ y = untrackedAhead s.plan pos n := by
  cases hnext : nextUntracked s.plan c with
  | none => simp [State.matchUntracked_of_last pos hnext, State.setOccupant]
  | some x =>
    obtain ⟨c', m⟩ := x
    rw [State.matchUntracked_of_next pos hnext]
    by_cases hd : d = c'
    · subst hd
      simp only [State.queue_setQueue_same, mem_placeExpectation, Option.some.injEq, Prod.mk.injEq, true_and, exists_eq_left']
      exact or_comm
    · have hqueue : (s.setOccupant c (some .untracked)).queue d = s.queue d := rfl
      simp [State.queue_setQueue_other _ _ hd, hqueue, Ne.symm hd]

theorem State.matchUntracked_queue_same : (s.matchUntracked c pos).queue c = s.queue c := by
  cases hnext : nextUntracked s.plan c with
  | none => rw [State.matchUntracked_of_last pos hnext]; rfl
  | some x =>
    obtain ⟨c', m⟩ := x
    have hne : c ≠ c' := by
      rcases (nextUntracked_iff _ _ _ _).mp hnext with ⟨rfl, rfl, -⟩ | ⟨rfl, rfl, -⟩ | ⟨rfl, rfl, -⟩ <;> decide
    rw [State.matchUntracked_of_next pos hnext]
    exact State.queue_setQueue_other _ _ hne

theorem State.matchUntracked_cell (d : Cell) :
    (s.matchUntracked c pos).cell d = (s.setOccupant c (some .untracked)).cell d := by
  cases hnext : nextUntracked s.plan c with
  | none => rw [State.matchUntracked_of_last pos hnext]
  | some x => rw [State.matchUntracked_of_next pos hnext]; rfl

theorem State.matchUntracked_eq : s.matchUntracked c pos = { s with cellUnit := (s.matchUntracked c pos).cellUnit } := by
  cases hnext : nextUntracked s.plan c with
  | none => rw [State.matchUntracked_of_last pos hnext]; rfl
  | some x => rw [State.matchUntracked_of_next pos hnext]; rfl

end

/-- Settles O19. -/
theorem untrackedCoverMatches : Obligations.UntrackedCoverMatches := by
  intro s c k x rest hrun hclear hentry pos hpocket hstale hwho hinside
  let u := s.coveredAt c pos
  let v := (u.setQueue c (x :: rest)).setQueue c rest
  have hmatch : u.matchCover c pos = v.matchUntracked c pos :=
    State.matchCover_of_untracked (s := u) hstale ((State.insideWindow_iff _ _ _).mpr hinside) hwho
  have hcell : ∀ d, v.cell d = u.cell d := fun d => rfl
  have hqueue : ∀ d, d ≠ c → v.queue d = s.queue d := fun d hd =>
    (State.queue_setQueue_other _ _ hd).trans (State.queue_setQueue_other _ _ hd)
  refine ⟨_, (exec_cover_of_running hrun hclear k).trans (congrArg Host.Outcome.next
    ((State.handleCover_of_match (s := u) hentry (fun hc hs => absurd hs (hpocket hc)) pos).trans hmatch)), ?_⟩
  refine ⟨?_, fun d hd => ?_, ?_, fun d y hd => ?_, ?_⟩
  · rw [State.matchUntracked_cell, State.setOccupant, State.cell_setCell_same, hcell, State.coveredAt_cell_same]
  · rw [State.matchUntracked_cell, State.setOccupant, State.cell_setCell_other _ _ hd, hcell, State.coveredAt_cell_other _ _ hd]
  · rw [State.matchUntracked_queue_same]
    exact State.queue_setQueue_same _ _ _
  · rw [State.matchUntracked_queue, hqueue d hd]
    exact or_congr_right (exists_congr fun n => and_congr_left fun _ => nextUntracked_iff _ _ _ _)
  · rw [State.matchUntracked_eq]
    rfl

/-! ## The ENTRY uncover (R15) -/

theorem CullSet.has_add (c : CullSet) (k j : CullReason) : (c.add j).has k = (c.has k || k == j) := by
  cases j <;> cases k <;> simp [CullSet.add, CullSet.has]

/-- Measuring a piece writes its length and its length culls (R15). -/
theorem measure_eq (pl : Plan) (pos : Pos) (r : Record) :
    measure pl pos r = { r with length := some (distanceAhead pos r.lead), culls := (measure pl pos r).culls } := by
  simp only [measure]
  split <;> split <;> rfl

theorem has_measure (pl : Plan) (pos : Pos) (r : Record) (k : CullReason) : (measure pl pos r).culls.has k =
    (r.culls.has k || (k == .overlength && decide (pl.maxLen < distanceAhead pos r.lead)) ||
      (k == .underlength && decide (distanceAhead pos r.lead < pl.minLen))) := by
  simp only [measure]
  split <;> split <;> simp [Record.cull, CullSet.has_add, *]

/-- What the ENTRY uncover makes of the records: the tracked occupant is measured (R15). -/
theorem State.entryUncover_record? (s : State) (pos : Pos) (o : Option Occupant) (q : PieceNo) :
    (s.entryUncover pos o).record? q = (s.record? q).map (fun r => if o = some (.piece q) then measure s.plan pos r else r) := by
  have hnumber : ∀ r, (measure s.plan pos r).number = r.number := fun r => by rw [measure_eq]
  match o with
  | some (.piece p) =>
    refine (s.record?_updateRecord_number p q (measure s.plan pos) hnumber).trans ?_
    simp only [Option.some.injEq, Occupant.piece.injEq, eq_comm]
  | some .untracked | none =>
    refine Eq.trans (b := s.record? q) rfl ?_
    simp

theorem State.entryUncover_eq (s : State) (pos : Pos) (o : Option Occupant) : s.entryUncover pos o =
    { s with
      records := (s.entryUncover pos o).records
      admission := { s.admission with prevTrail := some pos, travel := 0, prevPiece := o } } := by
  simp only [State.entryUncover]
  split <;> rfl

/-- Settles O21. -/
theorem entryUncoverMeasures : Obligations.EntryUncoverMeasures := by
  intro s hrun hcovered
  have hforced : s.forcedCloseFirst .entry = false := State.forcedCloseFirst_of_other (by decide)
  have hu := s.uncovered_eq .entry
  have hcell := s.uncovered_cell_same .entry
  have hcell' : ∀ d, d ≠ Cell.entry → _ := fun d hd => s.uncovered_cell_other (c := .entry) (d := d) hd
  have hqueue := s.uncovered_queue .entry
  have hschedule := s.uncovered_schedule .entry
  refine ⟨_, (exec_uncover hcovered).trans (congrArg Host.Outcome.next (State.uncoverCell_of_uncovered hrun hforced)), ?_⟩
  generalize s.uncovered .entry = u at *
  have hplan : u.plan = s.plan := by rw [hu]
  have hold : ∀ q, u.record? q = s.record? q := fun q => by rw [hu]; rfl
  have hhand : u.handUncover .entry (s.cell .entry).occupant s.position = u.entryUncover s.position (s.cell .entry).occupant := by
    rw [State.handUncover]
  rw [hhand]
  have ht := u.entryUncover_eq s.position (s.cell .entry).occupant
  have hrecord := u.entryUncover_record? s.position (s.cell .entry).occupant
  simp only [hold, hplan] at hrecord
  generalize u.entryUncover s.position (s.cell .entry).occupant = t at *
  have htcell : ∀ c, t.cell c = u.cell c := fun c => by rw [ht]; rfl
  refine ⟨?_, ?_, fun c hc => ?_, fun c => ?_, fun q hq => ?_, fun p r hp hr => ?_, fun e => ?_, ?_⟩
  · refine (congrArg State.admission ht).trans ?_
    rw [hu]
  · rw [State.setOccupant, State.cell_setCell_same, htcell, hcell]
  · rw [State.setOccupant, State.cell_setCell_other _ _ hc, htcell, hcell' c hc]
  · rw [State.setOccupant, State.queue_setCell, ← hqueue, ht]
    rfl
  · refine (hrecord q).trans ?_
    simp [hq]
  · refine ⟨measure s.plan s.position r, (hrecord p).trans (by simp [hp, hr]), measure_eq _ _ _, has_measure _ _ _⟩
  · rw [← hschedule, ht]
    rfl
  · rw [ht, hu]
    rfl

end Sys2Proof.Machine

/-! PROOFS. The ENTRY cover that lets an untracked piece through (spec/01, R18). -/

namespace Sys2Proof.Machine

open Sys2Proof.Safety

/-! ## Untracked expectations counted (R6, R18) -/

theorem sum_map_set {α : Type} (f : α → Nat) (l : List α) {i : Nat} {x y : α} (hi : l[i]? = some x) :
    ((l.set i y).map f).sum + f x = (l.map f).sum + f y := by
  induction l generalizing i with
  | nil => simp at hi
  | cons z l ih =>
    cases i with
    | zero =>
      obtain rfl : z = x := by simpa using hi
      simp only [List.set_cons_zero, List.map_cons, List.sum_cons]
      omega
    | succ i =>
      have := ih (i := i) (by simpa using hi)
      simp only [List.set_cons_succ, List.map_cons, List.sum_cons]
      omega

/-- The untracked expectations of a queue. -/
def untrackedIn (l : List Expectation) : Nat := l.countP (fun e => e.who == .untracked)

theorem State.untrackedCount_setQueue (s : State) (c : Cell) (q : List Expectation) :
    (s.setQueue c q).untrackedCount + untrackedIn (s.queue c) = s.untrackedCount + untrackedIn q := by
  have hget : s.cellUnit.queues.toList[(cellIdx c).val]? = some (s.queue c) := by
    simp [State.queue, Vector.get]
  have hset : (s.setQueue c q).cellUnit.queues.toList = s.cellUnit.queues.toList.set (cellIdx c).val q := by
    exact Vector.toList_set (cellIdx c).isLt
  rw [State.untrackedCount, State.untrackedCount, hset]
  exact sum_map_set untrackedIn _ hget

theorem untrackedIn_placeExpectation (x : Expectation) (l : List Expectation) :
    untrackedIn (placeExpectation x l) = untrackedIn l + untrackedIn [x] := by
  induction l with
  | nil => exact (Nat.zero_add _).symm
  | cons y l ih =>
    unfold placeExpectation
    split
    · simp only [untrackedIn, List.countP_cons, List.countP_nil]
      omega
    · simp only [untrackedIn, List.countP_cons] at ih ⊢
      omega

/-- An expectation placed stands in its queue, whose others keep their order. -/
theorem placeExpectation_split (x : Expectation) (l : List Expectation) :
    ∃ i j, l = i ++ j ∧ placeExpectation x l = i ++ x :: j := by
  induction l with
  | nil => exact ⟨[], [], rfl, rfl⟩
  | cons y l ih =>
    unfold placeExpectation
    split
    · exact ⟨[], y :: l, rfl, rfl⟩
    · obtain ⟨i, j, hl, hplace⟩ := ih
      exact ⟨y :: i, j, by rw [hl]; rfl, by rw [hplace]; rfl⟩

theorem State.untrackedCount_expectUntracked (s : State) (c : Cell) (lead : Pos) :
    (s.expectUntracked c lead).untrackedCount = s.untrackedCount + 1 := by
  have h := s.untrackedCount_setQueue c (placeExpectation (s.expectationFor .untracked lead) (s.queue c))
  rw [untrackedIn_placeExpectation] at h
  have hone : untrackedIn [s.expectationFor .untracked lead] = 1 := rfl
  rw [State.expectUntracked]
  omega

/-! ## The cover (R18) -/

theorem State.cullPrevious_eq (s : State) : s.cullPrevious = { s with records := s.cullPrevious.records } := by
  unfold State.cullPrevious
  split <;> rfl

theorem State.cullPrevious_record? (s : State) (q : PieceNo) : s.cullPrevious.record? q =
    (s.record? q).map (fun r => if s.gapIsShort = true ∧ s.undecidedPrevious = some q then r.cull .shortGap else r) := by
  cases hgap : s.gapIsShort with
  | false => simp [State.cullPrevious, hgap]
  | true =>
    cases hprevious : s.undecidedPrevious with
    | none => simp [State.cullPrevious, hprevious]
    | some p =>
      have hcull : s.cullPrevious = s.updateRecord p (fun r => r.cull .shortGap) := by simp [State.cullPrevious, hgap, hprevious]
      rw [hcull, s.record?_updateRecord_number p q (fun r => r.cull .shortGap) (fun _ => rfl)]
      simp only [true_and, Option.some.injEq, eq_comm]

/-- The state of R18 before the SCAN expectation. -/
def State.uncounted (s : State) : State := (s.countEvent .untracked).cullPrevious.setOccupant .entry (some .untracked)

theorem State.letThrough_uncounted (s : State) (pos : Pos) : s.letThrough pos =
    if s.uncounted.untrackedCount < 8 then s.uncounted.expectUntracked .scan (posAdd pos s.uncounted.plan.dScan)
    else s.uncounted := s.letThrough_eq pos

theorem State.uncounted_tallied (s : State) : tallied s s.uncounted [] [.untracked] 0 := by
  refine tallied_congr (s.countEvent_tallied .untracked) rfl rfl rfl ?_ ?_ <;> rw [State.uncounted, State.cullPrevious_eq] <;> rfl

theorem State.uncounted_record? (s : State) (q : PieceNo) : s.uncounted.record? q =
    (s.record? q).map (fun r => if s.gapIsShort = true ∧ s.undecidedPrevious = some q then r.cull .shortGap else r) := by
  have hcount : ∀ q, (s.countEvent .untracked).record? q = s.record? q := fun q => State.record?_congr (by simp) q
  have hgap : (s.countEvent .untracked).gapIsShort = s.gapIsShort := by simp [State.gapIsShort, State.entryGap]
  have hprevious : (s.countEvent .untracked).undecidedPrevious = s.undecidedPrevious := by
    simp [State.undecidedPrevious, State.record?]
  have h := (s.countEvent .untracked).cullPrevious_record? q
  rwa [hcount, hgap, hprevious] at h

theorem State.uncounted_cell_same (s : State) : s.uncounted.cell .entry = { s.cell .entry with occupant := some .untracked } := by
  rw [State.uncounted, State.setOccupant, State.cell_setCell_same, State.cullPrevious_eq]
  simp [State.cell]

theorem State.uncounted_cell_other (s : State) {c : Cell} (h : c ≠ .entry) : s.uncounted.cell c = s.cell c := by
  rw [State.uncounted, State.setOccupant, State.cell_setCell_other _ _ h, State.cullPrevious_eq]
  simp [State.cell]

theorem State.uncounted_queues (s : State) : s.uncounted.cellUnit.queues = s.cellUnit.queues := by
  rw [State.uncounted, State.setOccupant, State.setCell, State.cullPrevious_eq]
  simp

theorem State.uncounted_eq (s : State) : s.uncounted =
    { s with cellUnit := s.uncounted.cellUnit, records := s.uncounted.records, tally := s.uncounted.tally, port := s.uncounted.port } := by
  have hframe := s.countEvent_frame .untracked
  have hu : s.uncounted = { s.countEvent .untracked with cellUnit := s.uncounted.cellUnit, records := s.uncounted.records } := by
    rw [State.uncounted, State.cullPrevious_eq]
    rfl
  generalize s.uncounted = u at hu ⊢
  generalize s.countEvent .untracked = v at hframe hu
  cases u
  cases v
  simp_all

/-- Settles O14. -/
theorem entryCoverUntracked : Obligations.EntryCoverUntracked := by
  intro s k hrun hclear hadmit pos
  let u := s.coveredAt .entry pos
  have hhand : u.handleCover .entry pos = u.letThrough pos :=
    (if_pos rfl).trans (if_neg (by rw [show u.canAdmit = false from hadmit]; decide))
  have htallied : tallied s u.uncounted [] [.untracked] 0 := u.uncounted_tallied
  have hcell : u.uncounted.cell .entry = { s.cell .entry with covered := true, coverAt := pos, occupant := some .untracked } := by
    rw [State.uncounted_cell_same, State.coveredAt_cell_same]
  have hcell' : ∀ c, c ≠ Cell.entry → u.uncounted.cell c = s.cell c := fun c hc =>
    (u.uncounted_cell_other hc).trans (s.coveredAt_cell_other pos hc)
  have hrecord := u.uncounted_record?
  have hqueues : u.uncounted.cellUnit.queues = s.cellUnit.queues := u.uncounted_queues
  have hqueue : ∀ c, u.uncounted.queue c = s.queue c := fun c => by rw [State.queue, hqueues]; rfl
  have hcount : u.uncounted.untrackedCount = s.untrackedCount := by rw [State.untrackedCount, hqueues]; rfl
  have heq := u.uncounted_eq
  refine ⟨_, (exec_cover_of_running hrun hclear k).trans (congrArg Host.Outcome.next (hhand.trans (State.letThrough_uncounted _ _))), ?_⟩
  generalize u.uncounted = v at *
  have hplan : v.plan = s.plan := by rw [heq]; rfl
  rw [hcount, hplan]
  by_cases h8 : s.untrackedCount < 8
  · rw [if_pos h8]
    refine ⟨tallied_congr htallied rfl rfl rfl rfl rfl, hcell, hcell', hrecord, fun _ => ⟨?_, ?_⟩, fun h => absurd h8 (Nat.not_lt.mpr h),
      fun c hc => (State.queue_setQueue_other _ _ hc).trans (hqueue c), ?_⟩
    · rw [State.untrackedCount_expectUntracked, hcount]
    · obtain ⟨i, j, hsplit, hplace⟩ := placeExpectation_split (v.expectationFor .untracked (posAdd pos s.plan.dScan)) (v.queue .scan)
      rw [hqueue] at hsplit
      refine ⟨i, j, hsplit, (State.queue_setQueue_same _ _ _).trans (hplace.trans ?_)⟩
      rw [State.expectationFor, hplan]
    · rw [State.expectUntracked, State.setQueue, heq]
      rfl
  · rw [if_neg h8]
    refine ⟨htallied, hcell, hcell', hrecord, fun h => absurd h h8, fun _ => hqueue, fun c _ => hqueue c, ?_⟩
    rw [heq]
    rfl

end Sys2Proof.Machine

/-! PROOFS. The covers that match a tracked piece (spec/01, R4, R7, R8, R117). -/

namespace Sys2Proof.Machine

open Sys2Proof.Safety

/-! ## The match, before anything is inserted -/

theorem arrivalRecord_number (c : Cell) (pos : Pos) (r : Record) : (arrivalRecord c pos r).number = r.number := by
  cases c <;> rfl

/-- Of `s` and `t`: only the cells, the records and the schedule have changed. -/
abbrev onlyPieces (s t : State) : Prop := t = { s with cellUnit := t.cellUnit, records := t.records, schedule := t.schedule }

theorem onlyPieces.trans {s t u : State} (h : onlyPieces s t) (h' : onlyPieces t u) : onlyPieces s u := by
  unfold onlyPieces at *
  calc u = { t with cellUnit := u.cellUnit, records := u.records, schedule := u.schedule } := h'
    _ = { s with cellUnit := u.cellUnit, records := u.records, schedule := u.schedule } := by rw [h]

section
variable {s t : State} (h : onlyPieces s t)
include h

theorem onlyPieces_protect : t.protect = s.protect := by rw [h]

theorem onlyPieces_position : t.position = s.position := by rw [h]

theorem onlyPieces_run : t.run = s.run := by rw [h]

theorem onlyPieces_mem : t.mem = s.mem := by rw [h]

theorem onlyPieces_plan : t.plan = s.plan := by rw [h]

theorem onlyPieces_pocket : t.pocket = s.pocket := by rw [h]

theorem onlyPieces_scan : t.scan = s.scan := by rw [h]

end

theorem State.updateRecord_onlyPieces (s : State) (p : PieceNo) (f : Record → Record) : onlyPieces s (s.updateRecord p f) := rfl

theorem State.setCell_onlyPieces (s : State) (c : Cell) (x : CellState) : onlyPieces s (s.setCell c x) := rfl

theorem State.setQueue_onlyPieces (s : State) (c : Cell) (q : List Expectation) : onlyPieces s (s.setQueue c q) := rfl

theorem State.dropExpectation_onlyPieces (s : State) (p : PieceNo) : onlyPieces s (s.dropExpectation p) := rfl

section
variable (s : State) (c : Cell) (pos : Pos) (p : PieceNo)

/-- The matching before the piece's record follows: levels, the queues and the schedule (R5, R7). -/
def State.unexpected : State := ((s.coveredAt c pos).setQueue c (dropStale pos (s.queue c))).dropExpectation p

/-- A cover matched to a tracked piece, before its OVERSTAY entry (R4, R7, R22). -/
def State.matched : State :=
  (((s.unexpected c pos p).updateRecord p (arrivalRecord c pos)).setOccupant c (some (.piece p))).updateRecord p
    (fun r => { r with lastCell := c })

theorem State.unexpected_queue (d : Cell) : (s.unexpected c pos p).queue d =
    (if d = c then dropStale pos (s.queue c) else s.queue d).filter (fun x => x.who != .piece p) := by
  have hfilter : (s.unexpected c pos p).queue d =
      (((s.coveredAt c pos).setQueue c (dropStale pos (s.queue c))).queue d).filter (fun x => x.who != .piece p) :=
    State.queue_filterQueues _ _ _
  rw [hfilter]
  split
  · next h => rw [h, State.queue_setQueue_same]
  · next h => rw [State.queue_setQueue_other _ _ h, State.coveredAt_queue]

theorem State.mem_dropExpectation_schedule (e : Entry) : e ∈ (s.dropExpectation p).schedule ↔
    e ∈ s.schedule ∧ ¬ (e.piece = p ∧ ∃ d, e.kind = .cellDeadline d) := by
  have hschedule : (s.dropExpectation p).schedule = s.schedule.filter (fun x => !(x.piece == p && (match x.kind with
      | .cellDeadline _ => true
      | _ => false))) := rfl
  rw [hschedule, List.mem_filter]
  refine and_congr_right fun _ => ?_
  cases e.kind <;> simp

theorem State.matched_record? {r : Record} (h : s.record? p = some r) : (s.matched c pos p).record? p = some { r with
    phase := match c with
      | .scan => .scanning
      | .pocket => .pocketed
      | .merge => .downstream
      | _ => r.phase
    lead := if c = .merge then pos else r.lead
    lastCell := c
    next := none } := by
  have h1 : (s.unexpected c pos p).record? p = some { r with next := none } := by
    refine (State.record?_updateRecord_same _ p (fun r => { r with next := none }) (fun _ => rfl)).trans ?_
    rw [State.record?_congr (t := s) (by rfl), h]
    rfl
  have h2 : ((s.unexpected c pos p).updateRecord p (arrivalRecord c pos)).record? p = some (arrivalRecord c pos { r with next := none }) := by
    rw [State.record?_updateRecord_same _ _ _ (arrivalRecord_number c pos), h1]
    rfl
  refine (State.record?_updateRecord_same _ p (fun r => { r with lastCell := c }) (fun _ => rfl)).trans ?_
  rw [State.record?_congr (t := (s.unexpected c pos p).updateRecord p (arrivalRecord c pos)) (by rfl), h2]
  cases c <;> rfl

theorem State.matched_record?_other {q : PieceNo} (h : q ≠ p) : (s.matched c pos p).record? q = s.record? q := by
  refine (State.record?_updateRecord_other _ (fun r => { r with lastCell := c }) (fun _ => rfl) h).trans ?_
  refine (State.record?_congr (t := (s.unexpected c pos p).updateRecord p (arrivalRecord c pos)) (by rfl) q).trans ?_
  refine (State.record?_updateRecord_other _ _ (arrivalRecord_number c pos) h).trans ?_
  exact State.record?_updateRecord_other _ (fun r => { r with next := none }) (fun _ => rfl) h

theorem State.matched_onlyPieces : onlyPieces s (s.matched c pos p) := by
  have h : onlyPieces s (s.unexpected c pos p) :=
    (State.setCell_onlyPieces s c _).trans ((State.setQueue_onlyPieces _ c _).trans (State.dropExpectation_onlyPieces _ p))
  exact ((h.trans (State.updateRecord_onlyPieces _ _ _)).trans (State.setCell_onlyPieces _ _ _)).trans
    (State.updateRecord_onlyPieces _ _ _)

@[simp] theorem State.matched_protect : (s.matched c pos p).protect = s.protect := onlyPieces_protect (s.matched_onlyPieces c pos p)

@[simp] theorem State.matched_position : (s.matched c pos p).position = s.position := onlyPieces_position (s.matched_onlyPieces c pos p)

@[simp] theorem State.matched_run : (s.matched c pos p).run = s.run := onlyPieces_run (s.matched_onlyPieces c pos p)

@[simp] theorem State.matched_mem : (s.matched c pos p).mem = s.mem := onlyPieces_mem (s.matched_onlyPieces c pos p)

@[simp] theorem State.matched_plan : (s.matched c pos p).plan = s.plan := onlyPieces_plan (s.matched_onlyPieces c pos p)

@[simp] theorem State.matched_pocket : (s.matched c pos p).pocket = s.pocket := onlyPieces_pocket (s.matched_onlyPieces c pos p)

@[simp] theorem State.matched_scan : (s.matched c pos p).scan = s.scan := onlyPieces_scan (s.matched_onlyPieces c pos p)

theorem State.coverMatched_matched {r : Record} (h : s.record? p = some r) : coverMatched s (s.matched c pos p) c pos p r := by
  have hcell : ∀ d, ((s.unexpected c pos p).updateRecord p (arrivalRecord c pos)).cell d = (s.coveredAt c pos).cell d := fun d => rfl
  refine ⟨s.matched_record? c pos p h, fun q hq => s.matched_record?_other c pos p hq, ?_, fun d hd => ?_,
    fun d => s.unexpected_queue c pos p d, fun e => State.mem_dropExpectation_schedule _ p e, s.matched_onlyPieces c pos p⟩
  · refine (State.cell_setCell_same _ _ _).trans ?_
    rw [hcell, State.coveredAt_cell_same]
  · exact (State.cell_setCell_other _ _ hd).trans (s.coveredAt_cell_other pos hd)

end

/-! ## The OVERSTAY entry (R4, R11) -/

/-- The occupant is set and the record follows; at every cell but POCKET its OVERSTAY is inserted (R4). -/
theorem State.occupy_of_record {s u : State} {c : Cell} {p : PieceNo} {r : Record}
    (hu : u = (s.setOccupant c (some (.piece p))).updateRecord p (fun r => { r with lastCell := c })) (hr : u.record? p = some r) (pos : Pos) :
    s.occupy c p pos = if c = .pocket then u else u.insertEntry ⟨.overstay c, p, stayDue s.plan pos r.length⟩ := by
  have hplan : u.plan = s.plan := by rw [hu]; rfl
  simp only [State.occupy, ← hu, hr, Option.bind_some, hplan]
  rfl

section
variable {s : State} {c : Cell} {k : Capture} {p : PieceNo} {r : Record} {early late : Pos} {rest : List Expectation}

/-- A matched cover once its OVERSTAY is inserted (R4, R11). -/
def State.matchedStay (s : State) (c : Cell) (pos : Pos) (p : PieceNo) (length : Option Nat) : State :=
  if c = .pocket then s.matched c pos p else (s.matched c pos p).insertEntry ⟨.overstay c, p, stayDue s.plan pos length⟩

/-- A cover that the head of its queue matches is the match, its OVERSTAY inserted, and the hand-over where it leaves the machine
running (R4, R7). -/
theorem exec_cover_of_tracked (hrun : s.run.state.isRunning = true) (hclear : (s.cell c).covered = false) (hentry : c ≠ .entry)
    (hpocket : c = .pocket → s.pocket.state = .releasing → s.pocket.cellClear = false) (hr : s.record? p = some r)
    (hstale : dropStale (coverPos s k) (s.queue c) = ⟨.piece p, early, late⟩ :: rest)
    (hinside : distanceAhead (coverPos s k) early ≤ 2 * s.plan.cellTol) :
    exec (.cover ⟨c, k⟩) s = .next
      (if (s.matchedStay c (coverPos s k) p r.length).run.state.isRunning then
        (s.matchedStay c (coverPos s k) p r.length).handCover c p (coverPos s k)
      else s.matchedStay c (coverPos s k) p r.length) := by
  let u := s.coveredAt c (coverPos s k)
  have hmatch : u.matchCover c (coverPos s k) = (u.setQueue c (dropStale (coverPos s k) (s.queue c))).matchTracked c p (coverPos s k) := by
    rw [hstale]
    exact State.matchCover_of_tracked (s := u) hstale ((State.insideWindow_iff _ _ _).mpr hinside) rfl
  have hoccupy : ((s.unexpected c (coverPos s k) p).updateRecord p (arrivalRecord c (coverPos s k))).occupy c p (coverPos s k) =
      s.matchedStay c (coverPos s k) p r.length :=
    State.occupy_of_record (u := s.matched c (coverPos s k) p) rfl (s.matched_record? c (coverPos s k) p hr) (coverPos s k)
  refine (exec_cover_of_running hrun hclear k).trans (congrArg Host.Outcome.next
    ((State.handleCover_of_match (s := u) hentry hpocket _).trans (hmatch.trans ?_)))
  rw [← hoccupy]
  rfl

theorem State.matchedStay_of_ahead (hlatch : s.protect.latch = false) {pos : Pos} {length : Option Nat} (hc : c ≠ .pocket)
    (h : isAhead (stayDue s.plan pos length) s.position = true) : s.matchedStay c pos p length =
      { s.matched c pos p with schedule := placeEntry ⟨.overstay c, p, stayDue s.plan pos length⟩ (s.matched c pos p).schedule } := by
  rw [State.matchedStay, if_neg hc]
  rw [State.insertEntry_of_ahead (by rw [s.matched_protect, hlatch]) (by rw [s.matched_position]; exact h),
    mergeCloses_of_not_open _ _ (by simp)]

theorem State.matchedStay_of_overdue (hlatch : s.protect.latch = false) {pos : Pos} {length : Option Nat} (hc : c ≠ .pocket)
    (h : isAhead (stayDue s.plan pos length) s.position = false) : s.matchedStay c pos p length =
      (s.matched c pos p).trip .overstay (some c) (stayDue s.plan pos length) (some p) := by
  rw [State.matchedStay, if_neg hc]
  rw [State.insertEntry_of_overdue (by rw [s.matched_protect, hlatch]) (by rw [s.matched_position]; exact h),
    mergeCloses_of_not_open _ _ (by simp)]
  exact State.takeEntry_overstay

end

/-- The OVERSTAY of a match joins the schedule, but at POCKET; nothing else changes (R4). -/
theorem State.matchedStay_schedule {s : State} {c : Cell} {pos : Pos} {length : Option Nat} (hlatch : s.protect.latch = false)
    (h : isAhead (stayDue s.plan pos length) s.position = true) (p : PieceNo) :
    (∀ e, e ∈ (s.matchedStay c pos p length).schedule ↔
      e ∈ (s.matched c pos p).schedule ∨ (c ≠ .pocket ∧ e = ⟨.overstay c, p, stayDue s.plan pos length⟩)) ∧
    s.matchedStay c pos p length = { s.matched c pos p with schedule := (s.matchedStay c pos p length).schedule } := by
  by_cases hc : c = .pocket
  · have hstay : s.matchedStay c pos p length = s.matched c pos p := if_pos hc
    rw [hstay]
    generalize s.matched c pos p = u
    exact ⟨fun e => by simp [hc], rfl⟩
  · rw [State.matchedStay_of_ahead hlatch hc h]
    generalize s.matched c pos p = u
    refine ⟨fun e => (mem_placeEntry _ _ _).trans ?_, rfl⟩
    simp [hc, or_comm]

/-- A piece enters a pocket reserved for it, and no other (R74). -/
theorem State.enterPocket_pocket (s : State) (p : PieceNo) : (s.pocket.state = .reserved → s.pocket.occupant = some p →
      (s.enterPocket p).pocket = { s.pocket with state := .entering, intake := 0, cellClear := false, motor := motorFor .entering s.protect.latch }) ∧
    (s.pocket.state ≠ .reserved → (s.enterPocket p).pocket = s.pocket) ∧
    s.enterPocket p = { s with pocket := (s.enterPocket p).pocket } := by
  unfold State.enterPocket
  split
  · next h => exact ⟨fun _ _ => rfl, fun hn => absurd h.1 hn, rfl⟩
  · next h => exact ⟨fun hs ho => absurd ⟨hs, ho⟩ h, fun _ => rfl, rfl⟩

/-- What the owner of a matched cover of SCAN, POCKET, a stacker cell or END does (R25, R74, R118). -/
theorem State.handCover_matched {s : State} {c : Cell} (hentry : c ≠ .entry) (hmerge : c ≠ .merge) (hcancel : c ≠ .cancel)
    (hlatch : s.protect.latch = false) (p : PieceNo) (pos : Pos) :
    (s.handCover c p pos).scan = (if c = .scan then ⟨some ⟨p, pos, 0⟩, PerScanner.all ⟨none, []⟩⟩ else s.scan) ∧
    (c = .pocket → s.pocket.state = .reserved → s.pocket.occupant = some p →
      (s.handCover c p pos).pocket = { s.pocket with state := .entering, intake := 0, cellClear := false, motor := .inward }) ∧
    (c ≠ .pocket ∨ s.pocket.state ≠ .reserved → (s.handCover c p pos).pocket = s.pocket) ∧
    s.handCover c p pos = { s with scan := (s.handCover c p pos).scan, pocket := (s.handCover c p pos).pocket } := by
  have hmotor : motorFor .entering s.protect.latch = .inward := by rw [hlatch]; rfl
  obtain ⟨henters, hother, heq⟩ := s.enterPocket_pocket p
  rw [hmotor] at henters
  cases c with
  | entry => exact absurd rfl hentry
  | merge => exact absurd rfl hmerge
  | cancel => exact absurd rfl hcancel
  | scan => exact ⟨rfl, by simp, fun _ => rfl, rfl⟩
  | pocket =>
    have hhand : s.handCover .pocket p pos = s.enterPocket p := by rw [State.handCover]
    have hscan : (s.enterPocket p).scan = s.scan := by rw [heq]
    rw [hhand, hscan]
    refine ⟨rfl, fun _ => henters, fun h => hother (h.resolve_left (by simp)), heq⟩
  | stk k => exact ⟨rfl, by simp, fun _ => rfl, rfl⟩
  | endCell => exact ⟨rfl, by simp, fun _ => rfl, rfl⟩

/-- Settles O16. -/
theorem trackedCoverMatches : Obligations.TrackedCoverMatches := by
  constructor
  · intro s c k p r early late rest hrun hlatch hclear hentry hmerge hcancel hpocket hr pos hstale hinside hahead
    refine ⟨_, s.matched c pos p, exec_cover_of_tracked hrun hclear hentry hpocket hr hstale hinside, s.coverMatched_matched c pos p hr, ?_⟩
    obtain ⟨hschedule, hstay⟩ := State.matchedStay_schedule hlatch hahead p
    have hrun' := s.matched_run c pos p
    have hprotect := s.matched_protect c pos p
    have hpocket' := s.matched_pocket c pos p
    have hscan := s.matched_scan c pos p
    generalize s.matchedStay c pos p r.length = w at *
    generalize s.matched c pos p = u at *
    have hwrun : w.run.state.isRunning = true := by rw [hstay, hrun', hrun]
    obtain ⟨htscan, henters, hother, ht⟩ := State.handCover_matched (s := w) hentry hmerge hcancel (by rw [hstay, hprotect, hlatch]) p pos
    rw [if_pos hwrun]
    generalize w.handCover c p pos = t at *
    have hwpocket : w.pocket = s.pocket := by rw [hstay, hpocket']
    have hwscan : w.scan = s.scan := by rw [hstay, hscan]
    rw [hwpocket] at henters hother
    rw [hwscan] at htscan
    refine ⟨fun e => ?_, htscan, henters, hother, ?_⟩
    · rw [← hschedule, ht]
    · rw [ht, hstay]
  · intro s c k p r early late rest hwf hrun hlatch hclear hentry hpocket hr pos hstale hinside hover
    have hstay := State.matchedStay_of_overdue (p := p) hlatch hpocket hover
    have hu := s.matched_onlyPieces c pos p
    refine ⟨_, s.matched c pos p, exec_cover_of_tracked hrun hclear hentry (absurd · hpocket) hr hstale hinside,
      s.coverMatched_matched c pos p hr, ?_⟩
    rw [hstay]
    generalize s.matched c pos p = u at *
    have htrip : tripped u _ _ _ _ _ := State.trip_tripped (by rw [hu]; exact hwf) (by rw [hu]; exact hrun) (by rw [hu]; exact hlatch)
      .overstay (some c) (stayDue s.plan pos r.length) (some p)
    have hjammed : (u.trip .overstay (some c) (stayDue s.plan pos r.length) (some p)).run.state.isRunning = false := by
      rw [htrip.2.2.2.2.2.1]
      rfl
    rw [if_neg (by rw [hjammed]; decide)]
    refine ⟨htrip, by simp, ?_, ?_, ?_, ?_, ?_⟩ <;> simp <;> rw [hu]

end Sys2Proof.Machine

/-! PROOFS. A piece's expectation and its deadline (R5, R6, R10), and the CANCEL cover (R117). -/

namespace Sys2Proof.Machine

open Sys2Proof.Safety

/-! ## Expectations (R5, R6) -/

/-- The expectation of a piece with a predicted lead (R5). -/
def pieceExpectation (pl : Plan) (p : PieceNo) (lead : Pos) : Expectation :=
  ⟨.piece p, posSub lead pl.cellTol, posAdd lead pl.cellTol⟩

/-- A piece's expectation inserted, without its deadline (R5, R6). -/
def State.expecting (s : State) (p : PieceNo) (c : Cell) (lead : Pos) : State :=
  ((s.dropExpectation p).setQueue c (placeExpectation (pieceExpectation s.plan p lead) ((s.dropExpectation p).queue c))).updateRecord p
    (fun r => { r with next := some ⟨c, posSub lead s.plan.cellTol, posAdd lead s.plan.cellTol⟩ })

theorem State.expect_eq (s : State) (p : PieceNo) (c : Cell) (lead : Pos) : s.expect p c lead =
    (s.expecting p c lead).insertEntry ⟨.cellDeadline c, p, posAdd (posAdd lead s.plan.cellTol) 1⟩ := rfl

section
variable (s : State) (p : PieceNo) (c : Cell) (lead : Pos)

theorem State.expecting_onlyPieces : onlyPieces s (s.expecting p c lead) :=
  ((State.dropExpectation_onlyPieces s p).trans (State.setQueue_onlyPieces _ _ _)).trans (State.updateRecord_onlyPieces _ _ _)

theorem State.dropExpectation_record?_other {q : PieceNo} (h : q ≠ p) : (s.dropExpectation p).record? q = s.record? q :=
  State.record?_updateRecord_other _ (fun r => { r with next := none }) (fun _ => rfl) h

theorem State.dropExpectation_record?_same : (s.dropExpectation p).record? p = (s.record? p).map (fun r => { r with next := none }) :=
  State.record?_updateRecord_same _ p (fun r => { r with next := none }) (fun _ => rfl)

theorem State.dropExpectation_queue (d : Cell) : (s.dropExpectation p).queue d = (s.queue d).filter (fun x => x.who != .piece p) :=
  State.queue_filterQueues _ _ _

theorem State.expecting_record?_same : (s.expecting p c lead).record? p =
    (s.record? p).map (fun r => { r with next := some ⟨c, posSub lead s.plan.cellTol, posAdd lead s.plan.cellTol⟩ }) := by
  refine (State.record?_updateRecord_same _ p
    (fun r => { r with next := some ⟨c, posSub lead s.plan.cellTol, posAdd lead s.plan.cellTol⟩ }) (fun _ => rfl)).trans ?_
  rw [State.record?_congr (t := s.dropExpectation p) (by rfl), State.dropExpectation_record?_same, Option.map_map]
  rfl

theorem State.expecting_record?_other {q : PieceNo} (h : q ≠ p) : (s.expecting p c lead).record? q = s.record? q := by
  refine (State.record?_updateRecord_other _
    (fun r => { r with next := some ⟨c, posSub lead s.plan.cellTol, posAdd lead s.plan.cellTol⟩ }) (fun _ => rfl) h).trans ?_
  rw [State.record?_congr (t := s.dropExpectation p) (by rfl), State.dropExpectation_record?_other s p h]

theorem State.expecting_cells : (s.expecting p c lead).cellUnit.cells = s.cellUnit.cells := rfl

theorem State.expecting_queue_same : (s.expecting p c lead).queue c =
    placeExpectation (pieceExpectation s.plan p lead) ((s.queue c).filter (fun x => x.who != .piece p)) := by
  refine (State.queue_setQueue_same (s.dropExpectation p) c _).trans ?_
  rw [State.dropExpectation_queue]

theorem State.expecting_queue_other {d : Cell} (h : d ≠ c) :
    (s.expecting p c lead).queue d = (s.queue d).filter (fun x => x.who != .piece p) :=
  (State.queue_setQueue_other _ _ h).trans (s.dropExpectation_queue p d)

theorem State.mem_expecting_queue (d : Cell) (x : Expectation) : x ∈ (s.expecting p c lead).queue d ↔
    (x ∈ s.queue d ∧ x.who ≠ .piece p) ∨ (d = c ∧ x = pieceExpectation s.plan p lead) := by
  by_cases h : d = c
  · subst h
    rw [State.expecting_queue_same, mem_placeExpectation]
    simp [or_comm]
  · rw [State.expecting_queue_other s p c lead h]
    simp [h]

theorem State.mem_expecting_schedule (e : Entry) : e ∈ (s.expecting p c lead).schedule ↔
    e ∈ s.schedule ∧ ¬ (e.piece = p ∧ ∃ d, e.kind = .cellDeadline d) :=
  s.mem_dropExpectation_schedule p e

end

section
variable {s : State} {p : PieceNo} {c : Cell} {lead : Pos}

/-- A deadline ahead joins the schedule (R5, R58). -/
theorem State.expect_of_ahead (hlatch : s.protect.latch = false)
    (h : isAhead (posAdd (posAdd lead s.plan.cellTol) 1) s.position = true) : s.expect p c lead =
      { s.expecting p c lead with
        schedule := placeEntry ⟨.cellDeadline c, p, posAdd (posAdd lead s.plan.cellTol) 1⟩ (s.expecting p c lead).schedule } := by
  have hu := s.expecting_onlyPieces p c lead
  rw [State.expect_eq, State.insertEntry_of_ahead (by rw [onlyPieces_protect hu, hlatch]) (by rw [onlyPieces_position hu]; exact h),
    mergeCloses_of_not_open _ _ (by simp)]

/-- A deadline overdue at its insertion is MISSING at once, the expectation left in its queue (R10, R58). -/
theorem State.expect_of_overdue (hlatch : s.protect.latch = false)
    (h : isAhead (posAdd (posAdd lead s.plan.cellTol) 1) s.position = false) : s.expect p c lead =
      (s.expecting p c lead).trip .missing (some c) (posAdd (posAdd lead s.plan.cellTol) 1) (some p) := by
  have hu := s.expecting_onlyPieces p c lead
  rw [State.expect_eq, State.insertEntry_of_overdue (by rw [onlyPieces_protect hu, hlatch]) (by rw [onlyPieces_position hu]; exact h),
    mergeCloses_of_not_open _ _ (by simp)]
  exact State.takeEntry_of_standing ⟨pieceExpectation s.plan p lead, (s.mem_expecting_queue p c lead c _).mpr (.inr ⟨rfl, rfl⟩), rfl⟩

end

/-! ## The CANCEL cover (R8, R117) -/

theorem State.handCover_cancel {s : State} {p : PieceNo} {r : Record} {d : Dest} (hr : s.record? p = some r)
    (hd : r.destination = some d) (pos : Pos) :
    s.handCover .cancel p pos = s.expect p (destCell d) (posAdd r.lead (s.plan.destDistance d - s.plan.dMerge)) := by
  rw [State.handCover, State.cancelArrival]
  simp only [hr, hd]

/-- Settles O17. -/
theorem cancelCoverExpectsDestination : Obligations.CancelCoverExpectsDestination := by
  intro s k p r d early late rest hrun hlatch hclear hr hd pos hstale hinside hahead lead lo hi
  have hmatch := s.coverMatched_matched .cancel pos p hr
  have hexec := exec_cover_of_tracked hrun hclear (by decide) (by simp) hr hstale hinside
  obtain ⟨hschedule, hstay⟩ := State.matchedStay_schedule (c := .cancel) hlatch hahead p
  generalize s.matched .cancel pos p = u at *
  have hexec' : exec (.cover ⟨.cancel, k⟩) s = .next (if (s.matchedStay .cancel pos p r.length).run.state.isRunning then
        (s.matchedStay .cancel pos p r.length).handCover .cancel p pos
      else s.matchedStay .cancel pos p r.length) := hexec
  clear hexec
  generalize s.matchedStay .cancel pos p r.length = w at *
  obtain ⟨hurecord, huother, -, -, huqueue, huschedule, hu⟩ := id hmatch
  have hw : onlyPieces s w := by rw [onlyPieces, hstay, hu]
  have hwrun : w.run.state.isRunning = true := by rw [onlyPieces_run hw, hrun]
  have hwrecord : ∀ q, w.record? q = u.record? q := fun q => State.record?_congr (by rw [hstay]) q
  have hwqueue : ∀ c, w.queue c = u.queue c := fun c => by rw [hstay]; rfl
  rw [if_pos hwrun, State.handCover_cancel ((hwrecord p).trans hurecord) hd, onlyPieces_plan hw] at hexec'
  have hexec : exec (.cover ⟨.cancel, k⟩) s = .next (w.expect p (destCell d) lead) := hexec'
  clear hexec'
  let v := w.expecting p (destCell d) lead
  have hv : onlyPieces s v := hw.trans (w.expecting_onlyPieces p (destCell d) lead)
  have hfilter : ∀ c, (w.queue c).filter (fun x => x.who != .piece p) = u.queue c := fun c => by
    rw [hwqueue, huqueue, List.filter_filter]
    simp
  have hvrecord : v.record? p = (u.record? p).map (fun y => { y with next := some ⟨destCell d, lo, hi⟩ }) := by
    rw [← hwrecord, w.expecting_record?_same p (destCell d) lead, onlyPieces_plan hw]
  have hvother : ∀ q, q ≠ p → v.record? q = s.record? q := fun q hq =>
    (w.expecting_record?_other p (destCell d) lead hq).trans ((hwrecord q).trans (huother q hq))
  have hvcells : v.cellUnit.cells = u.cellUnit.cells := by
    rw [w.expecting_cells p (destCell d) lead, hstay]
  have hvqueue : ∀ c, c ≠ destCell d → v.queue c = u.queue c := fun c hc =>
    (w.expecting_queue_other p (destCell d) lead hc).trans (hfilter c)
  have hvqueue' : v.queue (destCell d) = placeExpectation ⟨.piece p, lo, hi⟩ (u.queue (destCell d)) := by
    rw [← hfilter]
    refine (w.expecting_queue_same p (destCell d) lead).trans ?_
    rw [onlyPieces_plan hw, pieceExpectation]
  have hvschedule : ∀ e, e ∈ v.schedule ↔ e ∈ u.schedule ∨ e = ⟨.overstay .cancel, p, stayDue s.plan pos r.length⟩ := fun e => by
    refine (w.mem_expecting_schedule p (destCell d) lead e).trans ?_
    rw [hschedule, huschedule]
    constructor
    · rintro ⟨h | ⟨-, h⟩, -⟩
      · exact .inl h
      · exact .inr h
    · rintro (h | rfl)
      · exact ⟨.inl h, h.2⟩
      · exact ⟨.inr ⟨by decide, rfl⟩, by simp⟩
  refine ⟨_, u, v, hexec, hmatch, hvrecord, hvother, hvcells, hvqueue, ?_, hvschedule, hv, fun hdue => ?_, fun hdue hwf => ?_⟩
  · obtain ⟨i, j, hsplit, hplace⟩ := placeExpectation_split ⟨.piece p, lo, hi⟩ (u.queue (destCell d))
    exact ⟨i, j, hsplit, hvqueue'.trans hplace⟩
  · have ht := State.expect_of_ahead (c := destCell d) (p := p) (by rw [onlyPieces_protect hw, hlatch])
      (by rw [onlyPieces_plan hw, onlyPieces_position hw]; exact hdue)
    rw [onlyPieces_plan hw] at ht
    rw [ht]
    exact ⟨fun e => (mem_placeEntry _ _ _).trans or_comm, rfl⟩
  · have ht := State.expect_of_overdue (c := destCell d) (p := p) (by rw [onlyPieces_protect hw, hlatch])
      (by rw [onlyPieces_plan hw, onlyPieces_position hw]; exact hdue)
    rw [onlyPieces_plan hw] at ht
    rw [ht, show w.expecting p (destCell d) lead = v from rfl]
    clear_value v
    refine ⟨State.trip_tripped (by rw [hv]; exact hwf) (by rw [hv]; exact hrun) (by rw [hv]; exact hlatch) .missing (some (destCell d))
      (posAdd hi 1) (some p), by simp, ?_, ?_, ?_, ?_, ?_⟩ <;> simp <;> rw [hv]

end Sys2Proof.Machine

/-! PROOFS. The grant of a release and the tests of the merge window (spec/05, R77, R80 to R85). -/

namespace Sys2Proof.Machine

open Sys2Proof.Safety

/-! ## A trip or an insertion and the pocket -/

/-- A trip stops the pocket's timers and holds its motor, and leaves the rest of it (R88). -/
theorem State.trip_pocket (s : State) (cause : TripCause) (cell : Option Cell) (at' : Pos) (piece : Option PieceNo) :
    (s.trip cause cell at' piece).pocket = s.pocket ∨
      (s.trip cause cell at' piece).pocket = { s.pocket with dwellTimer := none, holdTimer := none, motor := .hold } := by
  by_cases h : s.run.state.isRunning = true ∧ s.protect.latch = false
  · right
    rw [State.trip_eq_tripActs h.1 h.2]
    simp
  · left
    have h' : s.run.state.isRunning = false ∨ s.protect.latch = true := by
      rcases not_and_or.mp h with h | h
      · exact .inl (by simpa using h)
      · exact .inr (by simpa using h)
    rw [State.trip_of_not h']

/-- The expectation of a piece leaves the pocket, but for the trip of an overdue deadline. -/
theorem State.expect_pocket (s : State) (p : PieceNo) (c : Cell) (lead : Pos) :
    (s.expect p c lead).pocket = s.pocket ∨
      (s.expect p c lead).pocket = { s.pocket with dwellTimer := none, holdTimer := none, motor := .hold } := by
  have hu : (s.expecting p c lead).pocket = s.pocket := onlyPieces_pocket (s.expecting_onlyPieces p c lead)
  cases hlatch : s.protect.latch with
  | true =>
    left
    rw [State.expect_eq, State.insertEntry_of_latch (by rw [onlyPieces_protect (s.expecting_onlyPieces p c lead), hlatch]), hu]
  | false =>
    cases hdue : isAhead (posAdd (posAdd lead s.plan.cellTol) 1) s.position with
    | true =>
      left
      rw [State.expect_of_ahead hlatch hdue]
      exact hu
    | false =>
      rw [State.expect_of_overdue hlatch hdue, ← hu]
      exact State.trip_pocket _ _ _ _ _

/-! ## The grant (R83) -/

/-- The grant before the MERGE expectation: pocket, merge hold and phase (R83). -/
def State.releasing (s : State) (p : PieceNo) : State :=
  let t := ({ s with pocket := { s.pocket with holdTimer := none, passes := 0 } }).setPocket .releasing
  (if t.pocket.mergeHold then t.setMergeGap false else t).updateRecord p (fun r => { r with phase := .released })

/-- The pocket as a grant leaves it (R83). -/
abbrev releasedPocket (s : State) : Pocket :=
  { s.pocket with
    state := .releasing, motor := motorFor .releasing s.protect.latch, holdTimer := none, passes := 0, mergeHold := false }

theorem State.releasing_pocket (s : State) (p : PieceNo) : (s.releasing p).pocket = releasedPocket s := by
  simp only [State.releasing]
  split
  · rfl
  · next h =>
    have hhold : s.pocket.mergeHold = false := by simpa [State.setPocket] using h
    simp [State.updateRecord, State.setPocket, hhold]

theorem State.releasing_eq (s : State) (p : PieceNo) : s.releasing p =
    { s with
      pocket := (s.releasing p).pocket
      run := { s.run with hold := (s.releasing p).run.hold, feedEnable := (s.releasing p).run.feedEnable }
      records := (s.releasing p).records } := by
  simp only [State.releasing]
  split <;> rfl

theorem State.releasing_record? (s : State) (p q : PieceNo) : (s.releasing p).record? q =
    (s.record? q).map (fun r => if q = p then { r with phase := .released } else r) := by
  refine (State.record?_updateRecord_number _ p q (fun r => { r with phase := .released }) (fun _ => rfl)).trans ?_
  congr 1
  split <;> rfl

theorem State.grantRelease_eq (s : State) (p : PieceNo) :
    s.grantRelease p = (s.releasing p).expect p .merge (posAdd s.position s.plan.dRelease) := by
  have h := s.releasing_eq p
  have hposition : (s.releasing p).position = s.position := by rw [h]
  have hplan : (s.releasing p).plan = s.plan := by rw [h]
  rw [← hposition, ← hplan]
  rfl

/-- The MERGE deadline of a grant lies ahead while the release distance and the tolerance are within range. -/
theorem isAhead_release {pl : Plan} (h : pl.dRelease + pl.cellTol < 32767) (q : Pos) :
    isAhead (posAdd (posAdd (posAdd q pl.dRelease) pl.cellTol) 1) q = true := by
  rw [isAhead_iff]
  simp only [posAdd]
  have h1 : (q + BitVec.ofNat 16 pl.dRelease + BitVec.ofNat 16 pl.cellTol + BitVec.ofNat 16 1 - q) =
      BitVec.ofNat 16 (pl.dRelease + pl.cellTol + 1) := by
    apply BitVec.eq_of_toNat_eq
    simp
    omega
  rw [h1, BitVec.toNat_ofNat]
  omega

/-- A release granted with the latch clear and the deadline ahead (R83). -/
theorem State.grantRelease_granted {s : State} {p : PieceNo} (hoccupant : s.pocket.occupant = some p) (hlatch : s.protect.latch = false)
    (h : s.plan.dRelease + s.plan.cellTol < 32767) : granted s (s.grantRelease p) p := by
  have hfeed := (State.grantRelease_keeps hoccupant).feed
  have hv := s.releasing_eq p
  have hpocket := s.releasing_pocket p
  have hrecord := s.releasing_record? p
  have hgrant := s.grantRelease_eq p
  generalize s.releasing p = v at *
  have hvplan : v.plan = s.plan := by rw [hv]
  have hposition : v.position = s.position := by rw [hv]
  have hprotect : v.protect = s.protect := by rw [hv]
  have hschedule : v.schedule = s.schedule := by rw [hv]
  have hqueue : ∀ c, v.queue c = s.queue c := fun c => by rw [hv]; rfl
  have hdue := isAhead_release h s.position
  rw [State.expect_of_ahead (by rw [hprotect, hlatch]) (by rw [hvplan, hposition]; exact hdue), hvplan] at hgrant
  have hw := v.expecting_onlyPieces p .merge (posAdd s.position s.plan.dRelease)
  have hwrecord := v.expecting_record?_same p .merge (posAdd s.position s.plan.dRelease)
  have hwother := fun q => v.expecting_record?_other p .merge (posAdd s.position s.plan.dRelease) (q := q)
  have hwqueue := v.mem_expecting_queue p .merge (posAdd s.position s.plan.dRelease)
  have hwschedule := v.mem_expecting_schedule p .merge (posAdd s.position s.plan.dRelease)
  have hwcells := v.expecting_cells p .merge (posAdd s.position s.plan.dRelease)
  generalize v.expecting p .merge (posAdd s.position s.plan.dRelease) = w at *
  rw [hgrant] at hfeed ⊢
  refine ⟨?_, hfeed, fun q => ?_, fun c x => ?_, fun e => (mem_placeEntry _ _ _).trans ?_, ?_, ?_⟩
  · refine (onlyPieces_pocket hw).trans (hpocket.trans ?_)
    rw [releasedPocket, hlatch]
    rfl
  · refine (State.record?_congr (t := w) (by rfl) q).trans ?_
    by_cases hq : q = p
    · subst hq
      rw [hwrecord, hrecord, hvplan]
      cases s.record? q <;> simp
    · rw [hwother q hq, hrecord]
      simp [hq]
  · refine (hwqueue c x).trans ?_
    rw [hqueue, hvplan]
    rfl
  · rw [hwschedule, hschedule]
    exact or_comm
  · refine hwcells.trans ?_
    rw [hv]
  · rw [hw, hv]

/-- The grant's pocket, whatever becomes of the deadline. -/
theorem State.grantRelease_pocket (s : State) (p : PieceNo) : (s.grantRelease p).pocket.state = .releasing ∧
    (s.grantRelease p).pocket.passes = 0 ∧ (s.grantRelease p).pocket.holdTimer = none ∧ (s.grantRelease p).pocket.mergeHold = false ∧
      (s.grantRelease p).pocket.occupant = s.pocket.occupant ∧
        ((s.grantRelease p).pocket.dwellTimer = s.pocket.dwellTimer ∨ (s.grantRelease p).pocket.dwellTimer = none) := by
  rw [State.grantRelease_eq]
  rcases (s.releasing p).expect_pocket p .merge (posAdd s.position s.plan.dRelease) with h | h <;>
    rw [h, State.releasing_pocket] <;> simp

/-- A grant of a state that differs in what the grant sets anew is a grant of the other (R83). -/
theorem granted_congr {u v t : State} {p : PieceNo}
    (hv : v = { u with pocket := v.pocket, run := { u.run with hold := v.run.hold, feedEnable := v.run.feedEnable } })
    (hpocket : { v.pocket with state := .releasing, motor := .outward, holdTimer := none, passes := 0, mergeHold := false } =
      { u.pocket with state := PocketState.releasing, motor := Motor.outward, holdTimer := none, passes := 0, mergeHold := false })
    (hfeed : feedFollows u → feedFollows v) (h : granted v t p) : granted u t p := by
  obtain ⟨h1, h2, h3, h4, h5, h6, h7⟩ := h
  rw [hpocket] at h1
  have hplan : v.plan = u.plan := by rw [hv]
  have hposition : v.position = u.position := by rw [hv]
  have hrecord : ∀ q, v.record? q = u.record? q := fun q => by rw [hv]; rfl
  have hqueue : ∀ c, v.queue c = u.queue c := fun c => by rw [hv]; rfl
  have hschedule : v.schedule = u.schedule := by rw [hv]
  have hcells : v.cellUnit = u.cellUnit := by rw [hv]
  simp only [hplan, hposition, hrecord, hqueue, hschedule, hcells] at h3 h4 h5 h6
  refine ⟨h1, h2 ∘ hfeed, h3, h4, h5, h6, h7.trans ?_⟩
  rw [hv]

end Sys2Proof.Machine

/-! PROOFS. The pocket timers and the MERGE uncover (spec/05, R77, R84, R85). -/

namespace Sys2Proof.Machine

open Sys2Proof.Safety

/-! ## Counts of one event (R153) -/

theorem State.countEvent_eq (s : State) (c : EventCounter) :
    s.countEvent c = { s with tally := (s.countEvent c).tally, port := (s.countEvent c).port } := by
  simp only [State.countEvent, State.raiseCarry]
  split <;> rfl

theorem State.countEvent_events_same (s : State) (c : EventCounter) :
    (s.countEvent c).tally.events.get (eventCounterIdx c) = s.tally.events.get (eventCounterIdx c) + 1 := by
  simp [State.countEvent]

theorem State.countEvent_events_other (s : State) {c d : EventCounter} (h : d ≠ c) :
    (s.countEvent c).tally.events.get (eventCounterIdx d) = s.tally.events.get (eventCounterIdx d) := by
  simp [State.countEvent, get_put_other _ _ (fun e => h (eventCounterIdx_injective e))]

/-- A trip counts in TRIPS only (R140). -/
theorem State.trip_events (s : State) (cause : TripCause) (cell : Option Cell) (at' : Pos) (piece : Option PieceNo) {c : EventCounter}
    (hc : c ≠ .trips) :
    (s.trip cause cell at' piece).tally.events.get (eventCounterIdx c) = s.tally.events.get (eventCounterIdx c) := by
  by_cases h : s.run.state.isRunning = true ∧ s.protect.latch = false
  · rw [State.trip_eq_tripActs h.1 h.2]
    refine (State.countEvent_events_other _ hc).trans ?_
    rw [State.tripActs_tally]
  · rw [State.trip_of_not]
    rcases not_and_or.mp h with h | h
    · exact .inl (by simpa using h)
    · exact .inr (by simpa using h)

theorem State.expect_events (s : State) (p : PieceNo) (d : Cell) (lead : Pos) {c : EventCounter} (hc : c ≠ .trips) :
    (s.expect p d lead).tally.events.get (eventCounterIdx c) = s.tally.events.get (eventCounterIdx c) := by
  have hu := s.expecting_onlyPieces p d lead
  have htally : (s.expecting p d lead).tally = s.tally := by rw [hu]
  cases hlatch : s.protect.latch with
  | true => rw [State.expect_eq, State.insertEntry_of_latch (by rw [onlyPieces_protect hu, hlatch]), htally]
  | false =>
    cases hdue : isAhead (posAdd (posAdd lead s.plan.cellTol) 1) s.position with
    | true =>
      rw [State.expect_of_ahead hlatch hdue, ← htally]
    | false => rw [State.expect_of_overdue hlatch hdue, State.trip_events _ _ _ _ _ hc, htally]

theorem State.grantRelease_events (s : State) (p : PieceNo) {c : EventCounter} (hc : c ≠ .trips) :
    (s.grantRelease p).tally.events.get (eventCounterIdx c) = s.tally.events.get (eventCounterIdx c) := by
  rw [State.grantRelease_eq, State.expect_events _ _ _ _ hc, s.releasing_eq p]

/-! ## The merge hold (R85) -/

/-- MERGE_GAP raised: the hold stands, the feed is off, and one is counted (R85). -/
theorem State.raiseMergeGap_raised (s : State) : s.raiseMergeGap.run.hold.mergeGap = true ∧ s.raiseMergeGap.run.feedEnable = false ∧
    s.raiseMergeGap.pocket = { s.pocket with mergeHold := true } ∧
    s.raiseMergeGap.run = { s.run with hold := s.raiseMergeGap.run.hold, feedEnable := s.raiseMergeGap.run.feedEnable } ∧
    s.raiseMergeGap = { s with
      pocket := s.raiseMergeGap.pocket, run := s.raiseMergeGap.run, tally := s.raiseMergeGap.tally, port := s.raiseMergeGap.port } := by
  rw [State.raiseMergeGap, State.countEvent_eq]
  refine ⟨rfl, ?_, rfl, rfl, rfl⟩
  simp [State.setMergeGap, State.recomputeFeed, FeedHold.anyStands, State.feedHoldNow]

/-! ## The tests of the window (R82) -/

theorem State.windowFree_congr {s t : State} (hrecords : t.records = s.records) (hplan : t.plan = s.plan) (hposition : t.position = s.position)
    (hoccupant : t.pocket.occupant = s.pocket.occupant) (hmerge : (t.cell .merge).occupant = (s.cell .merge).occupant)
    (leftOut : Option PieceNo) : t.windowFree leftOut = s.windowFree leftOut := by
  have hrecord : t.record? = s.record? := funext fun q => State.record?_congr hrecords q
  simp only [State.windowFree, State.pocketLength, hrecords, hplan, hposition, hoccupant, hmerge, hrecord]

theorem State.mergeTest_of_not_free {s : State} {leftOut : Option PieceNo} (h : (s.run.state.testsMerge && s.windowFree leftOut) = false) :
    s.mergeTest leftOut = s := by
  rcases (Bool.and_eq_false_iff).mp h with h | h
  · exact State.mergeTest_of_blocked (.inr (.inl h))
  · exact State.mergeTest_of_blocked (.inr (.inr h))

theorem State.mergeTest_of_granted {s : State} {leftOut : Option PieceNo} {p : PieceNo} (hw : s.pocket.state = .waiting)
    (h : (s.run.state.testsMerge && s.windowFree leftOut) = true) (hp : s.pocket.occupant = some p) :
    s.mergeTest leftOut = s.grantRelease p := by
  obtain ⟨hr, hf⟩ := (Bool.and_eq_true _ _).mp h
  exact State.mergeTest_of_free hw hr hf hp

theorem State.mergeTest_cases (s : State) (leftOut : Option PieceNo) :
    s.mergeTest leftOut = s ∨ ∃ p, s.pocket.occupant = some p ∧ s.mergeTest leftOut = s.grantRelease p := by
  unfold State.mergeTest
  split
  · split
    · next p hp => exact .inr ⟨p, hp, rfl⟩
    · exact .inl rfl
  · exact .inl rfl

/-! ## The end of the dwell (R77) -/

/-- WAITING, before the window is tested (R77). -/
def State.waitingAt (s : State) (d : Nat) : State :=
  (({ s with
    now := max s.now d
    pocket := { s.pocket with dwellTimer := none, passes := 0, holdTimer := some (max s.now d + s.plan.revMaxHold) } } :
      State).setPocket .waiting).setMergeGap false

theorem exec_dwellTimerExpiry {s : State} {d : Nat} (h : s.pocket.dwellTimer = some d) (hs : s.pocket.state = .dwell) :
    exec .dwellTimerExpiry s = .next ((s.waitingAt d).mergeTest none) := by
  change execDwellTimerExpiry s = _
  simp only [execDwellTimerExpiry, h, if_pos hs]
  rfl

theorem State.waitingAt_pocket (s : State) (d : Nat) : (s.waitingAt d).pocket = { s.pocket with
    state := .waiting, dwellTimer := none, passes := 0, mergeHold := false, holdTimer := some (max s.now d + s.plan.revMaxHold),
    motor := .hold } := by
  simp [State.waitingAt, State.setMergeGap, State.setPocket, State.recomputeFeed, motorFor]

theorem State.waitingAt_eq (s : State) (d : Nat) : s.waitingAt d = { s with
    now := max s.now d, pocket := (s.waitingAt d).pocket
    run := { s.run with hold := (s.waitingAt d).run.hold, feedEnable := (s.waitingAt d).run.feedEnable } } := rfl

theorem State.waitingAt_feed {s : State} (h : s.pocket.state = .dwell) (d : Nat) (hfeed : feedFollows s) : feedFollows (s.waitingAt d) := by
  have hk : Keeps s (s.waitingAt d) := (s.reachTime_keeps d).trans
    ((State.setPocket_keeps (s := s.reachTime d) _ _ (by simp [State.reachTime, h]) (by simp) (by rfl) (by rfl)).trans
      (State.setMergeGap_keeps _ false))
  exact hk.feed hfeed

/-! ## The expiry of the hold timer (R85) -/

/-- The hold timer expired. -/
def State.holdOver (s : State) (d : Nat) : State := { s with now := max s.now d, pocket := { s.pocket with holdTimer := none } }

/-- The hold timer expired and MERGE_GAP raised, before the window is tested (R85). -/
def State.heldAt (s : State) (d : Nat) : State := (s.holdOver d).raiseMergeGap

theorem State.heldAt_eq (s : State) (d : Nat) : s.heldAt d = { s with
    now := max s.now d, pocket := { s.pocket with holdTimer := none, mergeHold := true }
    run := { s.run with hold := (s.heldAt d).run.hold, feedEnable := (s.heldAt d).run.feedEnable }
    tally := (s.heldAt d).tally, port := (s.heldAt d).port } := by
  obtain ⟨-, -, hpocket, hrun, hu⟩ := (s.holdOver d).raiseMergeGap_raised
  rw [hpocket, hrun] at hu
  exact hu

theorem State.heldAt_keeps (s : State) (d : Nat) : Keeps s (s.heldAt d) :=
  ((s.reachTime_keeps d).trans (Keeps.of_pocketCounts (s.reachTime d) { s.pocket with holdTimer := none } (by rfl) (by rfl) (by rfl)
    (by rfl))).trans (State.raiseMergeGap_keeps _)

theorem State.heldAt_tallied (s : State) (d : Nat) : tallied s (s.heldAt d) [] [.mergeGaps] 0 :=
  tallied_congr (s.holdOver d).raiseMergeGap_tallied rfl rfl rfl rfl rfl

theorem State.heldAt_mergeGaps (s : State) (d : Nat) :
    (s.heldAt d).tally.events.get (eventCounterIdx .mergeGaps) = s.tally.events.get (eventCounterIdx .mergeGaps) + 1 :=
  State.countEvent_events_same _ _

theorem exec_holdTimerExpiry_of_held {s : State} {d : Nat} (h : s.pocket.holdTimer = some d) (hs : s.pocket.state = .waiting)
    (hhold : s.pocket.mergeHold = true) :
    exec .holdTimerExpiry s = .next { s with now := max s.now d, pocket := { s.pocket with holdTimer := none } } := by
  change execHoldTimerExpiry s = _
  simp only [execHoldTimerExpiry, h, if_pos hs, State.endHold]
  exact congrArg Host.Outcome.next (if_pos hhold)

theorem exec_holdTimerExpiry {s : State} {d : Nat} (h : s.pocket.holdTimer = some d) (hs : s.pocket.state = .waiting)
    (hhold : s.pocket.mergeHold = false) : exec .holdTimerExpiry s = .next ((s.heldAt d).mergeTest none) := by
  change execHoldTimerExpiry s = _
  simp only [execHoldTimerExpiry, h, if_pos hs, State.endHold]
  exact congrArg Host.Outcome.next (if_neg (by rw [show ((s.reachTime d).pocket.mergeHold) = false from hhold]; decide))

theorem exec_timers_of_stopped (s : State) :
    (s.pocket.dwellTimer = none ∨ s.pocket.state ≠ .dwell → exec .dwellTimerExpiry s = .next s) ∧
      (s.pocket.holdTimer = none ∨ s.pocket.state ≠ .waiting → exec .holdTimerExpiry s = .next s) := by
  constructor
  · intro h
    change execDwellTimerExpiry s = _
    unfold execDwellTimerExpiry
    split
    · rfl
    · next d hd => rw [if_neg (h.resolve_left (by simp [hd]))]
  · intro h
    change execHoldTimerExpiry s = _
    unfold execHoldTimerExpiry
    split
    · rfl
    · next d hd => rw [if_neg (h.resolve_left (by simp [hd]))]

/-- Settles O34. -/
theorem pocketTimersExpire : Obligations.PocketTimersExpire := by
  intro s
  obtain ⟨hdwell, hhold⟩ := exec_timers_of_stopped s
  refine ⟨hdwell, hhold, fun d hd hs => ⟨_, exec_dwellTimerExpiry hd hs, ?_⟩, fun d hd hs =>
    ⟨exec_holdTimerExpiry_of_held hd hs, fun hhold => ⟨_, exec_holdTimerExpiry hd hs hhold, ?_⟩⟩⟩
  · have hu := s.waitingAt_eq d
    have hpocket := s.waitingAt_pocket d
    have hfeed := State.waitingAt_feed hs d
    generalize s.waitingAt d = u at *
    have hfree : (u.run.state.testsMerge && u.windowFree none) = (s.run.state.testsMerge && s.windowFree none) := by
      rw [State.windowFree_congr (s := s) (by rw [hu]) (by rw [hu]) (by rw [hu]) (by rw [hpocket]) (by rw [hu]; rfl), hu]
    have hwaiting : u.pocket.state = .waiting := by rw [hpocket]
    have hoccupant : u.pocket.occupant = s.pocket.occupant := by rw [hpocket]
    rw [← hfree]
    refine ⟨by rw [(u.mergeTest_frame none).2.1, hu], by rw [(u.mergeTest_frame none).2.2.1, hu], fun hf ho => ?_, fun p hf ho hlatch hplan => ?_, fun hf => ?_⟩
    · obtain ⟨p, hp⟩ := Option.ne_none_iff_exists'.mp ho
      rw [State.mergeTest_of_granted hwaiting hf (hoccupant.trans hp)]
      obtain ⟨hstate, hpasses, hhold, -, -, hdwell⟩ := u.grantRelease_pocket p
      exact ⟨hstate, hpasses, hdwell.elim (fun h => h.trans (by rw [hpocket])) id, hhold⟩
    · rw [State.mergeTest_of_granted hwaiting hf (hoccupant.trans ho)]
      refine granted_congr ?_ ?_ ?_ (State.grantRelease_granted (hoccupant.trans ho) (by rw [hu]; exact hlatch) (by rw [hu]; exact hplan))
      · rw [hu]
      · rw [hpocket]
      · exact hfeed
    · rw [State.mergeTest_of_not_free hf]
      exact ⟨hpocket, by rw [hu], hfeed, by rw [hu]⟩
  · obtain ⟨hgap, hoff, -, -, -⟩ := (s.holdOver d).raiseMergeGap_raised
    have hx := s.heldAt_eq d
    have hfeed := (s.heldAt_keeps d).feed
    have htallied := s.heldAt_tallied d
    have hcount := s.heldAt_mergeGaps d
    rw [← State.heldAt] at hgap hoff
    generalize s.heldAt d = x at *
    have hfree : (x.run.state.testsMerge && x.windowFree none) = (s.run.state.testsMerge && s.windowFree none) := by
      rw [State.windowFree_congr (s := s) (by rw [hx]) (by rw [hx]) (by rw [hx]) (by rw [hx]) (by rw [hx]; rfl), hx]
    have hwaiting : x.pocket.state = .waiting := by rw [hx]; exact hs
    have hoccupant : x.pocket.occupant = s.pocket.occupant := by rw [hx]
    rw [← hfree]
    refine ⟨by rw [(x.mergeTest_frame none).2.1, hx], by rw [(x.mergeTest_frame none).2.2.1, hx], ?_, ?_, fun hf ho => ?_,
      fun p hf ho hlatch hplan => ?_, fun hf => ?_⟩
    · rcases x.mergeTest_cases none with h | ⟨p, -, h⟩
      · rw [h, hx]
      · rw [h]
        exact (x.grantRelease_pocket p).2.2.1
    · rcases x.mergeTest_cases none with h | ⟨p, -, h⟩
      · rw [h, hcount]
      · rw [h, x.grantRelease_events p (by decide), hcount]
    · obtain ⟨p, hp⟩ := Option.ne_none_iff_exists'.mp ho
      rw [State.mergeTest_of_granted hwaiting hf (hoccupant.trans hp)]
      obtain ⟨hstate, -, -, hgap', -, -⟩ := x.grantRelease_pocket p
      exact ⟨hstate, hgap'⟩
    · rw [State.mergeTest_of_granted hwaiting hf (hoccupant.trans ho)]
      have hgrant := State.grantRelease_granted (hoccupant.trans ho) (by rw [hx]; exact hlatch) (by rw [hx]; exact hplan)
      obtain ⟨-, -, -, -, -, -, ht⟩ := id hgrant
      generalize x.grantRelease p = t at *
      have htally : t.tally = x.tally := by rw [ht]
      have hport : t.port = x.port := by rw [ht]
      refine ⟨granted_congr ?_ ?_ ?_ hgrant, tallied_congr htallied rfl rfl rfl htally hport⟩
      · rw [htally, hport, hx]
      · rw [hx]
      · exact hfeed
    · rw [State.mergeTest_of_not_free hf]
      refine ⟨by rw [hx], hgap, hoff, htallied, ?_⟩
      rw [hx]

/-! ## The MERGE uncover (R84) -/

theorem signedDistance_eq (p q : Pos) : signedDistance p q = signedSteps p q := by
  unfold signedDistance signedSteps
  rw [BitVec.toInt_eq_toNat_cond]
  split <;> split <;> omega

theorem windowMeets_iff (pl : Plan) (q : Pos) (len : Nat) (lead : Pos) (n : Nat) :
    windowMeets pl q len lead n = true ↔ windowOverlaps pl q len lead n := by
  simp only [windowMeets, overlaps, signedDistance_eq, Bool.and_eq_true, decide_eq_true_iff]

end Sys2Proof.Machine

/-! PROOFS. The merge window and the MERGE uncover (spec/05, R80, R81, R84). -/

namespace Sys2Proof.Machine

open Sys2Proof.Safety

/-! ## The window and the pieces of the main lane (R80, R81) -/

/-- The three stretches by which a piece can block the window (R81). -/
theorem blocksWindow_eq_false_iff (pl : Plan) (q : Pos) (len : Nat) (pocketPiece : Option PieceNo) (atMerge : Option Occupant)
    (leftOut : Option PieceNo) (r : Record) : blocksWindow pl q len pocketPiece atMerge leftOut r = false ↔
      (r.phase = .entering ∨ r.phase = .scanning ∨ r.phase = .travelling →
        ¬ windowOverlaps pl q len (posAdd r.lead pl.dMerge) (r.length.getD 1023)) ∧
      (atMerge = some (.piece r.number) → leftOut ≠ some r.number → ¬ windowOverlaps pl q len r.lead (r.length.getD 1023)) ∧
      (r.phase = .released → pocketPiece ≠ some r.number → ∀ x, r.next = some x →
        ¬ windowOverlaps pl q len (posAdd x.early pl.cellTol) (r.length.getD 1023)) := by
  have hphase : r.phase.beforeMerge = true ↔ r.phase = .entering ∨ r.phase = .scanning ∨ r.phase = .travelling := by
    cases r.phase <;> simp [Phase.beforeMerge]
  have hnext : (match r.next with
      | some x => windowMeets pl q len (posAdd x.early pl.cellTol) r.lengthOrMost
      | none => false) = true ↔
      ∃ x, r.next = some x ∧ windowOverlaps pl q len (posAdd x.early pl.cellTol) r.lengthOrMost := by
    cases r.next <;> simp [windowMeets_iff]
  have hlen : r.length.getD 1023 = r.lengthOrMost := rfl
  rw [← Bool.not_eq_true, hlen, blocksWindow]
  simp only [Bool.or_eq_true, Bool.and_eq_true, beq_iff_eq, bne_iff_ne, ne_eq, hphase, windowMeets_iff, not_or, not_and,
    and_assoc, and_congr_right_iff]
  exact fun _ _ => forall₂_congr fun _ _ => (not_congr hnext).trans (by simp only [not_exists, not_and])

theorem State.windowFree_iff {s : State} {p : PieceNo} {r : Record} {len : Nat} (hoccupant : s.pocket.occupant = some p)
    (hrecord : s.record? p = some r) (hlen : r.length = some len) (leftOut : Option PieceNo) :
    s.windowFree leftOut = true ↔ mainLaneClear s len leftOut := by
  have hpocket : s.pocketLength = len := by
    simp [State.pocketLength, hoccupant, hrecord, Record.lengthOrOpen, hlen]
  simp only [State.windowFree, hpocket, Bool.not_eq_true', List.any_eq_false, Bool.not_eq_true, blocksWindow_eq_false_iff]

/-! ## The occupant that becomes absent (R4) -/

theorem put_put {α : Type} {n : Nat} (v : Vector α n) (i : Fin n) (x y : α) : put (put v i x) i y = put v i y := by
  simp [put]

/-- The uncovered cell with its occupant absent, and the schedule without that occupant's OVERSTAY (R3, R4). -/
theorem State.uncovered_setOccupant {s : State} {c : Cell} {o : Occupant} (h : (s.cell c).occupant = some o) :
    (s.uncovered c).setOccupant c none =
      { s.setCell c { s.cell c with covered := false, uncoverAt := s.position, occupant := none } with
        schedule := s.schedule.filter (fun e => decide (¬ (o = .piece e.piece ∧ e.kind = .overstay c))) } := by
  have hcell := s.uncovered_cell_same c
  rw [State.setOccupant, hcell]
  unfold State.uncovered
  cases o with
  | piece p =>
    have hfilter : s.schedule.filter (fun e => !(e.piece == p && e.kind == .overstay c)) =
        s.schedule.filter (fun e => decide (¬ (Occupant.piece p = .piece e.piece ∧ e.kind = .overstay c))) := by
      refine List.filter_congr fun e _ => ?_
      rw [decide_not, Bool.decide_and]
      simp only [Occupant.piece.injEq, eq_comm (a := p), beq_eq_decide]
    rw [h, ← hfilter]
    simp [State.removeEntries, State.setCell, put_put]
  | untracked =>
    rw [h]
    simp [State.setCell, put_put]

/-- A grant is the same whoever occupies a cell (R83). -/
theorem granted_setOccupant {u t : State} {p : PieceNo} (h : granted u t p) (c : Cell) (o : Option Occupant) :
    granted (u.setOccupant c o) (t.setOccupant c o) p := by
  obtain ⟨hpocket, hfeed, hrecords, hqueue, hschedule, hcells, ht⟩ := h
  refine ⟨hpocket, hfeed, hrecords, hqueue, hschedule, ?_, ?_⟩
  · have hcell : t.cell c = u.cell c := by simp [State.cell, hcells]
    simp [State.setOccupant, State.setCell, hcell, hcells]
  · rw [ht]
    rfl

/-! ## The pass (R84) -/

/-- The pass counted, to 255 at most. -/
def State.passed (s : State) : State := { s with pocket := { s.pocket with passes := min 255 (s.pocket.passes + 1) } }

theorem State.mergePass_of_not_waiting {s : State} (h : s.pocket.state ≠ .waiting) (o : Occupant) : s.mergePass o = s := if_neg h

/-- MERGE_GAP raised where the release was not granted, the count has reached MERGE_RATIO, and no hold stands (R84, R85). -/
def State.holdIfReached (t : State) : State :=
  if t.pocket.state = .waiting ∧ t.plan.mergeRatio ≤ t.pocket.passes ∧ t.pocket.mergeHold = false then t.raiseMergeGap else t

theorem State.mergePass_of_waiting {s : State} (hw : s.pocket.state = .waiting) (o : Occupant) :
    s.mergePass o = (s.passed.mergeTest o.piece?).holdIfReached := if_pos hw

theorem State.passed_windowFree (s : State) (leftOut : Option PieceNo) : s.passed.windowFree leftOut = s.windowFree leftOut :=
  State.windowFree_congr rfl rfl rfl rfl rfl _

theorem State.mergePass_of_granted {s : State} {o : Occupant} {p : PieceNo} (hw : s.pocket.state = .waiting)
    (h : (s.run.state.testsMerge && s.windowFree o.piece?) = true) (hp : s.pocket.occupant = some p) :
    s.mergePass o = s.passed.grantRelease p := by
  obtain ⟨hstate, -⟩ := s.passed.grantRelease_pocket p
  rw [State.mergePass_of_waiting hw,
    State.mergeTest_of_granted (s := s.passed) (p := p) hw (by rw [State.passed_windowFree]; exact h) hp, State.holdIfReached,
    if_neg (by rw [hstate]; simp)]

/-- A window not free: MERGE_GAP is raised once the count has reached MERGE_RATIO (R84). -/
theorem State.mergePass_of_not_free {s : State} {o : Occupant} (hw : s.pocket.state = .waiting)
    (h : (s.run.state.testsMerge && s.windowFree o.piece?) = false) :
    s.mergePass o = if s.plan.mergeRatio ≤ min 255 (s.pocket.passes + 1) ∧ s.pocket.mergeHold = false then s.passed.raiseMergeGap
      else s.passed := by
  rw [State.mergePass_of_waiting hw, State.mergeTest_of_not_free (by rw [State.passed_windowFree]; exact h)]
  exact if_congr (and_iff_right hw) rfl rfl

theorem exec_uncover_merge {s : State} {o : Occupant} (hrun : s.run.state.isRunning = true) (hcovered : (s.cell .merge).covered = true)
    (ho : (s.cell .merge).occupant = some o) :
    exec (.uncover .merge) s = .next (((s.uncovered .merge).mergePass o).setOccupant .merge none) := by
  have hforced : s.forcedCloseFirst .merge = false := by
    unfold State.forcedCloseFirst
    split <;> simp
  rw [exec_uncover hcovered, State.uncoverCell_of_uncovered hrun hforced, ho]
  rfl

/-- Settles O27. -/
theorem mergeUncoverPasses : Obligations.MergeUncoverPasses := by
  refine ⟨fun s leftOut p r len hoccupant hrecord hlen => State.windowFree_iff hoccupant hrecord hlen leftOut, fun s o hrun hcovered ho => ?_⟩
  intro free passes cleared
  have hcleared : (s.uncovered .merge).setOccupant .merge none = cleared := State.uncovered_setOccupant ho
  have hv := s.uncovered_eq .merge
  have hcell := s.uncovered_cell_same .merge
  refine ⟨_, exec_uncover_merge hrun hcovered ho, ?_⟩
  have hfree : free = (s.run.state.testsMerge && (s.uncovered .merge).windowFree o.piece?) := by
    refine congrArg (s.run.state.testsMerge && ·) (State.windowFree_congr ?_ ?_ ?_ ?_ ?_ _)
    · rw [hv]; rfl
    · rw [hv]; rfl
    · rw [hv]; rfl
    · rw [hv]; rfl
    · rw [hcell, State.cell_setCell_same]
  generalize s.uncovered .merge = v at *
  have hpocket : v.pocket = s.pocket := by rw [hv]
  have hvrun : v.run = s.run := by rw [hv]
  have hplan : v.plan = s.plan := by rw [hv]
  have htally : v.tally = s.tally := by rw [hv]
  have hport : v.port = s.port := by rw [hv]
  have hlast : ((v.mergePass o).setOccupant .merge none).cell .merge =
      { s.cell .merge with covered := false, uncoverAt := s.position, occupant := none } := by
    have hsame : (v.mergePass o).cell .merge = v.cell .merge := by simp [State.cell]
    rw [State.setOccupant, State.cell_setCell_same, hsame, hcell]
  rw [hfree, ← hvrun, ← hpocket, ← hplan, hlast]
  refine ⟨rfl, rfl, rfl, fun hw => ?_, fun hw hf hp => ?_, fun p hw hf hp hlatch hplan => ?_, fun hw hf => ?_⟩
  · rw [State.mergePass_of_not_waiting hw, hcleared]
  · obtain ⟨p, hp⟩ := Option.ne_none_iff_exists'.mp hp
    obtain ⟨hstate, hpasses, hhold, hgap, hoccupant, -⟩ := v.passed.grantRelease_pocket p
    rw [State.mergePass_of_granted hw hf hp]
    exact ⟨hstate, hpasses, hhold, hgap, hoccupant⟩
  · rw [State.mergePass_of_granted hw hf hp, ← hcleared]
    have hgrant := State.grantRelease_granted (s := v.passed) (p := p) hp (by rw [← hlatch, hv]; rfl) hplan
    exact granted_congr rfl rfl id (granted_setOccupant hgrant .merge none)
  · have hrunEq : passes = min 255 (v.pocket.passes + 1) := by rw [hpocket]
    rw [State.mergePass_of_not_free hw hf, ← hcleared, hrunEq]
    by_cases hraise : v.plan.mergeRatio ≤ min 255 (v.pocket.passes + 1) ∧ v.pocket.mergeHold = false
    · obtain ⟨hgap, hoff, hxpocket, hxrun, hx⟩ := v.passed.raiseMergeGap_raised
      have htallied := v.passed.raiseMergeGap_tallied
      rw [if_pos hraise]
      generalize v.passed.raiseMergeGap = x at *
      refine ⟨?_, fun _ _ => ⟨hgap, hoff, tallied_congr htallied htally.symm hport.symm hplan.symm rfl rfl, ?_⟩, fun h => ?_, ?_⟩
      · rw [State.setOccupant_pocket, hxpocket]
        simp [State.passed, hraise]
      · refine hxrun.trans ?_
        rw [hoff]
        rfl
      · exact absurd hraise (h.elim (fun h => by simp [h]) (fun h => by omega))
      · rw [hx]
        rfl
    · rw [if_neg hraise]
      refine ⟨?_, fun h1 h2 => absurd ⟨h2, h1⟩ hraise, fun _ => rfl, rfl⟩
      rw [State.setOccupant_pocket]
      cases hhold : v.pocket.mergeHold with
      | true => simp [State.passed, hhold]
      | false =>
        have hshort : ¬ v.plan.mergeRatio ≤ min 255 (v.pocket.passes + 1) := fun h => hraise ⟨h, hhold⟩
        simp only [hshort]
        simp [State.passed, hhold]

end Sys2Proof.Machine

/-! PROOFS. The admission of a piece at ENTRY (spec/01, R14, R16). -/

namespace Sys2Proof.Machine

open Sys2Proof.Safety

/-! ## The record opened (R14, R16, R92) -/

/-- The slot an admission records: the pending one, else the active one (R92). -/
def State.admissionSlot (s : State) : Fin 2 := s.printer.waiting.getD s.printer.active

/-- The printer after an admission: the slot in place, and its in-use count raised (R89, R92). -/
def State.admissionPrinter (s : State) : Printer :=
  { s.printer with
    slots := put s.printer.slots s.admissionSlot
      { s.printer.slots.get s.admissionSlot with inUse := (s.printer.slots.get s.admissionSlot).inUse + 1 }
    active := s.admissionSlot, waiting := none }

/-- The opening values of the record (R14, R21). -/
def State.openingRecord (s : State) (at' : Pos) : Record := { s.newRecord at' with slot := s.admissionSlot }

/-- The short-gap marks of the admitted piece (R16). -/
def State.shortGapMarks (s : State) (r : Record) : Record :=
  { r with
    coupledTo := if s.gapIsShort then s.undecidedPrevious else r.coupledTo
    culls := if s.gapIsShort then r.culls.add .shortGap else r.culls
    flags := { r.flags with coupled := r.flags.coupled || (s.gapIsShort && s.undecidedPrevious.isSome) } }

/-- An admission up to the short-gap test: no expectation and no entry made yet (R14, R16). -/
def State.opened (s : State) (at' : Pos) : State :=
  (s.switchSlot.openRecord at').shortGapTest s.admission.nextPiece s.undecidedPrevious

theorem State.openRecord_switchSlot (s : State) (at' : Pos) : s.switchSlot.openRecord at' =
    { s with
      records := s.records ++ [s.openingRecord at'], admission := { s.admission with nextPiece := s.admission.nextPiece + 1 }
      printer := s.admissionPrinter, openSeq := s.openSeq + 1 } := by
  unfold State.switchSlot
  cases h : s.printer.waiting with
  | none =>
    simp only [State.openRecord, State.admissionPrinter, State.admissionSlot, State.openingRecord, h, Option.getD_none]
    rfl
  | some i =>
    simp only [State.openRecord, State.admissionPrinter, State.admissionSlot, State.openingRecord, h, Option.getD_some]
    rfl

theorem State.openRecord_record?_same {s : State} (h : s.record? s.admission.nextPiece = none) (at' : Pos) :
    (s.switchSlot.openRecord at').record? s.admission.nextPiece = some (s.openingRecord at') := by
  rw [State.openRecord_switchSlot]
  unfold State.record? at h ⊢
  rw [List.find?_append, h, Option.none_or]
  exact List.find?_cons_of_pos (by simp [State.openingRecord, State.newRecord])

theorem State.openRecord_record?_other {s : State} {q : PieceNo} (h : q ≠ s.admission.nextPiece) (at' : Pos) :
    (s.switchSlot.openRecord at').record? q = s.record? q := by
  rw [State.openRecord_switchSlot]
  unfold State.record?
  rw [List.find?_append, List.find?_cons_of_neg (by simpa [State.openingRecord, State.newRecord] using Ne.symm h), List.find?_nil,
    Option.or_none]

theorem State.undecidedPrevious_record? {s : State} {q : PieceNo} (h : s.undecidedPrevious = some q) : s.record? q ≠ none := by
  intro hnone
  unfold State.undecidedPrevious at h
  split at h
  · split at h
    · next hr =>
      split at h
      · cases h
        rw [hnone] at hr
        cases hr
      · cases h
    · cases h
  all_goals cases h

theorem State.openRecord_gapIsShort (s : State) (at' : Pos) : (s.switchSlot.openRecord at').gapIsShort = s.gapIsShort := by
  rw [State.openRecord_switchSlot]
  rfl

section
variable {s : State} (h : s.record? s.admission.nextPiece = none) (at' : Pos)
include h

theorem State.undecidedPrevious_ne {q : PieceNo} (hq : s.undecidedPrevious = some q) : q ≠ s.admission.nextPiece := by
  rintro rfl
  exact State.undecidedPrevious_record? hq h

theorem State.opened_record?_same : (s.opened at').record? s.admission.nextPiece = some (s.shortGapMarks (s.openingRecord at')) := by
  have hopen := State.openRecord_record?_same h at'
  rw [State.opened, State.shortGapTest, State.openRecord_gapIsShort, State.shortGapMarks]
  generalize s.switchSlot.openRecord at' = t at *
  cases hgap : s.gapIsShort with
  | false => simpa using hopen
  | true =>
    cases hprevious : s.undecidedPrevious with
    | none =>
      refine (State.record?_updateRecord_same t _ (fun r => r.cull .shortGap) (fun _ => rfl)).trans ?_
      rw [hopen]
      simp only [Option.map_some, Record.cull, Option.isSome_none, Bool.and_false, Bool.or_false, if_true]
      rfl
    | some q =>
      refine (State.record?_updateRecord_same _ _
        (fun r => { r with flags := { r.flags with coupled := true }, coupledTo := some q }) (fun _ => rfl)).trans ?_
      rw [State.record?_updateRecord_other _ (fun r => { r.cull .shortGap with flags := { r.flags with coupled := true } }) (fun _ => rfl)
          (State.undecidedPrevious_ne h hprevious).symm,
        State.record?_updateRecord_same t _ (fun r => r.cull .shortGap) (fun _ => rfl), hopen]
      simp [Record.cull]

omit h in
theorem State.opened_record?_other {q : PieceNo} (hq : q ≠ s.admission.nextPiece) : (s.opened at').record? q =
    (s.record? q).map (fun r => if s.gapIsShort = true ∧ s.undecidedPrevious = some q then
      { r.cull .shortGap with flags := { r.flags with coupled := true } } else r) := by
  have hopen := State.openRecord_record?_other hq at'
  rw [State.opened, State.shortGapTest, State.openRecord_gapIsShort]
  generalize s.switchSlot.openRecord at' = t at *
  have hfirst := State.record?_updateRecord_other t (fun r => r.cull .shortGap) (fun _ => rfl) hq
  cases hgap : s.gapIsShort with
  | false => simp [hopen]
  | true =>
    cases hprevious : s.undecidedPrevious with
    | none => simpa [hopen] using hfirst
    | some p =>
      refine (State.record?_updateRecord_other _
        (fun r => { r with flags := { r.flags with coupled := true }, coupledTo := some p }) (fun _ => rfl) hq).trans ?_
      rw [State.record?_updateRecord_number _ p q (fun r => { r.cull .shortGap with flags := { r.flags with coupled := true } })
        (fun _ => rfl), hfirst, hopen]
      simp only [true_and, Option.some.injEq, eq_comm]

end

theorem State.shortGapTest_eq (s : State) (p : PieceNo) (q : Option PieceNo) :
    s.shortGapTest p q = { s with records := (s.shortGapTest p q).records } ∧ (s.shortGapTest p q).records.length = s.records.length := by
  unfold State.shortGapTest
  split
  · cases q <;> simp [State.updateRecord]
  · exact ⟨rfl, rfl⟩

theorem State.opened_eq (s : State) (at' : Pos) : s.opened at' =
    { s with
      records := (s.opened at').records, admission := { s.admission with nextPiece := s.admission.nextPiece + 1 }
      printer := s.admissionPrinter, openSeq := s.openSeq + 1 } := by
  refine (State.shortGapTest_eq (s.switchSlot.openRecord at') _ _).1.trans ?_
  rw [State.openRecord_switchSlot, State.opened, State.openRecord_switchSlot]

theorem State.opened_length (s : State) (at' : Pos) : (s.opened at').records.length = s.records.length + 1 := by
  refine (State.shortGapTest_eq (s.switchSlot.openRecord at') _ _).2.trans ?_
  rw [State.openRecord_switchSlot]
  simp

/-! ## The piece at ENTRY and expected at SCAN (R4, R5, R14) -/

/-- The occupant set, before its OVERSTAY. -/
def State.entered (s : State) (at' : Pos) : State :=
  ((s.opened at').setOccupant .entry (some (.piece s.admission.nextPiece))).updateRecord s.admission.nextPiece
    (fun r => { r with lastCell := .entry })

theorem State.entered_record?_same {s : State} (h : s.record? s.admission.nextPiece = none) (at' : Pos) :
    (s.entered at').record? s.admission.nextPiece = some (s.shortGapMarks (s.openingRecord at')) := by
  refine (State.record?_updateRecord_same _ _ (fun r => { r with lastCell := .entry }) (fun _ => rfl)).trans ?_
  rw [State.record?_congr (t := s.opened at') (by rfl), State.opened_record?_same h]
  rfl

theorem State.entered_record?_other {s : State} (at' : Pos) {q : PieceNo} (hq : q ≠ s.admission.nextPiece) :
    (s.entered at').record? q = (s.opened at').record? q :=
  State.record?_updateRecord_other _ (fun r => { r with lastCell := .entry }) (fun _ => rfl) hq

/-- The piece at ENTRY with its OVERSTAY (R4). -/
def State.entryStay (s : State) (at' : Pos) : State :=
  { s.entered at' with schedule := placeEntry ⟨.overstay .entry, s.admission.nextPiece, posAdd at' 1023⟩ s.schedule }

theorem State.entered_eq (s : State) (at' : Pos) : s.entered at' =
    { s with
      cellUnit := (s.entered at').cellUnit, records := (s.entered at').records
      admission := { s.admission with nextPiece := s.admission.nextPiece + 1 }, printer := s.admissionPrinter, openSeq := s.openSeq + 1 } := by
  have hopened := s.opened_eq at'
  unfold State.entered
  generalize s.opened at' = v at *
  rw [hopened]
  rfl

theorem State.occupy_opened {s : State} (hlatch : s.protect.latch = false) (h : s.record? s.admission.nextPiece = none) {at' : Pos}
    (hstay : isAhead (posAdd at' 1023) s.position = true) :
    (s.opened at').occupy .entry s.admission.nextPiece at' = s.entryStay at' := by
  have hrecord := State.entered_record?_same h at'
  have hoccupy := State.occupy_of_record (s := s.opened at') (u := s.entered at') rfl hrecord at'
  have heq := s.entered_eq at'
  rw [if_neg (by decide)] at hoccupy
  rw [hoccupy, State.entryStay]
  generalize s.entered at' = x at *
  have hnone : stayDue (s.opened at').plan at' (s.shortGapMarks (s.openingRecord at')).length = posAdd at' 1023 := rfl
  rw [hnone, State.insertEntry_of_ahead (by rw [heq]; exact hlatch) (by rw [heq]; exact hstay), mergeCloses_of_not_open _ _ (by simp)]
  have hschedule : x.schedule = s.schedule := by rw [heq]
  rw [hschedule]

/-- The state of R14 before the recomputation of the feed: an OVERSTAY and a SCAN deadline ahead. -/
theorem State.admitted_of_ahead {s : State} (hlatch : s.protect.latch = false) (h : s.record? s.admission.nextPiece = none) {at' : Pos}
    (hstay : isAhead (posAdd at' 1023) s.position = true)
    (hdue : isAhead (posAdd (posAdd (posAdd at' s.plan.dScan) s.plan.cellTol) 1) s.position = true) :
    s.admitted at' = { (s.entryStay at').expecting s.admission.nextPiece .scan (posAdd at' s.plan.dScan) with
      schedule := placeEntry ⟨.cellDeadline .scan, s.admission.nextPiece, posAdd (posAdd (posAdd at' s.plan.dScan) s.plan.cellTol) 1⟩
        ((s.entryStay at').expecting s.admission.nextPiece .scan (posAdd at' s.plan.dScan)).schedule } := by
  have hadmitted : s.admitted at' = ((s.opened at').occupy .entry s.admission.nextPiece at').expect s.admission.nextPiece .scan
    (posAdd at' (s.opened at').plan.dScan) := rfl
  have hplan : (s.opened at').plan = s.plan := by rw [s.opened_eq]
  have heq := s.entered_eq at'
  have hw : (s.entryStay at').plan = s.plan ∧ (s.entryStay at').position = s.position ∧ (s.entryStay at').protect = s.protect := by
    rw [State.entryStay, heq]
    exact ⟨rfl, rfl, rfl⟩
  rw [hplan, State.occupy_opened hlatch h hstay] at hadmitted
  generalize s.entryStay at' = w at *
  obtain ⟨hwplan, hwposition, hwprotect⟩ := hw
  rw [hadmitted, State.expect_of_ahead (by rw [hwprotect, hlatch]) (by rw [hwposition, hwplan]; exact hdue), hwplan]

/-! ## The cover (R14) -/

/-- The place of an expectation in its queue: behind those whose early bound is not behind its own (R6). -/
theorem placeExpectation_order (x : Expectation) (l : List Expectation) : ∃ i j, l = i ++ j ∧ placeExpectation x l = i ++ x :: j ∧
    (∀ y ∈ i, precedes x.early y.early = false) ∧ ∀ y, j.head? = some y → precedes x.early y.early = true := by
  induction l with
  | nil => exact ⟨[], [], rfl, rfl, by simp, by simp⟩
  | cons y l ih =>
    by_cases h : precedes x.early y.early = true
    · refine ⟨[], y :: l, rfl, if_pos h, by simp, fun z hz => ?_⟩
      rw [← Option.some.inj hz]
      exact h
    · obtain ⟨i, j, hl, hplace, hi, hj⟩ := ih
      refine ⟨y :: i, j, by rw [hl]; rfl, ?_, ?_, hj⟩
      · rw [placeExpectation, if_neg h, hplace]
        rfl
      · intro z hz
        rcases List.mem_cons.mp hz with rfl | hz
        · exact Bool.eq_false_iff.mpr h
        · exact hi z hz

theorem isAhead_entryStay (s : State) (k : Capture) : isAhead (posAdd (coverPos s k) 1023) s.position = true := by
  rw [isAhead_iff]
  cases k with
  | present =>
    have h : posAdd (coverPos s .present) 1023 - s.position = 1023 := by
      simp only [coverPos, posAdd]
      bv_omega
    rw [h]
    decide
  | stepBefore =>
    have h : posAdd (coverPos s .stepBefore) 1023 - s.position = 1022 := by
      simp only [coverPos, posAdd]
      bv_omega
    rw [h]
    decide

end Sys2Proof.Machine

/-! PROOFS. The ENTRY cover that admits a piece (spec/01, R14). -/

namespace Sys2Proof.Machine

open Sys2Proof.Safety

section
variable (s : State) (at' : Pos)

/-- Admitted: the piece stands at ENTRY and is expected at SCAN, the deadline's entry not made yet (R14). -/
def State.entryExpected : State := (s.entryStay at').expecting s.admission.nextPiece .scan (posAdd at' s.plan.dScan)

theorem State.entryStay_frame : (s.entryStay at').plan = s.plan ∧
    (∀ c, (s.entryStay at').queue c = s.queue c) ∧
    (∀ q, (s.entryStay at').record? q = (s.entered at').record? q) ∧
    (s.entryStay at').records = (s.entered at').records ∧
    (s.entryStay at').cellUnit = (s.entered at').cellUnit ∧
    s.entryStay at' = { s with
      cellUnit := (s.entered at').cellUnit, records := (s.entered at').records, schedule := (s.entryStay at').schedule
      admission := { s.admission with nextPiece := s.admission.nextPiece + 1 }, printer := s.admissionPrinter, openSeq := s.openSeq + 1 } := by
  have heq := s.entered_eq at'
  have hqueue : ∀ c, (s.entered at').queue c = s.queue c := fun c => by
    have : ((s.opened at').queue c) = s.queue c := by rw [s.opened_eq]; rfl
    exact this
  have hplan : (s.entered at').plan = s.plan := by rw [heq]
  refine ⟨hplan, hqueue, fun q => State.record?_congr rfl q, rfl, rfl, ?_⟩
  rw [State.entryStay]
  generalize s.entered at' = x at *
  rw [heq]

theorem State.entered_cell_same : (s.entered at').cell .entry = { s.cell .entry with occupant := some (.piece s.admission.nextPiece) } := by
  have hcell : (s.opened at').cell .entry = s.cell .entry := by rw [s.opened_eq]; rfl
  refine (State.cell_setCell_same _ _ _).trans ?_
  rw [hcell]

theorem State.entered_cell_other {c : Cell} (h : c ≠ .entry) : (s.entered at').cell c = s.cell c := by
  have hcell : (s.opened at').cell c = s.cell c := by rw [s.opened_eq]; rfl
  exact (State.cell_setCell_other _ _ h).trans hcell

theorem State.entered_length : (s.entered at').records.length = s.records.length + 1 := by
  rw [← s.opened_length at', State.entered]
  simp [State.updateRecord]

theorem State.entryExpected_frame : (s.entryExpected at').cellUnit.cells = (s.entered at').cellUnit.cells ∧
    (s.entryExpected at').records.length = s.records.length + 1 ∧
    s.entryExpected at' = { s with
      cellUnit := (s.entryExpected at').cellUnit, records := (s.entryExpected at').records, schedule := (s.entryExpected at').schedule
      admission := { s.admission with nextPiece := s.admission.nextPiece + 1 }, printer := s.admissionPrinter, openSeq := s.openSeq + 1 } := by
  obtain ⟨-, -, -, hrecords, hcells, heq⟩ := s.entryStay_frame at'
  have hlength := s.entered_length at'
  have hx := (s.entryStay at').expecting_onlyPieces s.admission.nextPiece .scan (posAdd at' s.plan.dScan)
  refine ⟨?_, ?_, ?_⟩
  · rw [State.entryExpected, State.expecting_cells, hcells]
  · rw [← hlength, ← hrecords, State.entryExpected]
    simp [State.expecting, State.updateRecord, State.dropExpectation, State.setQueue]
  · rw [State.entryExpected]
    generalize (s.entryStay at').expecting s.admission.nextPiece .scan (posAdd at' s.plan.dScan) = x at *
    rw [hx, heq]

end

section
variable {s : State} (h : unknownPiece s s.admission.nextPiece) (at' : Pos)
include h

theorem State.entryExpected_record?_same : (s.entryExpected at').record? s.admission.nextPiece =
    some { s.shortGapMarks (s.openingRecord at') with
      next := some ⟨.scan, posSub (posAdd at' s.plan.dScan) s.plan.cellTol, posAdd (posAdd at' s.plan.dScan) s.plan.cellTol⟩ } := by
  obtain ⟨hplan, -, hrecord, -⟩ := s.entryStay_frame at'
  rw [State.entryExpected, State.expecting_record?_same, hrecord, State.entered_record?_same h.1, hplan]
  rfl

omit h in
theorem State.entryExpected_record?_other {q : PieceNo} (hq : q ≠ s.admission.nextPiece) : (s.entryExpected at').record? q =
    (s.record? q).map (fun r => if s.gapIsShort = true ∧ s.undecidedPrevious = some q then
      { r.cull .shortGap with flags := { r.flags with coupled := true } } else r) := by
  obtain ⟨-, -, hrecord, -⟩ := s.entryStay_frame at'
  rw [State.entryExpected, State.expecting_record?_other _ _ _ _ hq, hrecord, State.entered_record?_other at' hq,
    State.opened_record?_other at' hq]

/-- No expectation of the new piece is dropped from a queue: none stands (R6). -/
theorem State.entryStay_filter (c : Cell) :
    ((s.entryStay at').queue c).filter (fun x => x.who != .piece s.admission.nextPiece) = s.queue c := by
  obtain ⟨-, hqueue, -⟩ := s.entryStay_frame at'
  rw [hqueue, List.filter_eq_self]
  exact fun x hx => by simpa using h.2.2 c x hx

theorem State.entryExpected_queue_scan : (s.entryExpected at').queue .scan =
    placeExpectation (pieceExpectation s.plan s.admission.nextPiece (posAdd at' s.plan.dScan)) (s.queue .scan) := by
  obtain ⟨hplan, -⟩ := s.entryStay_frame at'
  rw [State.entryExpected, State.expecting_queue_same, State.entryStay_filter h, hplan]

theorem State.entryExpected_queue_other {c : Cell} (hc : c ≠ .scan) : (s.entryExpected at').queue c = s.queue c := by
  rw [State.entryExpected, State.expecting_queue_other _ _ _ _ hc, State.entryStay_filter h]

theorem State.mem_entryExpected_schedule (e : Entry) : e ∈ (s.entryExpected at').schedule ↔
    e ∈ s.schedule ∨ e = ⟨.overstay .entry, s.admission.nextPiece, posAdd at' 1023⟩ := by
  have hstay : ∀ e, e ∈ (s.entryStay at').schedule ↔ e ∈ s.schedule ∨ e = ⟨.overstay .entry, s.admission.nextPiece, posAdd at' 1023⟩ :=
    fun e => (mem_placeEntry _ _ _).trans or_comm
  rw [State.entryExpected, State.mem_expecting_schedule, hstay, and_iff_left_of_imp]
  rintro (he | rfl)
  · exact fun hp => h.2.1 e he hp.1
  · simp

end

theorem State.mergeTest_of_no_occupant {s : State} (h : s.pocket.occupant = none) (leftOut : Option PieceNo) :
    s.mergeTest leftOut = s := by
  rcases s.mergeTest_cases leftOut with h' | ⟨p, hp, -⟩
  · exact h'
  · rw [h] at hp
    cases hp

theorem State.admissionPrinter_slots (s : State) (i : Fin 2) :
    (s.admissionPrinter.slots.get i).columns = (s.printer.slots.get i).columns ∧
    (s.admissionPrinter.slots.get i).inUse = (s.printer.slots.get i).inUse + if i = s.admissionSlot then 1 else 0 := by
  by_cases hi : i = s.admissionSlot
  · subst hi
    simp [State.admissionPrinter]
  · simp [State.admissionPrinter, get_put_other _ _ hi, hi]

/-- The record of an admitted piece, field by field (R14, R16, R21). -/
theorem State.shortGapMarks_openingRecord (s : State) (pos early late : Pos) :
    { s.shortGapMarks (s.openingRecord pos) with next := some ⟨.scan, early, late⟩ } =
      { number := s.admission.nextPiece, phase := .entering, lead := pos, admittedAt := pos, length := none,
        gap := s.entryGap, slot := s.admissionSlot, coupledTo := if s.gapIsShort then s.undecidedPrevious else none,
        decision := none, culls := if s.gapIsShort then CullSet.none.add .shortGap else CullSet.none,
        flags := { PieceFlags.none with coupled := s.gapIsShort && s.undecidedPrevious.isSome }, destination := none,
        plan := none, result := .unprinted, dots := 0, next := some ⟨.scan, early, late⟩, lastCell := .entry,
        openKey := s.openSeq : Record } := rfl

/-- Settles O13. -/
theorem entryCoverAdmits : Obligations.EntryCoverAdmits := by
  intro s k hrun hlatch hclear hadmit hunknown hdue hrelease q n slot early late
  let v := s.coveredAt .entry q
  have hhand : v.handleCover .entry q = v.admitPiece q := (if_pos rfl).trans (if_pos hadmit)
  have hunknown' : unknownPiece v v.admission.nextPiece := hunknown
  have hadmitted := State.admitted_of_ahead (s := v) (at' := q) hlatch hunknown.1 (isAhead_entryStay s k) hdue
  have hexec : exec (.cover ⟨.entry, k⟩) s = .next ((v.admitted q).recomputeFeed.mergeTest none) :=
    (exec_cover_of_running hrun hclear k).trans (congrArg Host.Outcome.next (hhand.trans (State.admitPiece_eq _ _)))
  have hrecord : (v.entryExpected q).record? n = some { v.shortGapMarks (v.openingRecord q) with next := some ⟨.scan, early, late⟩ } :=
    State.entryExpected_record?_same hunknown' q
  have hother : ∀ y, y ≠ n → (v.entryExpected q).record? y = (s.record? y).map (fun r =>
      if s.gapIsShort = true ∧ s.undecidedPrevious = some y then { r.cull .shortGap with flags := { r.flags with coupled := true } } else r) :=
    fun y hy => State.entryExpected_record?_other (s := v) q hy
  have hscan : (v.entryExpected q).queue .scan = placeExpectation ⟨.piece n, early, late⟩ (s.queue .scan) :=
    State.entryExpected_queue_scan hunknown' q
  have hqueue : ∀ c, c ≠ .scan → (v.entryExpected q).queue c = s.queue c := fun c => State.entryExpected_queue_other hunknown' q
  have hschedule : ∀ e, e ∈ (v.entryExpected q).schedule ↔ e ∈ s.schedule ∨ e = ⟨.overstay .entry, n, posAdd q 1023⟩ :=
    State.mem_entryExpected_schedule hunknown' q
  have hentry : (v.entered q).cell .entry = { s.cell .entry with covered := true, coverAt := q, occupant := some (.piece n) } := by
    rw [State.entered_cell_same, State.coveredAt_cell_same]
    rfl
  have hcell : ∀ c, c ≠ .entry → (v.entered q).cell c = s.cell c := fun c hc =>
    (v.entered_cell_other q hc).trans (s.coveredAt_cell_other q hc)
  obtain ⟨hcells, hlength, heq⟩ := v.entryExpected_frame q
  have hadmitted' : v.admitted q = { v.entryExpected q with
    schedule := placeEntry ⟨.cellDeadline .scan, n, posAdd late 1⟩ (v.entryExpected q).schedule } := hadmitted
  rw [hadmitted'] at hexec
  clear hadmitted hadmitted' hhand
  have hcellEq : ∀ c, (v.entryExpected q).cell c = (v.entered q).cell c := fun c => by rw [State.cell, State.cell, hcells]
  generalize v.entryExpected q = x at *
  let u : State := ({ x with schedule := placeEntry ⟨.cellDeadline .scan, n, posAdd late 1⟩ x.schedule } : State).recomputeFeed
  have hu : u = { x with schedule := u.schedule, run := u.run } := rfl
  have hurun : u.run = { s.run with hold := u.run.hold, feedEnable := u.run.feedEnable } := by
    have : u.run = { x.run with hold := u.run.hold, feedEnable := u.run.feedEnable } := rfl
    rw [this, heq]
    rfl
  have hprinter : u.printer = v.admissionPrinter := by rw [hu, heq]
  have huschedule : ∀ e, e ∈ u.schedule ↔ e ∈ s.schedule ∨ e = ⟨.overstay .entry, n, posAdd q 1023⟩ ∨
      e = ⟨.cellDeadline .scan, n, posAdd late 1⟩ := fun e => by
    refine (mem_placeEntry _ _ _).trans ?_
    rw [hschedule]
    tauto
  have hurecord : ∀ y, u.record? y = x.record? y := fun y => State.record?_congr (by rfl) y
  have hulength : u.records.length = s.records.length + 1 := hlength
  have hucell : ∀ c, u.cell c = (v.entered q).cell c := hcellEq
  have huqueue : ∀ c, u.queue c = x.queue c := fun c => by rw [hu]; rfl
  have hexec' : exec (.cover ⟨.entry, k⟩) s = .next (u.mergeTest none) := hexec
  have hupocket : u.pocket = s.pocket := by rw [hu, heq]; rfl
  have huadmission : u.admission = { s.admission with nextPiece := n + 1 } := by rw [hu, heq]; rfl
  have huprotect : u.protect = s.protect := by rw [hu, heq]; rfl
  have huplan : u.plan = s.plan := by rw [hu, heq]; rfl
  have hframe : u = { s with
        cellUnit := u.cellUnit, admission := u.admission, records := u.records, schedule := u.schedule,
        printer := u.printer, run := { s.run with hold := u.run.hold, feedEnable := u.run.feedEnable },
        openSeq := u.openSeq } := by
    rw [← hurun, hu, heq]
    rfl
  clear_value u
  clear hexec
  refine ⟨_, u, hexec', fun p hp hw htests hf => ?_, fun hno => ?_, ?_, fun y hy => (hurecord y).trans (hother y hy), hulength, huadmission, ?_⟩
  · have hfree' : (u.run.state.testsMerge && u.windowFree none) = true := by
      rw [hurun, hf]
      simp [htests]
    rw [State.mergeTest_of_granted (by rw [hupocket, hw]) hfree' (by rw [hupocket, hp])]
    exact State.grantRelease_granted (by rw [hupocket, hp]) (by rw [huprotect, hlatch]) (by rw [huplan]; exact hrelease)
  · rcases hno with h | h | h | h
    · exact State.mergeTest_of_no_occupant (by rw [hupocket, h]) none
    · exact State.mergeTest_of_blocked (.inl (by rw [hupocket]; exact h))
    · exact State.mergeTest_of_blocked (.inr (.inl (by rw [hurun]; exact h)))
    · exact State.mergeTest_of_blocked (.inr (.inr h))
  · rw [hurecord, hrecord]
    exact congrArg some (v.shortGapMarks_openingRecord q early late)
  · have hslots : ∀ i, (u.printer.slots.get i).columns = (s.printer.slots.get i).columns ∧
        (u.printer.slots.get i).inUse = (s.printer.slots.get i).inUse + if i = slot then 1 else 0 := fun i => by
      rw [hprinter]
      exact v.admissionPrinter_slots i
    have hplace := placeExpectation_order ⟨.piece n, early, late⟩ (s.queue .scan)
    rw [← hscan, ← huqueue] at hplace
    refine ⟨by rw [hprinter]; rfl, by rw [hprinter]; rfl, by simpa using (hslots slot).2, (hucell _).trans hentry,
      fun c hc => (hucell c).trans (hcell c hc), hplace, fun c hc => (huqueue c).trans (hqueue c hc), fun i => (hslots i).1,
      fun i hi => by simpa [hi] using (hslots i).2, by rw [hprinter]; rfl, huschedule, hframe⟩

end Sys2Proof.Machine

/-! PROOFS. Insertions of several entries of one piece, and the entries and the expectation of a decision (spec/03, R53, R54; spec/04,
R58, R69, R70). -/

namespace Sys2Proof.Machine

open Sys2Proof.Safety

/-! ## Entries inserted one after another (R58, R70) -/

/-- What a new entry leaves of another: all but the close of its gate, of another piece, that it precedes or meets (R70). -/
abbrev standsBeside (p : PieceNo) (new x : Entry) : Prop :=
  ∀ g, new.kind = .gateOpen g → x.kind = .gateClose g → x.piece ≠ p → precedes new.due x.due = false ∧ new.due ≠ x.due

theorem mem_mergeCloses (e x : Entry) (l : List Entry) : x ∈ mergeCloses e l ↔ x ∈ l ∧ standsBeside e.piece e x := by
  cases hk : e.kind with
  | gateOpen g =>
    have hclose : x.kind.isCloseOf g = true ↔ x.kind = .gateClose g := by
      cases x.kind <;> simp [EntryKind.isCloseOf]
    simp only [mergeCloses, hk, List.mem_filter, Bool.not_eq_true', Bool.and_eq_false_iff, Bool.or_eq_false_iff, standsBeside,
      EntryKind.gateOpen.injEq, forall_eq']
    refine and_congr_right fun _ => ?_
    rw [← Bool.not_eq_true, hclose]
    simp only [bne_eq_false_iff_eq, beq_eq_false_iff_ne, ne_eq]
    tauto
  | _ => simp [mergeCloses, hk, standsBeside]

/-- Entries inserted one after another. -/
def State.insertEach (s : State) (l : List Entry) : State := l.foldl State.insertEntry s

/-- Entries of one piece that all lie ahead join the schedule; only same-gate closes of other pieces go (R58, R70). -/
theorem State.insertEach_of_ahead {p : PieceNo} (l : List Entry) {s : State} (hlatch : s.protect.latch = false)
    (hpiece : ∀ e ∈ l, e.piece = p) (hahead : ∀ e ∈ l, isAhead e.due s.position = true) :
    (∀ x, x ∈ (s.insertEach l).schedule ↔ x ∈ l ∨ (x ∈ s.schedule ∧ ∀ o ∈ l, standsBeside p o x)) ∧
      s.insertEach l = { s with schedule := (s.insertEach l).schedule } := by
  induction l generalizing s with
  | nil => exact ⟨fun x => by simp [State.insertEach], rfl⟩
  | cons e l ih =>
    have hstep : s.insertEach (e :: l) = ({ s with schedule := placeEntry e (mergeCloses e s.schedule) } : State).insertEach l := by
      rw [State.insertEach, List.foldl_cons, State.insertEntry_of_ahead hlatch (hahead e (by simp))]
      rfl
    obtain ⟨hmem, heq⟩ := ih (s := { s with schedule := placeEntry e (mergeCloses e s.schedule) }) hlatch
      (fun x hx => hpiece x (by simp [hx])) (fun x hx => hahead x (by simp [hx]))
    rw [hstep]
    have he : e.piece = p := hpiece e (by simp)
    refine ⟨fun x => (hmem x).trans ?_, heq⟩
    have hx : x ∈ placeEntry e (mergeCloses e s.schedule) ↔ x = e ∨ x ∈ s.schedule ∧ standsBeside p e x := by
      rw [mem_placeEntry, mem_mergeCloses, he]
    have hself : ∀ o ∈ l, standsBeside p o e := fun o _ g _ _ hne => absurd he hne
    have hclauses : (∀ o ∈ e :: l, standsBeside p o x) ↔ standsBeside p e x ∧ ∀ o ∈ l, standsBeside p o x := List.forall_mem_cons
    rw [hx, List.mem_cons, hclauses]
    constructor
    · rintro (h | ⟨rfl | ⟨h, h'⟩, h''⟩)
      · exact .inl (.inr h)
      · exact .inl (.inl rfl)
      · exact .inr ⟨h, h', h''⟩
    · rintro ((rfl | h) | ⟨h, h', h''⟩)
      · exact .inr ⟨.inl rfl, hself⟩
      · exact .inl h
      · exact .inr ⟨.inr ⟨h, h'⟩, h''⟩

/-- Gate entries, pending or overdue, change the schedule and the gates only (R58, R66). -/
theorem State.insertEach_gates (l : List Entry) (s : State) (h : ∀ e ∈ l, ∃ g, e.kind = .gateOpen g ∨ e.kind = .gateClose g) :
    s.insertEach l = { s with schedule := (s.insertEach l).schedule, gates := (s.insertEach l).gates } := by
  induction l generalizing s with
  | nil => rfl
  | cons e l ih =>
    have hfirst : s.insertEntry e = { s with schedule := (s.insertEntry e).schedule, gates := (s.insertEntry e).gates } := by
      unfold State.insertEntry
      split
      · rfl
      · simp only
        split
        · rfl
        · obtain ⟨g, hg | hg⟩ := h e (by simp) <;> simp only [State.takeEntry, hg, State.setGate]
    have hrest := ih (s.insertEntry e) (fun x hx => h x (by simp [hx]))
    rw [State.insertEach, List.foldl_cons, ← State.insertEach]
    generalize s.insertEntry e = t at *
    rw [hrest, hfirst]

theorem State.insertGate_eq (s : State) (g : Gate) (p : PieceNo) (lead : Pos) (dist n : Nat) :
    s.insertGate g p lead dist n = s.insertEach (gateEntries s.plan g p lead dist n) := rfl

/-! ## The gates of a turning (R53) -/

/-- The gate entries of a turning (R53, R69). -/
def turningEntries (pl : Plan) (p : PieceNo) (lead : Pos) (n : Nat) (t : Turning) : List Entry :=
  (if t = .twist ∨ t = .both then gateEntries pl .twist p lead pl.dTwist n else []) ++
    (if t = .reverse ∨ t = .both then gateEntries pl .pocket p lead pl.dRev n else [])

/-- The cell a decided piece is expected at, and its distance (R54). -/
def turningCell (pl : Plan) (t : Turning) : Cell × Nat := if t.reverses then (.pocket, pl.dPocket) else (.merge, pl.dMerge)

theorem mem_gateEntries {pl : Plan} {g : Gate} {p : PieceNo} {lead : Pos} {dist n : Nat} {e : Entry} (h : e ∈ gateEntries pl g p lead dist n) :
    e.piece = p ∧ (e.kind = .gateOpen g ∨ e.kind = .gateClose g) := by
  rcases List.mem_cons.mp h with rfl | h
  · exact ⟨rfl, .inl rfl⟩
  · obtain rfl := List.mem_singleton.mp h
    exact ⟨rfl, .inr rfl⟩

theorem mem_turningEntries {pl : Plan} {p : PieceNo} {lead : Pos} {n : Nat} {t : Turning} {e : Entry} (h : e ∈ turningEntries pl p lead n t) :
    e.piece = p ∧ ∃ g, e.kind = .gateOpen g ∨ e.kind = .gateClose g := by
  rcases List.mem_append.mp h with h | h <;> split at h
  · exact ⟨(mem_gateEntries h).1, _, (mem_gateEntries h).2⟩
  · simp at h
  · exact ⟨(mem_gateEntries h).1, _, (mem_gateEntries h).2⟩
  · simp at h

theorem decisionEntries_eq (pl : Plan) (p : PieceNo) (lead : Pos) (n : Nat) (t : Turning) : decisionEntries pl p lead n t =
    turningEntries pl p lead n t ++
      [⟨.cellDeadline (turningCell pl t).1, p, posAdd (posAdd (posAdd lead (turningCell pl t).2) pl.cellTol) 1⟩] := by
  cases t <;> simp [decisionEntries, turningEntries, turningCell, Turning.reverses]

/-- The phase-1 actions are the gates of the turning and then the expectation (R53, R54). -/
theorem State.phaseOne_inserts (s : State) (r : Record) (t : Turning) : s.phaseOne r t =
    (s.insertEach (turningEntries s.plan r.number r.lead r.lengthOrOpen t)).expect r.number (turningCell s.plan t).1
      (posAdd r.lead (turningCell s.plan t).2) := by
  have htwist : (s.insertGate .twist r.number r.lead s.plan.dTwist r.lengthOrOpen).plan = s.plan := by simp
  have hpocket : (s.insertGate .pocket r.number r.lead s.plan.dRev r.lengthOrOpen).plan = s.plan := by simp
  have hboth : ((s.insertGate .twist r.number r.lead s.plan.dTwist r.lengthOrOpen).insertGate .pocket r.number r.lead
    s.plan.dRev r.lengthOrOpen).plan = s.plan := by simp
  cases t with
  | straight => rfl
  | twist =>
    simp only [State.phaseOne, Turning.twists, Turning.reverses, turningEntries, turningCell, htwist, if_true, Bool.false_eq_true, if_false,
      reduceCtorEq, or_false, List.append_nil]
    rw [State.insertGate_eq]
  | reverse =>
    simp only [State.phaseOne, Turning.twists, Turning.reverses, turningEntries, turningCell, hpocket, if_true, Bool.false_eq_true, if_false,
      reduceCtorEq, or_false, List.nil_append]
    rw [State.insertGate_eq]
  | both =>
    simp only [State.phaseOne, Turning.twists, Turning.reverses, turningEntries, turningCell, htwist, hboth, if_true, or_true]
    rw [State.insertGate_eq _ .pocket, htwist, State.insertGate_eq, State.insertEach, State.insertEach, State.insertEach, List.foldl_append]

end Sys2Proof.Machine

/-! PROOFS. The decision at the close of a scan window (spec/02, R27, R38; spec/03, R41, R51 to R54). -/

namespace Sys2Proof.Machine

open Sys2Proof.Safety

/-! ## Dropped runs (R38) -/

theorem State.noteDrops_eq (p : PieceNo) (n : Nat) (s : State) : s.noteDrops p n =
    { s with records := (s.noteDrops p n).records, tally := (s.noteDrops p n).tally, port := (s.noteDrops p n).port } := by
  induction n generalizing s with
  | zero => rfl
  | succ n ih =>
    have hrest := ih ((s.updateRecord p (fun r => { r with flags := { r.flags with runsDropped := true } })).countEvent .runsDropped)
    rw [State.noteDrops]
    generalize State.noteDrops _ p n = t at *
    rw [hrest, State.countEvent_eq]
    rfl

theorem State.noteDrops_record? (p : PieceNo) (n : Nat) (s : State) (q : PieceNo) : (s.noteDrops p n).record? q =
    (s.record? q).map (fun r =>
      if q = p then { r with flags := { r.flags with runsDropped := r.flags.runsDropped || decide (0 < n) } } else r) := by
  induction n generalizing s with
  | zero => simp [State.noteDrops]
  | succ n ih =>
    rw [State.noteDrops, ih, State.record?_congr (t := s.updateRecord p (fun r => { r with flags := { r.flags with runsDropped := true } }))
      (by simp), s.record?_updateRecord_number p q (fun r => { r with flags := { r.flags with runsDropped := true } }) (fun _ => rfl),
      Option.map_map]
    congr 1
    funext r
    by_cases hq : q = p <;> simp [hq]

theorem State.noteDrops_length (p : PieceNo) (n : Nat) (s : State) : (s.noteDrops p n).records.length = s.records.length := by
  induction n generalizing s with
  | zero => rfl
  | succ n ih =>
    rw [State.noteDrops, ih]
    simp

/-! ## The records of a trip (R140 step 2) -/

/-- A record as an impression ended in progress leaves it (R106). -/
def Record.endedPartial (r : Record) : Record := { r with result := .incomplete, flags := { r.flags with incomplete := true } }

theorem tripRecords_find (s : State) (q : PieceNo) : (tripRecords s).find? (fun r => r.number == q) =
    (s.record? q).map (fun r => if s.printer.job.map (·.piece) = some q then r.endedPartial else r) := by
  unfold tripRecords
  cases hjob : s.printer.job with
  | none => simp [State.record?]
  | some j =>
    have h := s.record?_updateRecord_number j.piece q Record.endedPartial (fun _ => rfl)
    simp only [Option.map_some, Option.some.injEq]
    refine h.trans ?_
    simp only [eq_comm]

/-- A trip ends the impression in progress and leaves the other records (R140). -/
theorem State.trip_record? (s : State) (cause : TripCause) (cell : Option Cell) (at' : Pos) (piece : Option PieceNo) (q : PieceNo) :
    (s.trip cause cell at' piece).record? q = s.record? q ∨ (s.trip cause cell at' piece).record? q =
      (s.record? q).map (fun r => if s.printer.job.map (·.piece) = some q then r.endedPartial else r) := by
  by_cases h : s.run.state.isRunning = true ∧ s.protect.latch = false
  · right
    refine Eq.trans ?_ (tripRecords_find s q)
    rw [State.trip_eq_tripActs h.1 h.2, State.record?]
    simp
  · left
    rw [State.trip_of_not]
    rcases not_and_or.mp h with h | h
    · exact .inl (by simpa using h)
    · exact .inr (by simpa using h)

theorem State.trip_length (s : State) (cause : TripCause) (cell : Option Cell) (at' : Pos) (piece : Option PieceNo) :
    (s.trip cause cell at' piece).records.length = s.records.length := by
  by_cases h : s.run.state.isRunning = true ∧ s.protect.latch = false
  · rw [State.trip_eq_tripActs h.1 h.2]
    simp
  · rw [State.trip_of_not]
    rcases not_and_or.mp h with h | h
    · exact .inl (by simpa using h)
    · exact .inr (by simpa using h)

/-- A trip that leaves the latch as it was is none (R139, R140). -/
theorem State.trip_of_latch {s : State} {cause : TripCause} {cell : Option Cell} {at' : Pos} {piece : Option PieceNo}
    (h : (s.trip cause cell at' piece).protect.latch = s.protect.latch) : s.trip cause cell at' piece = s := by
  by_cases hrun : s.run.state.isRunning = true ∧ s.protect.latch = false
  · rw [State.trip_eq_tripActs hrun.1 hrun.2, hrun.2] at h
    simp at h
  · rw [State.trip_of_not]
    rcases not_and_or.mp hrun with h | h
    · exact .inl (by simpa using h)
    · exact .inr (by simpa using h)

/-! ## An expectation with its deadline, ahead or overdue (R10, R58) -/

/-- The expectation stands, and its deadline is pending, kept out by the latch, or MISSING at once (R5, R58, R63). -/
theorem State.expect_cases (s : State) (p : PieceNo) (c : Cell) (lead : Pos) :
    (∃ l, s.expect p c lead = { s.expecting p c lead with schedule := l }) ∨
      ∃ due, s.expect p c lead = (s.expecting p c lead).trip .missing (some c) due (some p) := by
  have hu := s.expecting_onlyPieces p c lead
  cases hlatch : s.protect.latch with
  | true =>
    left
    rw [State.expect_eq, State.insertEntry_of_latch (by rw [onlyPieces_protect hu, hlatch])]
    exact ⟨_, rfl⟩
  | false =>
    cases hdue : isAhead (posAdd (posAdd lead s.plan.cellTol) 1) s.position with
    | true => exact .inl ⟨_, State.expect_of_ahead hlatch hdue⟩
    | false => exact .inr ⟨_, State.expect_of_overdue hlatch hdue⟩

/-- What is so of the expectation's record, of every other record, and of the rest, whatever becomes of its deadline. -/
theorem State.expect_leaves (s : State) (p : PieceNo) (c : Cell) (lead : Pos) :
    ((s.expect p c lead).protect.latch = s.protect.latch → ∃ l, s.expect p c lead = { s.expecting p c lead with schedule := l }) ∧
    (∀ r, s.record? p = some r → ∃ r', (s.expect p c lead).record? p = some r' ∧
      (r' = { r with next := some ⟨c, posSub lead s.plan.cellTol, posAdd lead s.plan.cellTol⟩ } ∨
        r' = Record.endedPartial { r with next := some ⟨c, posSub lead s.plan.cellTol, posAdd lead s.plan.cellTol⟩ })) ∧
    (∀ q, q ≠ p → (∀ j, s.printer.job = some j → j.piece ≠ q) → (s.expect p c lead).record? q = s.record? q) ∧
    (s.expect p c lead).records.length = s.records.length := by
  have hu := s.expecting_onlyPieces p c lead
  have hsame := s.expecting_record?_same p c lead
  have hother : ∀ {q}, q ≠ p → _ := s.expecting_record?_other p c lead
  have hlength : (s.expecting p c lead).records.length = s.records.length := by
    simp [State.expecting, State.updateRecord, State.dropExpectation, State.setQueue]
  have hjob : (s.expecting p c lead).printer.job = s.printer.job := by rw [hu]
  rcases s.expect_cases p c lead with ⟨l, h⟩ | ⟨due, h⟩
  · rw [h]
    refine ⟨fun _ => ⟨l, rfl⟩, fun r hr => ⟨_, (State.record?_congr rfl p).trans (hsame.trans (by rw [hr]; rfl)), .inl rfl⟩,
      fun q hq _ => (State.record?_congr rfl q).trans (hother hq), hlength⟩
  · rw [h]
    refine ⟨fun hlatch => ⟨_, State.trip_of_latch (hlatch.trans ?_)⟩, fun r hr => ?_, fun q hq hj => ?_, (State.trip_length _ _ _ _ _).trans hlength⟩
    · rw [onlyPieces_protect hu]
    · rw [hr] at hsame
      rcases State.trip_record? (s.expecting p c lead) .missing (some c) due (some p) p with h' | h' <;> rw [hsame] at h'
      · exact ⟨_, h', .inl rfl⟩
      · refine ⟨_, h', ?_⟩
        dsimp only
        split
        · exact .inr rfl
        · exact .inl rfl
    · rcases State.trip_record? (s.expecting p c lead) .missing (some c) due (some p) q with h' | h' <;> rw [h', hother hq]
      have hne : ¬ (s.expecting p c lead).printer.job.map (·.piece) = some q := by
        rw [hjob]
        cases hjob' : s.printer.job with
        | none => simp
        | some j => simpa using hj j hjob'
      simp only [hne, if_false, Option.map_id']

/-! ## The decision act (R41, R51, R52) -/

/-- A decided piece, before its gates and its expectation: the pocket request, the decision field and the phase (R51, R52). -/
def State.decided (s : State) (p : PieceNo) (r : Record) (lists : PerScanner (List KeptRun)) : State :=
  (if (judge s.plan s.position (s.pocket.state == .empty) r lists).2.reverses then s.reservePocket p else s).updateRecord p
    (fun x => { x with
      culls := (judge s.plan s.position (s.pocket.state == .empty) r lists).1
      decision := some (decisionOf r.lengthOrOpen (judge s.plan s.position (s.pocket.state == .empty) r lists).2 lists)
      phase := .travelling })

section
variable {s : State} {p : PieceNo} {r : Record} (h : s.record? p = some r) (lists : PerScanner (List KeptRun))
include h

theorem State.makeDecision_of_record : s.makeDecision p lists =
    (s.decided p r lists).phaseOne r (judge s.plan s.position (s.pocket.state == .empty) r lists).2 := by
  simp only [State.makeDecision, h]
  rfl

omit h in
theorem State.decided_eq : s.decided p r lists = { s with
    pocket := if (judge s.plan s.position (s.pocket.state == .empty) r lists).2.reverses then
      { s.pocket with state := .reserved, occupant := some p, motor := motorFor .reserved s.protect.latch } else s.pocket
    records := (s.decided p r lists).records } := by
  unfold State.decided
  split <;> rfl

omit h in
theorem State.decided_records : (s.decided p r lists).records.length = s.records.length ∧
    ∀ q, (s.decided p r lists).record? q = (s.record? q).map (fun x => if q = p then { x with
      culls := (judge s.plan s.position (s.pocket.state == .empty) r lists).1
      decision := some (decisionOf r.lengthOrOpen (judge s.plan s.position (s.pocket.state == .empty) r lists).2 lists)
      phase := .travelling } else x) := by
  have hrecords : (if (judge s.plan s.position (s.pocket.state == .empty) r lists).2.reverses then s.reservePocket p else s).records =
      s.records := by split <;> rfl
  refine ⟨?_, fun q => ?_⟩
  · rw [State.decided]
    simp only [State.updateRecord, List.length_map, hrecords]
  · rw [← State.record?_congr hrecords]
    exact State.record?_updateRecord_number _ p q (fun x => { x with
      culls := (judge s.plan s.position (s.pocket.state == .empty) r lists).1
      decision := some (decisionOf r.lengthOrOpen (judge s.plan s.position (s.pocket.state == .empty) r lists).2 lists)
      phase := .travelling }) (fun _ => rfl)

end

end Sys2Proof.Machine

/-! PROOFS. The decision act whole (spec/03, R41, R51 to R54). -/

namespace Sys2Proof.Machine

open Sys2Proof.Safety

/-! ## Entries and an expectation, all ahead (R5, R6, R58, R69) -/

section
variable {s : State} {p : PieceNo} {l : List Entry} (hlatch : s.protect.latch = false) (hpiece : ∀ e ∈ l, e.piece = p)
  (hkind : ∀ e ∈ l, ∀ c, e.kind ≠ .cellDeadline c) (hahead : ∀ e ∈ l, isAhead e.due s.position = true) {c : Cell} {lead : Pos}
  (hdue : isAhead (posAdd (posAdd lead s.plan.cellTol) 1) s.position = true)
include hlatch hpiece hkind hahead hdue

/-- Entries of a piece inserted, and the piece expected at a cell: all its entries stand, and its expectation (R5, R58). -/
theorem State.expect_insertEach :
    scheduled s ((s.insertEach l).expect p c lead) p (l ++ [⟨.cellDeadline c, p, posAdd (posAdd lead s.plan.cellTol) 1⟩]) ∧
    (∀ d x, x ∈ ((s.insertEach l).expect p c lead).queue d ↔
      (x ∈ s.queue d ∧ x.who ≠ .piece p) ∨ (d = c ∧ x = pieceExpectation s.plan p lead)) ∧
    ((s.insertEach l).expect p c lead).record? p = (s.record? p).map (fun r =>
      { r with next := some ⟨c, posSub lead s.plan.cellTol, posAdd lead s.plan.cellTol⟩ }) ∧
    (s.insertEach l).expect p c lead = { s with
      cellUnit := ((s.insertEach l).expect p c lead).cellUnit, records := ((s.insertEach l).expect p c lead).records
      schedule := ((s.insertEach l).expect p c lead).schedule } := by
  obtain ⟨hmem, heq⟩ := State.insertEach_of_ahead l hlatch hpiece hahead
  generalize s.insertEach l = w at *
  have hprotect : w.protect = s.protect := by rw [heq]
  have hplan : w.plan = s.plan := by rw [heq]
  have hposition : w.position = s.position := by rw [heq]
  have hqueue : ∀ d, w.queue d = s.queue d := fun d => by rw [heq]; rfl
  have hrecord : w.record? p = s.record? p := State.record?_congr (by rw [heq]) p
  have ht := State.expect_of_ahead (s := w) (p := p) (c := c) (lead := lead) (by rw [hprotect, hlatch]) (by rw [hplan, hposition]; exact hdue)
  have hv := w.expecting_onlyPieces p c lead
  have hvqueue := w.mem_expecting_queue p c lead
  have hvrecord := w.expecting_record?_same p c lead
  have hvmem := w.mem_expecting_schedule p c lead
  rw [ht]
  generalize w.expecting p c lead = v at *
  rw [hplan] at hvqueue hvrecord ⊢
  refine ⟨fun e => ?_, fun d x => (hvqueue d x).trans (by rw [hqueue]), (State.record?_congr rfl p).trans (hvrecord.trans (by rw [hrecord])), ?_⟩
  · refine (mem_placeEntry _ _ _).trans ?_
    rw [hvmem, hmem, List.mem_append, List.mem_singleton]
    have hlast : (∀ o ∈ l ++ [⟨.cellDeadline c, p, posAdd (posAdd lead s.plan.cellTol) 1⟩], standsBeside p o e) ↔
        ∀ o ∈ l, standsBeside p o e := by
      simp [List.mem_append, or_imp, forall_and, standsBeside]
    have hnot : e ∈ l → ¬ (e.piece = p ∧ ∃ c, e.kind = .cellDeadline c) := fun he ⟨_, d, hd⟩ => hkind e he d hd
    constructor
    · rintro (h | ⟨h | ⟨h, h'⟩, h''⟩)
      · exact .inl (.inr h)
      · exact .inl (.inl h)
      · exact .inr ⟨h, h'', hlast.mpr h'⟩
    · rintro ((h | h) | ⟨h, h', h''⟩)
      · exact .inr ⟨.inl h, hnot h⟩
      · exact .inl h
      · exact .inr ⟨.inr ⟨h, hlast.mp h''⟩, h'⟩
  · rw [hv, heq]

end

/-- The actions of a decision stand for the state they were made in, whatever its scan context, records and counters were, and stand when
the window and the cells have followed. -/
theorem phaseOneDone_congr {u v t t' : State} {p : PieceNo} {lead : Pos} {n : Nat} {turn : Turning}
    (hv : v = { u with cellUnit := v.cellUnit, records := v.records, scan := v.scan, tally := v.tally, port := v.port })
    (hqueue : ∀ c, v.queue c = u.queue c) (ht : t' = { t with cellUnit := t'.cellUnit, scan := t'.scan })
    (hqueue' : ∀ c, t'.queue c = t.queue c) (h : phaseOneDone v t p lead n turn) : phaseOneDone u t' p lead n turn := by
  intro hlatch hahead
  have hplan : v.plan = u.plan := by rw [hv]
  have hposition : v.position = u.position := by rw [hv]
  have hschedule : v.schedule = u.schedule := by rw [hv]
  have hpocket : v.pocket = u.pocket := by rw [hv]
  have hschedule' : t'.schedule = t.schedule := by rw [ht]
  have hpocket' : t'.pocket = t.pocket := by rw [ht]
  have hrecord' : t'.record? = t.record? := funext fun q => State.record?_congr (by rw [ht]) q
  obtain ⟨h1, h2, h3, h4⟩ := h (by rw [hv]; exact hlatch) (by rw [hplan, hposition]; exact hahead)
  simp only [scheduled, expected, hplan, hschedule, hqueue, hpocket] at h1 h2 h3
  simp only [scheduled, expected, hschedule', hqueue', hpocket', hrecord']
  refine ⟨h1, h2, h3, ?_⟩
  rw [ht, h4, hv]

/-! ## The act (R41) -/

section
variable {s : State} {p : PieceNo} {r : Record} (h : s.record? p = some r) (lists : PerScanner (List KeptRun))
include h

/-- Where every due lies ahead the decision's actions are those of R51, R53 and R54. -/
theorem State.makeDecision_phaseOneDone {n : Nat} (hn : r.length = some n) : phaseOneDone s (s.makeDecision p lists) p r.lead n
    (judge s.plan s.position (s.pocket.state == .empty) r lists).2 := by
  intro hlatch hahead
  have hnumber : r.number = p := State.number_of_record? h
  have hlen : r.lengthOrOpen = n := by rw [Record.lengthOrOpen, hn]; rfl
  have hu := State.decided_eq (s := s) (p := p) (r := r) lists
  obtain ⟨-, hrecord⟩ := State.decided_records (s := s) (p := p) (r := r) lists
  rw [State.makeDecision_of_record h lists, State.phaseOne_inserts, hlen, hnumber]
  generalize s.decided p r lists = u at *
  generalize (judge s.plan s.position (s.pocket.state == .empty) r lists).2 = turn at *
  have hplan : u.plan = s.plan := by rw [hu]
  have hposition : u.position = s.position := by rw [hu]
  have hqueue : ∀ d, u.queue d = s.queue d := fun d => by rw [hu]; rfl
  have hschedule : u.schedule = s.schedule := by rw [hu]
  rw [decisionEntries_eq] at hahead ⊢
  have hdue := hahead ⟨.cellDeadline (turningCell s.plan turn).1, p, posAdd (posAdd (posAdd r.lead (turningCell s.plan turn).2) s.plan.cellTol) 1⟩
    (List.mem_append_right _ (List.mem_singleton.mpr rfl))
  obtain ⟨h1, h2, h3, h4⟩ := State.expect_insertEach (s := u) (p := p) (l := turningEntries u.plan p r.lead n turn)
    (c := (turningCell u.plan turn).1) (lead := posAdd r.lead (turningCell u.plan turn).2) (by rw [hu]; exact hlatch)
    (fun e he => (mem_turningEntries he).1)
    (fun e he c => by obtain ⟨-, g, hg | hg⟩ := mem_turningEntries he <;> simp [hg])
    (fun e he => by rw [hposition]; exact hahead e (List.mem_append_left _ (hplan ▸ he)))
    (by rw [hposition, hplan]; exact hdue)
  rw [hplan] at h1 h2 h3 h4 ⊢
  generalize (u.insertEach (turningEntries s.plan p r.lead n turn)).expect p (turningCell s.plan turn).1
    (posAdd r.lead (turningCell s.plan turn).2) = t at *
  have hnext : (t.record? p).bind (·.next) = some ⟨(turningCell s.plan turn).1,
      posSub (posAdd r.lead (turningCell s.plan turn).2) s.plan.cellTol, posAdd (posAdd r.lead (turningCell s.plan turn).2) s.plan.cellTol⟩ := by
    rw [h3, hrecord, h]
    rfl
  have hexpected : expected s t p (turningCell s.plan turn).1 (posAdd r.lead (turningCell s.plan turn).2) :=
    ⟨fun d x => by rw [h2, hqueue]; rfl, hnext⟩
  have hpocket : t.pocket = u.pocket := by rw [h4]
  refine ⟨fun e => by rw [h1, hschedule], fun hturn => ?_, fun hturn => ?_, ?_⟩
  · have hreverses : turn.reverses = true := by rcases hturn with rfl | rfl <;> rfl
    rw [turningCell, if_pos hreverses] at hexpected
    refine ⟨hexpected, hpocket.trans ?_⟩
    rw [hu, hreverses, hlatch]
    rfl
  · have hreverses : turn.reverses = false := by rcases hturn with rfl | rfl <;> rfl
    rw [turningCell, if_neg (by rw [hreverses]; decide)] at hexpected
    refine ⟨hexpected, hpocket.trans ?_⟩
    rw [hu, hreverses]
    rfl
  · rw [h4, hu]

/-- What a decision leaves, overdue entries or not (R51, R52). -/
theorem State.makeDecision_leaves :
    ((s.makeDecision p lists).protect.latch = s.protect.latch → s.makeDecision p lists = { s with
      cellUnit := (s.makeDecision p lists).cellUnit, records := (s.makeDecision p lists).records
      schedule := (s.makeDecision p lists).schedule, gates := (s.makeDecision p lists).gates, pocket := (s.makeDecision p lists).pocket }) ∧
    (∃ r', (s.makeDecision p lists).record? p = some r' ∧ r'.phase = .travelling ∧
      r'.decision = some (decisionOf r.lengthOrOpen (judge s.plan s.position (s.pocket.state == .empty) r lists).2 lists) ∧
      r'.culls = (judge s.plan s.position (s.pocket.state == .empty) r lists).1 ∧ r'.flags.forcedClose = r.flags.forcedClose ∧
      ((s.makeDecision p lists).protect.latch = s.protect.latch → r'.flags = r.flags)) ∧
    (∀ q, q ≠ p → (∀ j, s.printer.job = some j → j.piece ≠ q) → (s.makeDecision p lists).record? q = s.record? q) ∧
    (s.makeDecision p lists).records.length = s.records.length := by
  have hnumber : r.number = p := State.number_of_record? h
  have hu := State.decided_eq (s := s) (p := p) (r := r) lists
  obtain ⟨hlength, hrecord⟩ := State.decided_records (s := s) (p := p) (r := r) lists
  rw [State.makeDecision_of_record h lists, State.phaseOne_inserts, hnumber]
  generalize s.decided p r lists = u at *
  generalize judge s.plan s.position (s.pocket.state == .empty) r lists = v at *
  have hw := State.insertEach_gates (turningEntries u.plan p r.lead r.lengthOrOpen v.2) u (fun e he => (mem_turningEntries he).2)
  generalize u.insertEach (turningEntries u.plan p r.lead r.lengthOrOpen v.2) = w at *
  have hwrecord : ∀ q, w.record? q = u.record? q := fun q => State.record?_congr (by rw [hw]) q
  have hwjob : w.printer.job = s.printer.job := by rw [hw, hu]
  have hwlatch : w.protect.latch = s.protect.latch := by rw [hw, hu]
  obtain ⟨hkept, hsame, hother, hlen⟩ := w.expect_leaves p (turningCell u.plan v.2).1 (posAdd r.lead (turningCell u.plan v.2).2)
  have hx := w.expecting_onlyPieces p (turningCell u.plan v.2).1 (posAdd r.lead (turningCell u.plan v.2).2)
  have hxrecord := w.expecting_record?_same p (turningCell u.plan v.2).1 (posAdd r.lead (turningCell u.plan v.2).2)
  generalize w.expecting p (turningCell u.plan v.2).1 (posAdd r.lead (turningCell u.plan v.2).2) = x at *
  have hp := hrecord p
  rw [h, Option.map_some, if_pos rfl] at hp
  obtain ⟨r', hr', hcases⟩ := hsame _ ((hwrecord p).trans hp)
  generalize w.expect p (turningCell u.plan v.2).1 (posAdd r.lead (turningCell u.plan v.2).2) = t at *
  refine ⟨fun hlatch => ?_, ⟨r', hr', ?_⟩, fun q hq hj => ?_, ?_⟩
  · obtain ⟨l, hl⟩ := hkept (hlatch.trans hwlatch.symm)
    rw [hl, hx, hw, hu]
  · have hflags : t.protect.latch = s.protect.latch → r'.flags = r.flags := fun hlatch => by
      obtain ⟨l, hl⟩ := hkept (hlatch.trans hwlatch.symm)
      rw [State.record?_congr (t := x) (by rw [hl]) p, hxrecord, hwrecord, hp] at hr'
      rw [← Option.some.inj hr']
    rcases hcases with rfl | rfl
    · exact ⟨rfl, rfl, rfl, rfl, hflags⟩
    · exact ⟨rfl, rfl, rfl, rfl, hflags⟩
  · rw [hother q hq (by rw [hwjob]; exact hj), hwrecord, hrecord]
    simp [hq]
  · rw [hlen, ← hlength, hw]

end

end Sys2Proof.Machine

/-! PROOFS. The close of the scan window (spec/02, R27, R28). -/

namespace Sys2Proof.Machine

open Sys2Proof.Safety

/-! ## The close (R27) -/

/-- Of `s` and `t`: the window of piece p, with record r, has been closed with these lists, and the decision made (R27, R38, R41). -/
structure WindowClosed (s t : State) (p : PieceNo) (r : Record) (lists : PerScanner (List KeptRun)) (drops : Nat) : Prop where
  window : t.scan.window = none
  decided : ∃ r' d, t.record? p = some r' ∧ r'.phase = .travelling ∧ r'.decision = some d ∧
    (r'.culls, d.turning) = judge s.plan s.position (s.pocket.state == .empty) r lists ∧ d = decisionOf r.lengthOrOpen d.turning lists ∧
    r'.flags.forcedClose = r.flags.forcedClose ∧
    (t.protect.latch = s.protect.latch → r'.flags = { r.flags with runsDropped := r.flags.runsDropped || decide (0 < drops) }) ∧
    ∀ n, r.length = some n → phaseOneDone s t p r.lead n d.turning
  lists : t.protect.latch = s.protect.latch → runLists t.scan.scanners = lists
  tallied : t.protect.latch = s.protect.latch → tallied s t [] (List.replicate drops .runsDropped) 0
  kept : t.protect.latch = s.protect.latch → t.mem = s.mem ∧ t.run = s.run ∧ t.drive = s.drive ∧ t.protect = s.protect
  others : ∀ q, q ≠ p → (∀ j, s.printer.job = some j → j.piece ≠ q) → t.record? q = s.record? q
  length : t.records.length = s.records.length
  cells : t.cellUnit.cells = s.cellUnit.cells
  frame : t.position = s.position ∧ t.admission = s.admission ∧ t.router = s.router ∧ t.reports = s.reports ∧ t.pending = s.pending

section
variable (s : State) (x : Window) (w : Nat)

/-- The open runs closed at the edge and their drops noted (R27, R38). -/
def State.edgesClosed : State :=
  ({ s with scan := ⟨some x, scannerStates (edgeCloseAll s.plan w s.scan.scanners)⟩ } : State).noteDrops x.piece
    (closeDrops s.plan w s.scan.scanners)

theorem State.completeClose_eq : s.completeClose x w =
    { (s.edgesClosed x w).makeDecision x.piece (windowLists s.plan w s.scan.scanners) with
      scan := { ((s.edgesClosed x w).makeDecision x.piece (windowLists s.plan w s.scan.scanners)).scan with window := none } } := by
  rw [State.edgesClosed, ← droppedCount_edgeCloseAll]
  rfl

theorem State.edgesClosed_eq : s.edgesClosed x w =
    { s with
      scan := ⟨some x, scannerStates (edgeCloseAll s.plan w s.scan.scanners)⟩, records := (s.edgesClosed x w).records
      tally := (s.edgesClosed x w).tally, port := (s.edgesClosed x w).port } :=
  State.noteDrops_eq _ _ _

theorem State.edgesClosed_tallied :
    tallied s (s.edgesClosed x w) [] (List.replicate (closeDrops s.plan w s.scan.scanners) .runsDropped) 0 :=
  tallied_congr (State.noteDrops_tallied x.piece (closeDrops s.plan w s.scan.scanners)
    { s with scan := ⟨some x, scannerStates (edgeCloseAll s.plan w s.scan.scanners)⟩ }) rfl rfl rfl rfl rfl

theorem State.edgesClosed_record? (q : PieceNo) : (s.edgesClosed x w).record? q = (s.record? q).map (fun r =>
    if q = x.piece then { r with flags := { r.flags with
      runsDropped := r.flags.runsDropped || decide (0 < closeDrops s.plan w s.scan.scanners) } } else r) :=
  State.noteDrops_record? _ _ _ _

theorem State.edgesClosed_length : (s.edgesClosed x w).records.length = s.records.length := State.noteDrops_length _ _ _

theorem State.completeClose_closed {r : Record} (h : s.record? x.piece = some r) : WindowClosed s (s.completeClose x w) x.piece r
    (windowLists s.plan w s.scan.scanners) (closeDrops s.plan w s.scan.scanners) := by
  have hu := s.edgesClosed_eq x w
  have hlists : runLists (scannerStates (edgeCloseAll s.plan w s.scan.scanners)) = windowLists s.plan w s.scan.scanners := rfl
  have htallied := s.edgesClosed_tallied x w
  have hrecord := s.edgesClosed_record? x w
  have hlength := s.edgesClosed_length x w
  rw [State.completeClose_eq]
  generalize closeDrops s.plan w s.scan.scanners = drops at *
  generalize windowLists s.plan w s.scan.scanners = lists at *
  generalize scannerStates (edgeCloseAll s.plan w s.scan.scanners) = scanners at *
  generalize s.edgesClosed x w = u at *
  have hplan : u.plan = s.plan := by rw [hu]
  have hposition : u.position = s.position := by rw [hu]
  have hpocket : u.pocket = s.pocket := by rw [hu]
  have hlatch : u.protect.latch = s.protect.latch := by rw [hu]
  have hr : u.record? x.piece = some { r with flags := { r.flags with runsDropped := r.flags.runsDropped || decide (0 < drops) } } := by
    rw [hrecord, h, Option.map_some, if_pos rfl]
  obtain ⟨hkept, ⟨r', hr', hphase, hdecision, hculls, hforced, hflags⟩, hother, hlen⟩ := State.makeDecision_leaves hr lists
  have hdone := fun n => State.makeDecision_phaseOneDone hr lists (n := n)
  have hcells : (u.makeDecision x.piece lists).cellUnit.cells = s.cellUnit.cells := by
    rw [show s.cellUnit.cells = u.cellUnit.cells by rw [hu]]
    simp
  have hframe : (u.makeDecision x.piece lists).position = s.position ∧ (u.makeDecision x.piece lists).admission = s.admission ∧
    (u.makeDecision x.piece lists).router = s.router ∧ (u.makeDecision x.piece lists).reports = s.reports ∧
    (u.makeDecision x.piece lists).pending = s.pending := by
    have hsame : u.position = s.position ∧ u.admission = s.admission ∧ u.router = s.router ∧ u.reports = s.reports ∧
        u.pending = s.pending := by rw [hu]; exact ⟨rfl, rfl, rfl, rfl, rfl⟩
    simpa using hsame
  generalize u.makeDecision x.piece lists = t at *
  rw [hplan, hposition, hpocket] at hdecision hculls hdone
  rw [hlatch] at hkept hflags
  have hkept' : t.protect.latch = s.protect.latch → t.scan.scanners = scanners ∧ t.tally = u.tally ∧ t.port = u.port ∧ t.mem = s.mem ∧
      t.run = s.run ∧ t.drive = s.drive ∧ t.protect = s.protect := fun h => by
    have ht := hkept h
    refine ⟨?_, ?_, ?_, ?_, ?_, ?_, ?_⟩ <;> rw [ht] <;> rw [hu]
  exact {
    window := rfl
    decided := ⟨r', _, (State.record?_congr rfl _).trans hr', hphase, hdecision, by rw [hculls, decisionOf_turning]; rfl,
      by rw [decisionOf_turning]; rfl, hforced, hflags, fun n hn => by
        rw [decisionOf_turning]
        exact phaseOneDone_congr (t := t) (by rw [hu]) (fun c => by rw [hu]; rfl) rfl (fun _ => rfl) (hdone n hn)⟩
    lists := fun h => (congrArg runLists (hkept' h).1).trans hlists
    tallied := fun h => tallied_congr htallied rfl rfl rfl (hkept' h).2.1 (hkept' h).2.2.1
    kept := fun h => (hkept' h).2.2.2
    others := fun q hq hj => by
      refine (State.record?_congr rfl q).trans ((hother q hq (by rw [hu]; exact hj)).trans ?_)
      rw [hrecord]
      simp [hq]
    length := hlen.trans hlength
    cells := hcells
    frame := hframe }

end

/-! ## The forced close (R28) -/

theorem State.forceClose_of_due {s : State} {x : Window} (h : s.scan.window = some x) (hcount : 1023 ≤ x.count) : s.forceClose =
    (s.updateRecord x.piece (fun r => { r with flags := { r.flags with forcedClose := true } })).completeClose x 1023 := by
  simp only [State.forceClose, h, if_pos hcount]

theorem State.forceClose_window {s : State} {x : Window} (h : s.scan.window = some x) (hcount : 1023 ≤ x.count) :
    s.forceClose.scan.window = none := by
  rw [State.forceClose_of_due h hcount]
  rfl

theorem State.forceClose_of_not_due {s : State} (h : s.forcedCloseDue = false) : s.forceClose = s := by
  unfold State.forceClose
  split
  · rfl
  · next x hx => exact if_neg (by simpa [State.forcedCloseDue, hx] using h)

/-- An uncover beyond the window's steps comes after the forced close (R28). -/
theorem exec_uncover_after_forceClose {s : State} {p : PieceNo} {x : Window} (hrun : s.run.state.isRunning = true)
    (hcovered : (s.cell .scan).covered = true) (hoccupant : (s.cell .scan).occupant = some (.piece p)) (hx : s.scan.window = some x)
    (hp : x.piece = p) (hcount : 1023 ≤ x.count) (hbeyond : 1023 < distanceAhead s.position x.openAt) :
    exec (.uncover .scan) s = exec (.uncover .scan) s.forceClose := by
  have hcell : s.forceClose.cell .scan = s.cell .scan := by simp [State.cell]
  have hfirst : s.forcedCloseFirst .scan = true := by
    simp [State.forcedCloseFirst, hx, hoccupant, hp, hcount, hbeyond]
  have hahead : s.closeAhead .scan = s.forceClose := by simp [State.closeAhead, hrun, hfirst]
  have hnone : s.forceClose.forcedCloseFirst .scan = false :=
    State.forcedCloseFirst_of_no_window (fun y hy => by rw [State.forceClose_window hx hcount] at hy; cases hy) _
  have hafter : s.forceClose.closeAhead .scan = s.forceClose := by simp [State.closeAhead, hnone]
  rw [exec_uncover hcovered, exec_uncover (hcell ▸ hcovered)]
  simp only [State.uncoverCell, hahead, hafter]

theorem State.closeWindow_of_window {s : State} {p : PieceNo} {x : Window} (h : s.scan.window = some x) (hp : x.piece = p) (at' : Pos) :
    s.closeWindow p at' = (if x.count + 1 = distanceAhead at' x.openAt then s.takeSet else s).completeClose x (distanceAhead at' x.openAt) := by
  simp only [State.closeWindow, h, hp, if_true]

/-! ## The last set (R26 step 4, R27) -/

theorem State.takeSet_of_window {s : State} {x : Window} (h : s.scan.window = some x) (hcount : x.count < 1023) : s.takeSet =
    ({ s with scan := ⟨some { x with count := x.count + 1 }, scannerStates (sampleAll s.plan x.count s.samples s.scan.scanners)⟩ } :
      State).noteDrops x.piece (dropsAt s s.samples x.count) := by
  simp only [State.takeSet, h, hcount, if_true, droppedCount_sampleAll]

section
variable {s : State} {x : Window} (h : s.scan.window = some x) {w : Nat} (hcount : x.count + 1 = w → x.count < 1023)
include h hcount

/-- The drops of a last set still missing at the close. -/
abbrev lastDrops (s : State) (x : Window) (w : Nat) : Nat := if x.count + 1 = w then dropsAt s s.samples x.count else 0

/-- A last set taken at the close, where one is missing (R27). -/
def State.lastSet (s : State) (x : Window) (w : Nat) : State := if x.count + 1 = w then s.takeSet else s

theorem State.lastSet_eq : s.lastSet x w = { s with
    scan := (s.lastSet x w).scan, records := (s.lastSet x w).records, tally := (s.lastSet x w).tally, port := (s.lastSet x w).port } := by
  unfold State.lastSet
  split
  · next hw => rw [State.takeSet_of_window h (hcount hw), State.noteDrops_eq]
  · rfl

theorem State.lastSet_tallied : tallied s (s.lastSet x w) [] (List.replicate (lastDrops s x w) .runsDropped) 0 := by
  unfold State.lastSet lastDrops
  split
  · next hw =>
    rw [State.takeSet_of_window h (hcount hw)]
    exact tallied_congr (State.noteDrops_tallied x.piece (dropsAt s s.samples x.count) { s with
      scan := ⟨some { x with count := x.count + 1 }, scannerStates (sampleAll s.plan x.count s.samples s.scan.scanners)⟩ }) rfl rfl rfl
      rfl rfl
  · exact tallied_of_same rfl rfl

theorem State.lastSet_record? (q : PieceNo) : (s.lastSet x w).record? q = (s.record? q).map (fun r =>
    if q = x.piece then { r with flags := { r.flags with runsDropped := r.flags.runsDropped || decide (0 < lastDrops s x w) } } else r) := by
  unfold State.lastSet lastDrops
  split
  · next hw =>
    rw [State.takeSet_of_window h (hcount hw), State.noteDrops_record?]
    rfl
  · simp

theorem State.lastSet_length : (s.lastSet x w).records.length = s.records.length := by
  unfold State.lastSet
  split
  · next hw => rw [State.takeSet_of_window h (hcount hw), State.noteDrops_length]
  · rfl

theorem State.lastSet_scan : (s.lastSet x w).scan = if x.count + 1 = w then
    ⟨some { x with count := x.count + 1 }, scannerStates (sampleAll s.plan x.count s.samples s.scan.scanners)⟩ else s.scan := by
  unfold State.lastSet
  split
  · next hw =>
    rw [State.takeSet_of_window h (hcount hw)]
    simp
  · rfl

end

/-- A close made after a change of the scan context, of the piece's flags and of the counters is a close of the state before it. -/
theorem WindowClosed.of_dropped {u v t : State} {p : PieceNo} {r : Record} {lists : PerScanner (List KeptRun)} {m n : Nat} (f : PieceFlags)
    (hv : v = { u with scan := v.scan, records := v.records, tally := v.tally, port := v.port })
    (htallied : Safety.tallied u v [] (List.replicate m .runsDropped) 0)
    (hother : ∀ q, q ≠ p → v.record? q = u.record? q) (hlength : v.records.length = u.records.length)
    (h : WindowClosed v t p { r with flags := { f with runsDropped := f.runsDropped || decide (0 < m) } } lists n) :
    WindowClosed u t p { r with flags := f } lists (m + n) := by
  have hplan : v.plan = u.plan := by rw [hv]
  have hposition : v.position = u.position := by rw [hv]
  have hpocket : v.pocket = u.pocket := by rw [hv]
  have hprotect : v.protect = u.protect := by rw [hv]
  have hcells : v.cellUnit.cells = u.cellUnit.cells := by rw [hv]
  have hjob : v.printer.job = u.printer.job := by rw [hv]
  have hkept : v.mem = u.mem ∧ v.run = u.run ∧ v.drive = u.drive := by rw [hv]; exact ⟨rfl, rfl, rfl⟩
  have hframe : v.position = u.position ∧ v.admission = u.admission ∧ v.router = u.router ∧ v.reports = u.reports ∧ v.pending = u.pending := by
    rw [hv]; exact ⟨rfl, rfl, rfl, rfl, rfl⟩
  obtain ⟨hm, hr, hd⟩ := hkept
  obtain ⟨h1, h2, h3, h4, h5⟩ := hframe
  obtain ⟨r', d, hr', hphase, hdecision, hjudge, hd', hforced, hflags, hdone⟩ := h.decided
  rw [hplan, hposition, hpocket] at hjudge
  rw [hprotect] at hflags
  exact {
    window := h.window
    decided := ⟨r', d, hr', hphase, hdecision, hjudge, hd', hforced, fun hlatch => by
        rw [hflags hlatch]
        simp only [Bool.or_assoc, ← Bool.decide_or, Nat.add_pos_iff_pos_or_pos], fun n hn =>
        phaseOneDone_congr (t := t) (by rw [hv]) (fun c => by rw [hv]; rfl) rfl (fun _ => rfl) (hdone n hn)⟩
    lists := fun hlatch => h.lists (by rw [hprotect, hlatch])
    tallied := fun hlatch => by
      have := tallied_trans htallied (h.tallied (by rw [hprotect, hlatch])) hplan
      rwa [← List.replicate_add] at this
    kept := fun hlatch => by
      have := h.kept (by rw [hprotect, hlatch])
      rwa [hm, hr, hd, hprotect] at this
    others := fun q hq hj => (h.others q hq (by rw [hjob]; exact hj)).trans (hother q hq)
    length := h.length.trans hlength
    cells := h.cells.trans hcells
    frame := by
      have := h.frame
      rwa [h1, h2, h3, h4, h5] at this }

end Sys2Proof.Machine

/-! PROOFS. The SCAN uncover and FORCED_CLOSE (spec/02, R27, R28). -/

namespace Sys2Proof.Machine

open Sys2Proof.Safety

theorem State.uncovered_schedule_of_piece {s : State} {c : Cell} {p : PieceNo} (h : (s.cell c).occupant = some (.piece p)) :
    (s.uncovered c).schedule = s.schedule.filter (fun e => decide (¬ (e.piece = p ∧ e.kind = .overstay c))) := by
  unfold State.uncovered
  rw [h]
  refine List.filter_congr fun e _ => ?_
  rw [decide_not, Bool.decide_and, beq_eq_decide, beq_eq_decide]

/-- The uncover of the piece in the open window (R4, R27). -/
theorem exec_uncover_scan {s : State} {p : PieceNo} {x : Window} (hrun : s.run.state.isRunning = true)
    (hcovered : (s.cell .scan).covered = true) (hoccupant : (s.cell .scan).occupant = some (.piece p)) (hx : s.scan.window = some x)
    (hp : x.piece = p) (h : x.count < 1023 ∨ distanceAhead s.position x.openAt ≤ 1023) : exec (.uncover .scan) s =
      .next ((((s.uncovered .scan).lastSet x (distanceAhead s.position x.openAt)).completeClose x
        (distanceAhead s.position x.openAt)).setOccupant .scan none) := by
  have hnot : s.forcedCloseFirst .scan = false := by
    rw [Bool.eq_false_iff]
    simp only [State.forcedCloseFirst, hx, ne_eq, Bool.and_eq_true, decide_eq_true_eq, not_and, not_lt]
    omega
  have hwindow : (s.uncovered .scan).scan.window = some x := by rw [State.uncovered_eq]; exact hx
  have hhand : (s.uncovered .scan).handUncover .scan (some (.piece p)) s.position = (s.uncovered .scan).closeWindow p s.position := by
    rw [State.handUncover]
  rw [exec_uncover hcovered, State.uncoverCell_of_uncovered hrun hnot, hoccupant, hhand, State.closeWindow_of_window hwindow hp]
  rfl

/-- The lists and the drops of a close are those of the state before the cell was uncovered (R27). -/
theorem State.lastSet_scan_uncovered {s : State} {x : Window} (hx : s.scan.window = some x) {w : Nat}
    (hcount : x.count + 1 = w → x.count < 1023) : ((s.uncovered .scan).lastSet x w).scan = (s.lastSet x w).scan := by
  have heq := s.uncovered_eq .scan
  generalize s.uncovered .scan = v at *
  rw [State.lastSet_scan (by rw [heq]; exact hx) hcount, State.lastSet_scan hx hcount]
  rw [heq]

theorem lastDrops_uncovered (s : State) (x : Window) (w : Nat) : lastDrops (s.uncovered .scan) x w = lastDrops s x w := by
  rw [State.uncovered_eq]
  rfl

/-- The close by the SCAN uncover (R27). -/
theorem State.scanUncover_closed {s : State} {p : PieceNo} {r : Record} {x : Window} (hr : s.record? p = some r)
    (hx : s.scan.window = some x) (hp : x.piece = p) {w : Nat} (hcount : x.count + 1 = w → x.count < 1023) :
    WindowClosed (s.uncovered .scan) (((s.uncovered .scan).lastSet x w).completeClose x w) p r
      (windowLists s.plan w (s.lastSet x w).scan.scanners) (lastDrops s x w + closeDrops s.plan w (s.lastSet x w).scan.scanners) := by
  have heq := s.uncovered_eq .scan
  have hscan := State.lastSet_scan_uncovered hx hcount
  have hdrops := lastDrops_uncovered s x w
  generalize s.uncovered .scan = v at *
  have hvx : v.scan.window = some x := by rw [heq]; exact hx
  have hvr : v.record? p = some r := (State.record?_congr (by rw [heq]) p).trans hr
  have hu := State.lastSet_eq hvx hcount
  have htallied := State.lastSet_tallied hvx hcount
  have hrecord := State.lastSet_record? hvx hcount
  have hlength := State.lastSet_length hvx hcount
  have hplan : (v.lastSet x w).plan = s.plan := by rw [hu, heq]
  rw [hdrops] at htallied hrecord
  generalize v.lastSet x w = u at *
  have hur : u.record? x.piece = some { r with flags := { r.flags with runsDropped := r.flags.runsDropped || decide (0 < lastDrops s x w) } } := by
    rw [hrecord, hp, hvr, Option.map_some, if_pos rfl]
  have hclosed := u.completeClose_closed x w hur
  rw [hplan, hscan, hp] at hclosed
  exact WindowClosed.of_dropped r.flags hu htallied (fun q hq => by rw [hrecord, hp]; simp [hq]) hlength hclosed

/-- Settles O23. -/
theorem windowCloseDecides : Obligations.WindowCloseDecides := by
  refine ⟨fun s p x hrun hcovered hoccupant hx hp hcount hbeyond =>
    ⟨_, rfl, State.forceClose_window hx hcount, exec_uncover_after_forceClose hrun hcovered hoccupant hx hp hcount hbeyond⟩,
    ?_, fun s => ⟨fun h => ?_, ?_⟩⟩
  · intro s p r x hrun hcovered hoccupant hr hx hp w hshort scanners lists drops
    have hcount : x.count + 1 = w → x.count < 1023 := by omega
    have hclosed := State.scanUncover_closed hr hx hp hcount
    have hexec : exec (.uncover .scan) s = .next ((((s.uncovered .scan).lastSet x w).completeClose x w).setOccupant .scan none) :=
      exec_uncover_scan hrun hcovered hoccupant hx hp hshort
    have hcell := s.uncovered_cell_same .scan
    have hcell' := fun c => s.uncovered_cell_other (c := .scan) (d := c)
    have hschedule := State.uncovered_schedule_of_piece hoccupant
    have heq := s.uncovered_eq .scan
    have hqueue := s.uncovered_queue .scan
    have hlists : windowLists s.plan w (s.lastSet x w).scan.scanners = lists := rfl
    have hdrops : lastDrops s x w + closeDrops s.plan w (s.lastSet x w).scan.scanners = drops := rfl
    rw [hlists, hdrops] at hclosed
    generalize ((s.uncovered .scan).lastSet x w).completeClose x w = t at *
    generalize s.uncovered .scan = v at *
    have hplan : v.plan = s.plan := by rw [heq]
    have hposition : v.position = s.position := by rw [heq]
    have hpocket : v.pocket = s.pocket := by rw [heq]
    have hprotect : v.protect = s.protect := by rw [heq]
    have htcell : ∀ c, t.cell c = v.cell c := fun c => by rw [State.cell, State.cell, hclosed.cells]
    have hscan : (t.setOccupant .scan none).cell .scan = { s.cell .scan with covered := false, uncoverAt := s.position, occupant := none } := by
      rw [State.setOccupant, State.cell_setCell_same, htcell, hcell]
    obtain ⟨r', d, hr', hphase, hdecision, hjudge, hd, -, hflags, hdone⟩ := hclosed.decided
    rw [hplan, hposition, hpocket] at hjudge
    rw [hprotect] at hflags
    have hkept := hclosed.kept
    have htallied := hclosed.tallied
    have hlast := hclosed.lists
    have hothers := hclosed.others
    obtain ⟨h1, h2, h3, h4, h5⟩ := hclosed.frame
    rw [hprotect] at hkept htallied hlast
    refine ⟨t.setOccupant .scan none, r', d, hexec, hclosed.window, hr', hphase, hdecision, hjudge, hd, fun n hn => ?_, fun h =>
      ⟨hlast h, hflags h, tallied_congr (htallied h) ?_ ?_ hplan.symm rfl rfl⟩, by rw [hscan], by rw [hscan], by rw [hscan], fun c hc => ?_,
      fun q hq hj => ?_, ?_, h1.trans hposition, h2.trans ?_, h3.trans ?_, h4.trans ?_, h5.trans ?_, fun h => ?_⟩
    · refine phaseOneDone_congr (v := v) (t := t) ?_ hqueue rfl (fun _ => rfl) (hdone n hn)
      rw [← hschedule, heq]
    · rw [heq]
    · rw [heq]
    · exact (State.cell_setCell_other _ _ hc).trans ((htcell c).trans (hcell' c hc))
    · refine (hothers q hq ?_).trans ?_
      · rw [heq]
        exact hj
      · exact State.record?_congr (by rw [heq]) q
    · refine hclosed.length.trans ?_
      rw [heq]
    · rw [heq]
    · rw [heq]
    · rw [heq]
    · rw [heq]
    · obtain ⟨hm, hr, hd, hp⟩ := hkept h
      refine ⟨hm.trans ?_, hr.trans ?_, hd.trans ?_, hp⟩ <;> rw [heq]
  · exact congrArg Host.Outcome.next (State.forceClose_of_not_due h)
  · intro x r hx hcount hr lists drops
    have hrecord : (s.updateRecord x.piece (fun r => { r with flags := { r.flags with forcedClose := true } })).record? x.piece =
        some { r with flags := { r.flags with forcedClose := true } } := by
      rw [State.record?_updateRecord_same _ _ (fun r => { r with flags := { r.flags with forcedClose := true } }) (fun _ => rfl), hr]
      rfl
    have hclosed := State.completeClose_closed _ x 1023 hrecord
    have hexec : exec .forcedClose s = .next _ := congrArg Host.Outcome.next (State.forceClose_of_due hx hcount)
    have hlength : (s.updateRecord x.piece (fun r => { r with flags := { r.flags with forcedClose := true } })).records.length =
        s.records.length := List.length_map _
    generalize (s.updateRecord x.piece (fun r => { r with flags := { r.flags with forcedClose := true } })).completeClose x 1023 = t at *
    obtain ⟨r', d, hr', hphase, hdecision, hjudge, hd, hforced, hflags, hdone⟩ := hclosed.decided
    obtain ⟨h1, h2, h3, h4, h5⟩ := hclosed.frame
    exact ⟨t, r', d, hexec, hclosed.window, hr', hforced, hphase, hdecision, hjudge, hd,
      fun n hn => phaseOneDone_congr (t := t) rfl (fun _ => rfl) rfl (fun _ => rfl) (hdone n hn), fun h => ⟨hclosed.lists h, hflags h,
        tallied_congr (hclosed.tallied h) rfl rfl rfl rfl rfl⟩, hclosed.cells, hclosed.length.trans hlength, h1, h2, h3, h4, h5, hclosed.kept⟩

end Sys2Proof.Machine

/-! PROOFS. What the printing of a piece changes (spec/06, R99 to R106). -/

namespace Sys2Proof.Machine

open Sys2Proof.Safety

/-! ## A record that has been printed on -/

/-- Of `r` and `r'`: only the result, the dots, the next-cell fields and the flag PARTIAL have changed. -/
abbrev printedOn (r r' : Record) : Prop :=
  r' = { r with result := r'.result, dots := r'.dots, next := r'.next, flags := { r.flags with incomplete := r'.flags.incomplete } }

theorem printedOn.trans {a b c : Record} (h : printedOn a b) (h' : printedOn b c) : printedOn a c := by
  unfold printedOn at *
  rw [h', h]

/-- Of `s` and `t`: the printer has worked for piece p, and nothing but its outputs, the records and the counters has changed. -/
structure Printed (s t : State) (p : PieceNo) : Prop where
  same : ∀ r, s.record? p = some r → ∃ r', t.record? p = some r' ∧ printedOn r r'
  others : ∀ q, q ≠ p → (∀ j, s.printer.job = some j → j.piece ≠ q) →
    t.record? q = s.record? q ∧ ∀ j, t.printer.job = some j → j.piece ≠ q
  length : t.records.length = s.records.length
  events : t.tally.events = s.tally.events
  frame : t = { s with
    printer := { s.printer with job := t.printer.job, head := t.printer.head }, records := t.records, tally := t.tally, port := t.port }

theorem Printed.refl (s : State) (p : PieceNo) : Printed s s p :=
  ⟨fun r hr => ⟨r, hr, rfl⟩, fun _ _ hj => ⟨rfl, hj⟩, rfl, rfl, rfl⟩

theorem Printed.trans {s t u : State} {p : PieceNo} (h : Printed s t p) (h' : Printed t u p) : Printed s u p where
  same := fun r hr => by
    obtain ⟨r', hr', hprinted⟩ := h.same r hr
    obtain ⟨r'', hr'', hprinted'⟩ := h'.same r' hr'
    exact ⟨r'', hr'', hprinted.trans hprinted'⟩
  others := fun q hq hj => by
    obtain ⟨hrecord, hjob⟩ := h.others q hq hj
    obtain ⟨hrecord', hjob'⟩ := h'.others q hq hjob
    exact ⟨hrecord'.trans hrecord, hjob'⟩
  length := h'.length.trans h.length
  events := h'.events.trans h.events
  frame := by
    have hf := h.frame
    have hf' := h'.frame
    generalize t.printer.job = a at *
    generalize t.printer.head = b at *
    generalize t.records = c at *
    generalize t.tally = d at *
    generalize t.port = e at *
    rw [hf', hf]

/-- A record rewritten by the printer, its job and head set. -/
theorem Printed.of_update {s : State} {m p : PieceNo} {f : Record → Record} {job : Option Impression} {head : Word}
    (hf : ∀ r, printedOn r (f r)) (hm : m = p ∨ s.printer.job.map (·.piece) = some m) (hjob : ∀ j, job = some j → j.piece = p) :
    Printed s { s.updateRecord m f with printer := { s.printer with job := job, head := head } } p := by
  have hnumber : ∀ r, (f r).number = r.number := fun r => by rw [hf r]
  have hrecord := s.record?_updateRecord_number m (f := f) (hf := hnumber)
  exact {
    same := fun r hr => by
      have h := hrecord p
      rw [hr, Option.map_some] at h
      refine ⟨_, (State.record?_congr rfl p).trans h, ?_⟩
      split
      · exact hf r
      · rfl
    others := fun q hq hj => by
      have hne : q ≠ m := by
        rintro rfl
        rcases hm with h | h
        · exact hq h
        · obtain ⟨j, hj', hpiece⟩ := Option.map_eq_some_iff.mp h
          exact hj j hj' hpiece
      refine ⟨(State.record?_congr (t := s.updateRecord m f) rfl q).trans ((hrecord q).trans ?_), fun j hj' => ?_⟩
      · simp [hne]
      · rw [hjob j hj']
        exact hq.symm
    length := State.length_updateRecord _ _ _
    events := rfl
    frame := rfl }

theorem State.endImpressionPartial_printed (s : State) (p : PieceNo) : Printed s s.endImpressionPartial p := by
  unfold State.endImpressionPartial
  cases hjob : s.printer.job with
  | none => exact Printed.refl s p
  | some j => exact Printed.of_update (s := s) (fun _ => rfl) (.inr (by rw [hjob]; rfl)) (by simp)

theorem State.endImpression_printed (s : State) (j : Impression) : Printed s (s.endImpression j) j.piece :=
  Printed.of_update (fun _ => rfl) (.inl rfl) (by simp)

theorem State.countDots_eq (s : State) (n : Nat) :
    s.countDots n = { s with tally := (s.countDots n).tally, port := (s.countDots n).port } := by
  simp only [State.countDots, State.raiseCarry]
  split <;> rfl

theorem State.countDots_printed (s : State) (n : Nat) {p : PieceNo} (hjob : ∀ j, s.printer.job = some j → j.piece = p) :
    Printed s (s.countDots n) p where
  same := fun r hr => ⟨r, (State.record?_congr (by simp) p).trans hr, rfl⟩
  others := fun q hq _ => ⟨State.record?_congr (by simp) q, fun j hj => by rw [hjob j (by simpa using hj)]; exact hq.symm⟩
  length := by simp
  events := by simp [State.countDots]
  frame := by
    rw [State.countDots_eq]

theorem State.fireColumn_printed {s : State} (hjob : s.printer.job = none) (j : Impression) : Printed s (s.fireColumn j) j.piece := by
  have hshown : Printed s (s.columnShown j) j.piece := by
    have h1 : Printed s (({ s with printer := { s.printer with head := s.columnWord j j.next } }).updateRecord j.piece
        (fun r => { r with dots := r.dots + dotsOf (s.columnWord j j.next) })) j.piece := by
      have h := Printed.of_update (s := s) (m := j.piece) (p := j.piece) (job := s.printer.job) (head := s.columnWord j j.next)
        (f := fun r => { r with dots := r.dots + dotsOf (s.columnWord j j.next) }) (fun _ => rfl) (.inl rfl) (by simp [hjob])
      exact h
    exact h1.trans (State.countDots_printed _ _ (by simp [hjob]))
  rw [State.fireColumn_eq]
  split
  · refine hshown.trans ?_
    exact {
      same := fun r hr => ⟨r, hr, rfl⟩
      others := fun q hq _ => ⟨rfl, fun j' hj' => by rw [← Option.some.inj hj']; exact hq.symm⟩
      length := rfl
      events := rfl
      frame := rfl }
  · exact hshown.trans (State.endImpression_printed _ { j with next := j.next + 1 })

/-- A print start changes the printer's outputs, the records and the counters only (R100 to R104). -/
theorem State.startImpression_printed (s : State) (p : PieceNo) (base : Pos) : Printed s (s.startImpression p base) p := by
  have hended := s.endImpressionPartial_printed p
  have hnone : s.endImpressionPartial.printer.job = none := by
    unfold State.endImpressionPartial
    split
    · assumption
    · rfl
  unfold State.startImpression
  simp only
  split
  · exact hended
  · split
    · exact hended
    · split
      · exact hended.trans (State.fireColumn_printed hnone _)
      · exact hended.trans (State.endImpression_printed _ _)

end Sys2Proof.Machine

/-! PROOFS. The cancel plan and the destination of a piece at MERGE (spec/06, R95 to R98; spec/07, R111 to R114). -/

namespace Sys2Proof.Machine

open Sys2Proof.Safety

/-! ## The rules of the plan and the route -/

theorem plannedPolicy_iff (pl : Plan) (r : Record) (c : IndiciumClass) (sp : Span) : plannedPolicy pl r = some (c, sp) ↔
    r.culls = CullSet.none ∧ r.decision.bind (·.cls) = some c ∧ r.decision.bind (·.span) = some sp ∧
      (c = .tag → pl.policyTag ≠ .nothing) ∧ (c = .meter → pl.policyMeter ≠ .nothing) := by
  have hculled : r.isCulled = false ↔ r.culls = CullSet.none := by
    rw [← primary_eq_none_iff, Record.isCulled, Option.isSome_eq_false_iff, Option.isNone_iff_eq_none]
  have hprints : (pl.policy c).printsDie = true ↔ (c = .tag → pl.policyTag ≠ .nothing) ∧ (c = .meter → pl.policyMeter ≠ .nothing) := by
    cases c
    · cases h : pl.policyTag <;> simp [Plan.policy, Policy.printsDie, h]
    · cases h : pl.policyMeter <;> simp [Plan.policy, Policy.printsDie, h]
  rw [← hprints, ← hculled]
  unfold plannedPolicy
  cases hc : r.isCulled with
  | true => simp
  | false =>
    simp only [Bool.false_eq_true, if_false, true_and, Record.cls, Record.span]
    cases hcls : r.decision.bind (·.cls) with
    | none => simp
    | some c' =>
      cases hspan : r.decision.bind (·.span) with
      | none => simp
      | some sp' =>
        by_cases hp : (pl.policy c').printsDie = true
        · simp only [hp, if_true, Option.some.injEq, Prod.mk.injEq]
          constructor
          · rintro ⟨rfl, rfl⟩
            exact ⟨rfl, rfl, hp⟩
          · exact fun h => ⟨h.1, h.2.1⟩
        · simp only [hp, if_false, reduceCtorEq, Option.some.injEq, false_iff]
          rintro ⟨rfl, -, h⟩
          exact hp h

theorem availableLength_eq (pl : Plan) (n : Nat) (sp : Span) : availableLength pl n sp =
    (n : Int) - max 0 ((sp.start : Int) - (pl.killLead : Int)) - (pl.tailMargin : Int) := by
  unfold availableLength startOffset
  omega

theorem routeOf_of_culled (pl : Plan) {r : Record} (h : r.culls ≠ CullSet.none) : routeOf pl r = pl.routeCull := by
  have hculled : r.isCulled = true := by
    rw [Record.isCulled, Option.isSome_iff_ne_none]
    exact mt (primary_eq_none_iff _).mp h
  exact if_pos hculled

theorem routeOf_of_class (pl : Plan) {r : Record} (h : r.culls = CullSet.none) : routeOf pl r = match r.decision.bind (·.cls) with
    | some .tag => pl.routeTag
    | some .meter => pl.routeMeter
    | none => pl.routeCull := by
  have hculled : r.isCulled = false := by
    rw [Record.isCulled, (primary_eq_none_iff _).mpr h]
    rfl
  rw [routeOf, if_neg (by rw [hculled]; decide)]
  rfl

/-! ## The cancel plan (R95 to R98) -/

/-- The killer columns a policy calls for (R97). -/
abbrev killerColumns (s : State) (c : IndiciumClass) : Nat :=
  if s.plan.policy c = .full then (s.printer.banks.get (s.plan.bank c)).length else 0

/-- The die columns of a piece's slot (R97). -/
abbrev dieColumns (s : State) (r : Record) : Nat := (s.printer.slots.get r.slot).columns.length

/-- The plan leaves columns out (R97). -/
def planCuts (s : State) (r : Record) : Bool :=
  match plannedPolicy s.plan r with
  | some (c, sp) => decide (0 < availableLength s.plan r.lengthOrOpen sp ∧
      availableLength s.plan r.lengthOrOpen sp < killerColumns s c + dieColumns s r)
  | none => false

/-- The start offset of the plan, where one is made (R96). -/
def planStart (pl : Plan) (r : Record) : Option Nat :=
  match plannedPolicy pl r with
  | some (_, sp) => if availableLength pl r.lengthOrOpen sp ≤ 0 then none else some (sp.start - pl.killLead)
  | none => none

/-- The PRINT_START of a plan (R98). -/
def printEntries (pl : Plan) (p : PieceNo) (lead : Pos) (start : Option Nat) : List Entry :=
  match start with
  | some k => [⟨.printStart, p, posAdd lead (pl.dCancel - pl.dMerge + k)⟩]
  | none => []

/-- One event counted, or none. -/
def State.countIf (s : State) (b : Bool) (c : EventCounter) : State := if b then s.countEvent c else s

theorem State.countIf_eq (s : State) (b : Bool) (c : EventCounter) :
    s.countIf b c = { s with tally := (s.countIf b c).tally, port := (s.countIf b c).port } := by
  cases b
  · rfl
  · exact s.countEvent_eq c

theorem State.countIf_tallied (s : State) (b : Bool) (c : EventCounter) : tallied s (s.countIf b c) [] (if b then [c] else []) 0 := by
  cases b
  · exact tallied_of_same rfl rfl
  · exact s.countEvent_tallied c

theorem State.countIf_events_same (s : State) (b : Bool) (c : EventCounter) :
    (s.countIf b c).tally.events.get (eventCounterIdx c) = s.tally.events.get (eventCounterIdx c) + BitVec.ofNat 16 b.toNat := by
  cases b
  · exact (BitVec.add_zero _).symm
  · exact s.countEvent_events_same c

theorem State.countIf_events_other (s : State) (b : Bool) {c d : EventCounter} (h : d ≠ c) :
    (s.countIf b c).tally.events.get (eventCounterIdx d) = s.tally.events.get (eventCounterIdx d) := by
  cases b
  · rfl
  · exact s.countEvent_events_other h

/-- Of `s` and `t`: the record of piece p is rewritten by f, events are counted, and nothing else has changed. -/
structure Rewritten (s t : State) (p : PieceNo) (r r' : Record) (counted : Bool) (c : EventCounter) : Prop where
  same : t.record? p = some r'
  others : ∀ q, q ≠ p → t.record? q = s.record? q
  length : t.records.length = s.records.length
  tallied : tallied s t [] (if counted then [c] else []) 0
  counts : t.tally.events.get (eventCounterIdx c) = s.tally.events.get (eventCounterIdx c) + BitVec.ofNat 16 counted.toNat
  leaves : ∀ d, d ≠ c → t.tally.events.get (eventCounterIdx d) = s.tally.events.get (eventCounterIdx d)
  frame : t = { s with records := t.records, router := t.router, tally := t.tally, port := t.port }

/-- A piece's record rewritten, with an event counted or not. -/
theorem State.rewritten {s : State} {p : PieceNo} {r : Record} (h : s.record? p = some r) {f : Record → Record}
    (hf : ∀ r, (f r).number = r.number) (b : Bool) (c : EventCounter) :
    Rewritten s ((s.updateRecord p f).countIf b c) p r (f r) b c := by
  have hrecords : ((s.updateRecord p f).countIf b c).records = (s.updateRecord p f).records := by rw [State.countIf_eq]
  exact {
    same := by rw [State.record?_congr hrecords, State.record?_updateRecord_same _ _ f hf, h]; rfl
    others := fun q hq => by rw [State.record?_congr hrecords, State.record?_updateRecord_other _ f hf hq]
    length := by rw [hrecords, State.length_updateRecord]
    tallied := tallied_congr ((s.updateRecord p f).countIf_tallied b c) rfl rfl rfl rfl rfl
    counts := (s.updateRecord p f).countIf_events_same b c
    leaves := fun d hd => (s.updateRecord p f).countIf_events_other b hd
    frame := by rw [State.countIf_eq]; rfl }

theorem State.updateRecord_updateRecord (s : State) (p : PieceNo) {f g : Record → Record} (hf : ∀ r, (f r).number = r.number) :
    (s.updateRecord p f).updateRecord p g = s.updateRecord p (fun r => g (f r)) := by
  simp only [State.updateRecord, List.map_map]
  congr 2
  funext r
  by_cases h : r.number = p <;> simp [h, hf]

theorem State.updateRecord_raiseCarry (s : State) (wraps masked : Bool) (p : PieceNo) (f : Record → Record) :
    (s.raiseCarry wraps masked).updateRecord p f = (s.updateRecord p f).raiseCarry wraps masked := by
  unfold State.raiseCarry
  cases wraps && !masked <;> rfl

theorem State.updateRecord_countIf (s : State) (b : Bool) (c : EventCounter) (p : PieceNo) (f : Record → Record) :
    (s.countIf b c).updateRecord p f = (s.updateRecord p f).countIf b c := by
  cases b
  · rfl
  · exact State.updateRecord_raiseCarry _ _ _ p f

/-- What a plan rewrites in the record (R95 to R97). -/
def planRewrite (s : State) (r : Record) (x : Record) : Record :=
  { x with
    culls := match plannedPolicy s.plan r with
      | some (_, sp) => if availableLength s.plan r.lengthOrOpen sp ≤ 0 then x.culls.add .noRoom else x.culls
      | none => x.culls
    plan := match plannedPolicy s.plan r with
      | some (c, sp) =>
        if availableLength s.plan r.lengthOrOpen sp ≤ 0 then x.plan
        else some
          { policy := s.plan.policy c, start := sp.start - s.plan.killLead,
            bank := if s.plan.policy c = .full then some (s.plan.bank c) else none,
            killer := min (availableLength s.plan r.lengthOrOpen sp).toNat (killerColumns s c)
            die := min ((availableLength s.plan r.lengthOrOpen sp).toNat - killerColumns s c) (dieColumns s r) }
      | none => x.plan
    flags := { x.flags with truncated := x.flags.truncated || planCuts s r } }

/-- The record once its plan is made, or found to have no room (R95 to R97). -/
abbrev plannedRecord (s : State) (r : Record) : Record := planRewrite s r r

/-- The plan made, or found to have no room, before its PRINT_START (R95 to R97). -/
def State.planned (s : State) (p : PieceNo) (r : Record) : State :=
  (s.updateRecord p (planRewrite s r)).countIf (planCuts s r) .truncated

theorem State.planned_rewritten {s : State} {p : PieceNo} {r : Record} (h : s.record? p = some r) :
    Rewritten s (s.planned p r) p r (plannedRecord s r) (planCuts s r) .truncated :=
  State.rewritten (f := planRewrite s r) h (fun _ => rfl) _ _

/-- The printer's act at the MERGE arrival: the plan, and then its PRINT_START (R95 to R98). -/
theorem State.planImpression_eq {s : State} {p : PieceNo} {r : Record} (h : s.record? p = some r) :
    s.planImpression p = (s.planned p r).insertEach (printEntries s.plan p r.lead (planStart s.plan r)) := by
  unfold State.planImpression
  rw [h]
  cases hplanned : plannedPolicy s.plan r with
  | none =>
    have hsame : planRewrite s r = id := by
      funext x
      simp [planRewrite, planCuts, hplanned]
    have hrecords : s.updateRecord p id = s := by simp [State.updateRecord]
    simp [State.planned, planCuts, planStart, hplanned, hsame, hrecords, printEntries, State.countIf, State.insertEach]
  | some x =>
    obtain ⟨c, sp⟩ := x
    by_cases hroom : availableLength s.plan r.lengthOrOpen sp ≤ 0
    · have hcull : planRewrite s r = fun x => x.cull .noRoom := by
        funext x
        simp [planRewrite, planCuts, hplanned, hroom, Record.cull, Int.not_lt.mpr hroom]
      simp [State.planned, planCuts, planStart, hplanned, hcull, hroom, Int.not_lt.mpr hroom, printEntries, State.countIf, State.insertEach]
    · have hpos : 0 < availableLength s.plan r.lengthOrOpen sp := Int.not_le.mp hroom
      have hcut : planCuts s r = decide ((printedColumns (availableLength s.plan r.lengthOrOpen sp).toNat (killerColumns s c) (dieColumns s r)).1 +
          (printedColumns (availableLength s.plan r.lengthOrOpen sp).toNat (killerColumns s c) (dieColumns s r)).2 <
            killerColumns s c + dieColumns s r) := by
        simp only [planCuts, hplanned, printedColumns]
        refine decide_eq_decide.mpr ?_
        omega
      have hentries : printEntries s.plan p r.lead (planStart s.plan r) =
          [⟨.printStart, p, posAdd r.lead (s.plan.dCancel - s.plan.dMerge + startOffset s.plan sp)⟩] := by
        simp only [planStart, hplanned, if_neg hroom, printEntries, startOffset]
      rw [hentries, State.insertEach, List.foldl_cons, List.foldl_nil, State.planned]
      simp only [hplanned, if_neg hroom]
      unfold killerColumns dieColumns at hcut
      rw [← hcut]
      congr 1
      cases hb : planCuts s r with
      | true =>
        rw [if_pos rfl]
        refine (State.updateRecord_countIf _ true .truncated p _).trans (congrArg (State.countIf · true .truncated)
          ((State.updateRecord_updateRecord _ _ ?_).trans (congrArg (s.updateRecord p) ?_)))
        · exact fun _ => rfl
        · funext x
          simp only [planRewrite, hplanned, if_neg hroom, hb, Bool.or_true]
          rfl
      | false =>
        refine (congrArg (s.updateRecord p) ?_)
        funext x
        simp only [planRewrite, hplanned, if_neg hroom, hb, Bool.or_false]
        rfl

end Sys2Proof.Machine

/-! PROOFS. The route of a piece at MERGE (spec/07, R111 to R114). -/

namespace Sys2Proof.Machine

open Sys2Proof.Safety

/-- The piece goes elsewhere than to its route's primary destination (R112). -/
def State.diverts (s : State) (r : Record) : Bool := s.destFor r != (routeOf s.plan r).primary

/-- What the route rewrites in the record (R112). -/
def routeRewrite (s : State) (r : Record) (x : Record) : Record :=
  { x with destination := some (s.destFor r), flags := { x.flags with diverted := x.flags.diverted || s.diverts r } }

/-- The route chosen, before the stacker's gate entries (R112, R113). -/
def State.routed (s : State) (p : PieceNo) (r : Record) : State :=
  { (s.updateRecord p (routeRewrite s r)).countIf (s.diverts r) .diverted with
    router := { s.router with lastRouted := some (p, s.destFor r) } }

/-- The gate entries of a gated stacker (R114). -/
def stackerEntries (pl : Plan) (p : PieceNo) (lead : Pos) (n : Nat) (d : Dest) : List Entry :=
  match d with
  | .stk k => gateEntries pl (.stk k) p lead (pl.stackerDistance k - pl.dMerge) n
  | .endCatch => []

section
variable {s : State} {p : PieceNo} {r : Record} (h : s.record? p = some r)
include h

theorem State.routed_rewritten : Rewritten s (s.routed p r) p r (routeRewrite s r r) (s.diverts r) .diverted := by
  have hr := State.rewritten (f := routeRewrite s r) h (fun _ => rfl) (s.diverts r) .diverted
  exact {
    same := hr.same
    others := hr.others
    length := hr.length
    tallied := tallied_congr hr.tallied rfl rfl rfl rfl rfl
    counts := hr.counts
    leaves := hr.leaves
    frame := by
      have hf := hr.frame
      unfold State.routed
      generalize (s.updateRecord p (routeRewrite s r)).countIf (s.diverts r) .diverted = t at *
      rw [hf] }

/-- The router's act at the MERGE arrival: the route, and then the stacker's gate (R112 to R114). -/
theorem State.routePiece_eq : s.routePiece p =
    (s.routed p r).insertEach (stackerEntries s.plan p r.lead r.lengthOrOpen (s.destFor r)) := by
  have hdecided : (if s.destFor r = (routeOf s.plan r).primary then s else
      (s.updateRecord p (fun x => { x with flags := { x.flags with diverted := true } })).countEvent .diverted).updateRecord p
        (fun x => { x with destination := some (s.destFor r) }) = (s.updateRecord p (routeRewrite s r)).countIf (s.diverts r) .diverted := by
    by_cases hd : s.destFor r = (routeOf s.plan r).primary
    · have hb : s.diverts r = false := by simp [State.diverts, hd]
      rw [if_pos hd, hb]
      refine congrArg (s.updateRecord p) ?_
      funext x
      simp [routeRewrite, hb]
    · have hb : s.diverts r = true := by simp [State.diverts, hd]
      rw [if_neg hd, hb]
      refine (State.updateRecord_countIf _ true .diverted p _).trans (congrArg (State.countIf · true .diverted)
        ((State.updateRecord_updateRecord _ _ ?_).trans (congrArg (s.updateRecord p) ?_)))
      · exact fun _ => rfl
      · funext x
        simp [routeRewrite, hb]
  have hrouter : (if s.destFor r = (routeOf s.plan r).primary then s else
      (s.updateRecord p (fun x => { x with flags := { x.flags with diverted := true } })).countEvent .diverted).router = s.router := by
    split
    · rfl
    · simp
  have hrouted : ({ (if s.destFor r = (routeOf s.plan r).primary then s else
      (s.updateRecord p (fun x => { x with flags := { x.flags with diverted := true } })).countEvent .diverted) with
        router := { s.router with lastRouted := some (p, s.destFor r) } } : State).updateRecord p
          (fun x => { x with destination := some (s.destFor r) }) = s.routed p r := by
    rw [State.routed, ← hdecided]
    rfl
  have hplan : (s.routed p r).plan = s.plan := by rw [(State.routed_rewritten h).frame]
  simp only [State.routePiece, h]
  rw [hrouter, hrouted, hplan]
  cases s.destFor r with
  | stk k => exact (State.insertGate_eq _ _ _ _ _ _).trans (by rw [hplan]; rfl)
  | endCatch => rfl

end

end Sys2Proof.Machine

/-! PROOFS. The MERGE arrival, stage by stage (spec/06, R95 to R98; spec/07, R111 to R114). -/

namespace Sys2Proof.Machine

open Sys2Proof.Safety

/-! ## What the choice of a destination depends on (R112, R113) -/

theorem destFor_congr {s t : State} {r r' : Record} (hplan : t.plan = s.plan) (hrouter : t.router = s.router)
    (hcoupled : r'.coupledTo = r.coupledTo) (hculls : r'.culls = r.culls) (hdecision : r'.decision = r.decision) :
    t.destFor r' = s.destFor r ∧ routeOf t.plan r' = routeOf s.plan r := by
  have hroute : routeOf t.plan r' = routeOf s.plan r := by simp only [routeOf, Record.isCulled, Record.cls, hplan, hculls, hdecision]; rfl
  have havailable : t.destAvailable = s.destAvailable := by
    funext d
    cases d <;> simp only [State.destAvailable, hrouter]
  refine ⟨?_, hroute⟩
  simp only [State.destFor, State.chooseDest, hroute, havailable, hcoupled, hrouter]

theorem printedOn.destFor {s t : State} {r r' : Record} (h : printedOn r r') (hplan : t.plan = s.plan) (hrouter : t.router = s.router) :
    t.destFor r' = s.destFor r ∧ routeOf t.plan r' = routeOf s.plan r :=
  destFor_congr hplan hrouter (by rw [h]) (by rw [h]) (by rw [h])

/-- A route's rewriting of a record that has been printed on is that of the record before. -/
theorem printedOn.routeRewrite {s t : State} {r r' : Record} (h : printedOn r r') (hplan : t.plan = s.plan) (hrouter : t.router = s.router) :
    printedOn (routeRewrite s r r) (routeRewrite t r' r') := by
  obtain ⟨hdest, hroute⟩ := h.destFor hplan hrouter
  unfold printedOn at *
  simp only [Machine.routeRewrite, State.diverts, hdest, hroute]
  rw [h]

/-! ## The PRINT_START, pending or overdue (R98, R100) -/

/-- A PRINT_START inserted: the printer has worked, or the entry joins the schedule (R58, R98). -/
theorem State.insertEach_prints (s : State) (p : PieceNo) (lead : Pos) (start : Option Nat) :
    ∃ u, Printed s u p ∧ s.insertEach (printEntries s.plan p lead start) =
        { u with schedule := (s.insertEach (printEntries s.plan p lead start)).schedule } ∧
      (s.protect.latch = false → (∀ e ∈ printEntries s.plan p lead start, isAhead e.due s.position = true) → u = s) := by
  cases start with
  | none =>
    have hnone : s.insertEach (printEntries s.plan p lead none) = s := rfl
    rw [hnone]
    exact ⟨s, Printed.refl s p, rfl, fun _ _ => rfl⟩
  | some k =>
    have hone : s.insertEach (printEntries s.plan p lead (some k)) =
        s.insertEntry ⟨.printStart, p, posAdd lead (s.plan.dCancel - s.plan.dMerge + k)⟩ := rfl
    rw [hone]
    have hopen : ∀ l, mergeCloses ⟨.printStart, p, posAdd lead (s.plan.dCancel - s.plan.dMerge + k)⟩ l = l :=
      fun l => mergeCloses_of_not_open _ l (by simp)
    have hin : (⟨.printStart, p, posAdd lead (s.plan.dCancel - s.plan.dMerge + k)⟩ : Entry) ∈ printEntries s.plan p lead (some k) :=
      List.mem_singleton.mpr rfl
    generalize posAdd lead (s.plan.dCancel - s.plan.dMerge + k) = due at *
    cases hlatch : s.protect.latch with
    | true => exact ⟨s, Printed.refl s p, by rw [State.insertEntry_of_latch hlatch], fun h => by cases h⟩
    | false =>
      cases hdue : isAhead due s.position with
      | true => exact ⟨s, Printed.refl s p, by rw [State.insertEntry_of_ahead (e := ⟨.printStart, p, due⟩) hlatch hdue], fun _ _ => rfl⟩
      | false =>
        have hprinted := s.startImpression_printed p due
        have htaken : s.insertEntry ⟨.printStart, p, due⟩ = s.startImpression p due := by
          rw [State.insertEntry_of_overdue (e := ⟨.printStart, p, due⟩) hlatch hdue, hopen]
          rfl
        rw [htaken]
        generalize s.startImpression p due = u at *
        refine ⟨u, hprinted, rfl, fun _ h => ?_⟩
        have := h _ hin
        rw [hdue] at this
        cases this

/-! ## The plan made and the route chosen -/

theorem State.planned_router (s : State) (p : PieceNo) (r : Record) : (s.planned p r).router = s.router := by
  rw [State.planned, State.countIf_eq]
  rfl


/-- Of `s` and `t`: the plan of piece p has been made and its PRINT_START inserted, and its route chosen; `r` is the record it came with
(R95 to R98, R111 to R113). -/
structure Routed (s t : State) (p : PieceNo) (r : Record) : Prop where
  same : ∃ r', t.record? p = some r' ∧ printedOn (routeRewrite s (plannedRecord s r) (plannedRecord s r)) r'
  others : ∀ q, q ≠ p → (∀ j, s.printer.job = some j → j.piece ≠ q) →
    t.record? q = s.record? q ∧ ∀ j, t.printer.job = some j → j.piece ≠ q
  length : t.records.length = s.records.length
  truncated : t.tally.events.get (eventCounterIdx .truncated) =
    s.tally.events.get (eventCounterIdx .truncated) + BitVec.ofNat 16 (planCuts s r).toNat
  diverted : t.tally.events.get (eventCounterIdx .diverted) =
    s.tally.events.get (eventCounterIdx .diverted) + BitVec.ofNat 16 (s.diverts (plannedRecord s r)).toNat
  router : t.router = { s.router with lastRouted := some (p, s.destFor (plannedRecord s r)) }
  frame : t = { s with
    printer := { s.printer with job := t.printer.job, head := t.printer.head }, records := t.records, router := t.router
    schedule := t.schedule, tally := t.tally, port := t.port }
  ahead : s.protect.latch = false → (∀ e ∈ printEntries s.plan p r.lead (planStart s.plan r), isAhead e.due s.position = true) →
    (∀ e, e ∈ t.schedule ↔ e ∈ printEntries s.plan p r.lead (planStart s.plan r) ∨ e ∈ s.schedule) ∧ t.printer = s.printer ∧
    tallied s t [] ((if planCuts s r then [.truncated] else []) ++ (if s.diverts (plannedRecord s r) then [.diverted] else [])) 0

theorem mem_printEntries {pl : Plan} {p : PieceNo} {lead : Pos} {start : Option Nat} {e : Entry} (h : e ∈ printEntries pl p lead start) :
    e.piece = p ∧ e.kind = .printStart := by
  cases start with
  | none => cases h
  | some k => rw [List.mem_singleton.mp h]; exact ⟨rfl, rfl⟩

/-- The printer's and the router's acts at MERGE, but for the stacker's gate (R95 to R98, R111 to R113). -/
theorem State.arrival_routed {s : State} {p : PieceNo} {r : Record} (h : s.record? p = some r) : ∃ t, Routed s t p r ∧
    (s.planImpression p).routePiece p =
      t.insertEach (stackerEntries s.plan p r.lead r.lengthOrOpen (s.destFor (plannedRecord s r))) := by
  have hplanned := State.planned_rewritten h
  have himpression := State.planImpression_eq h
  have harouter := s.planned_router p r
  generalize s.planned p r = a at *
  have haframe := hplanned.frame
  have haplan : a.plan = s.plan := by rw [haframe]
  have haposition : a.position = s.position := by rw [haframe]
  have halatch : a.protect.latch = s.protect.latch := by rw [haframe]
  have haschedule : a.schedule = s.schedule := by rw [haframe]
  have haprinter : a.printer = s.printer := by rw [haframe]
  obtain ⟨u, hprinted, hinsert, hahead⟩ := a.insertEach_prints p r.lead (planStart s.plan r)
  have hmem := State.insertEach_of_ahead (s := a) (p := p) (printEntries s.plan p r.lead (planStart s.plan r))
  rw [haplan] at hinsert hahead
  rw [himpression]
  generalize a.insertEach (printEntries s.plan p r.lead (planStart s.plan r)) = b at *
  have huframe := hprinted.frame
  have hbrecord : ∀ q, b.record? q = u.record? q := fun q => State.record?_congr (by rw [hinsert]) q
  have hbrouter : b.router = s.router := by rw [hinsert, ← harouter, huframe]
  have hbplan : b.plan = s.plan := by rw [hinsert, ← haplan, huframe]
  obtain ⟨rb, hrb, hprintedOn⟩ := hprinted.same _ hplanned.same
  have hrouted := State.routed_rewritten ((hbrecord p).trans hrb)
  have hroute := State.routePiece_eq ((hbrecord p).trans hrb)
  have hrouter : (b.routed p rb).router = { b.router with lastRouted := some (p, b.destFor rb) } := rfl
  obtain ⟨hdest, hprimary⟩ := hprintedOn.destFor (s := s) (t := b) hbplan hbrouter
  have hrewrite := hprintedOn.routeRewrite (s := s) (t := b) hbplan hbrouter
  have hdiverts : b.diverts rb = s.diverts (plannedRecord s r) := by rw [State.diverts, State.diverts, hdest, hprimary]
  have hlead : rb.lead = r.lead := by rw [hprintedOn]; rfl
  have hlength : rb.lengthOrOpen = r.lengthOrOpen := by rw [hprintedOn]; rfl
  rw [hdest, hlead, hlength, hbplan] at hroute
  rw [hdiverts] at hrouted
  rw [hbrouter, hdest] at hrouter
  generalize b.routed p rb = t at *
  have htframe := hrouted.frame
  have hbjob : b.printer = u.printer := by rw [hinsert]
  have hbevents : b.tally.events = a.tally.events := by rw [hinsert]; exact hprinted.events
  refine ⟨t, {
    same := ⟨_, hrouted.same, hrewrite⟩
    others := fun q hq hj => ?_
    length := ?_
    truncated := ?_
    diverted := ?_
    router := hrouter
    frame := ?_
    ahead := fun hlatch hdue => ?_ }, hroute⟩
  · obtain ⟨hother, hjob⟩ := hprinted.others q hq (by rw [haprinter]; exact hj)
    refine ⟨(hrouted.others q hq).trans ((hbrecord q).trans (hother.trans (hplanned.others q hq))), fun j hj' => hjob j ?_⟩
    rw [← hbjob, ← hj', htframe]
  · rw [hrouted.length, ← hplanned.length, ← hprinted.length, hinsert]
  · rw [hrouted.leaves _ (by decide), hbevents, hplanned.counts]
  · rw [hrouted.counts, hbevents, hplanned.leaves _ (by decide)]
  · rw [htframe, hinsert, huframe, haframe]
  · have hua := hahead (by rw [halatch, hlatch]) (by rw [haposition]; exact hdue)
    obtain ⟨hbmem, hb⟩ := hmem (by rw [halatch, hlatch]) (fun e he => (mem_printEntries he).1) (by rw [haposition]; exact hdue)
    have htschedule : t.schedule = b.schedule := by rw [htframe]
    have hbeside : ∀ x, ∀ o ∈ printEntries s.plan p r.lead (planStart s.plan r), standsBeside p o x := fun x o ho g hg => by
      rw [(mem_printEntries ho).2] at hg
      cases hg
    refine ⟨fun e => ?_, ?_, ?_⟩
    · rw [htschedule, hbmem, haschedule]
      exact or_congr_right (and_iff_left (hbeside e))
    · rw [htframe, hb]
      exact haprinter
    · have hba : b.tally = a.tally ∧ b.port = a.port := by rw [hb]; exact ⟨rfl, rfl⟩
      refine tallied_trans hplanned.tallied (tallied_congr hrouted.tallied hba.1.symm hba.2.symm ?_ rfl rfl) haplan
      rw [hbplan, haplan]

end Sys2Proof.Machine

/-! PROOFS. The MERGE cover (spec/01, R8; spec/06, R95 to R98; spec/07, R111 to R114). -/

namespace Sys2Proof.Machine

open Sys2Proof.Safety

/-! ## The stacker's gate (R66, R114) -/

theorem mem_stackerEntries {pl : Plan} {p : PieceNo} {lead : Pos} {n : Nat} {d : Dest} {e : Entry} (h : e ∈ stackerEntries pl p lead n d) :
    e.piece = p ∧ ∃ g, e.kind = .gateOpen g ∨ e.kind = .gateClose g := by
  cases d with
  | stk k => exact ⟨(mem_gateEntries h).1, _, (mem_gateEntries h).2⟩
  | endCatch => cases h

/-- A gate whose open is overdue and whose close is pending stands open (R58, R66). -/
theorem State.insertEach_gate_of_overdue {s : State} (hlatch : s.protect.latch = false) {g : Gate} {p : PieceNo} {o c : Pos}
    (ho : isAhead o s.position = false) (hc : isAhead c s.position = true) :
    (s.insertEach [⟨.gateOpen g, p, o⟩, ⟨.gateClose g, p, c⟩]).gate g = .opened := by
  have hfirst : s.insertEntry ⟨.gateOpen g, p, o⟩ =
      ({ s with schedule := mergeCloses ⟨.gateOpen g, p, o⟩ s.schedule } : State).setGate g .opened :=
    State.insertEntry_of_overdue (e := ⟨.gateOpen g, p, o⟩) hlatch ho
  have hopened : (s.insertEntry ⟨.gateOpen g, p, o⟩).gate g = .opened := by rw [hfirst]; simp [State.gate, State.setGate]
  have hlatch' : (s.insertEntry ⟨.gateOpen g, p, o⟩).protect.latch = false := by rw [hfirst]; exact hlatch
  have hposition : (s.insertEntry ⟨.gateOpen g, p, o⟩).position = s.position := by rw [hfirst]; rfl
  rw [State.insertEach, List.foldl_cons, List.foldl_cons, List.foldl_nil]
  generalize s.insertEntry ⟨.gateOpen g, p, o⟩ = u at *
  rw [State.insertEntry_of_ahead (e := ⟨.gateClose g, p, c⟩) hlatch' (by rw [hposition]; exact hc)]
  exact hopened

/-! ## The arrival (R8, R114) -/

theorem State.mergeArrival_eq {s t : State} {p : PieceNo} {r : Record} (hplan : t.plan = s.plan) (pos : Pos)
    (h : (s.planImpression p).routePiece p =
      t.insertEach (stackerEntries s.plan p r.lead r.lengthOrOpen (s.destFor (plannedRecord s r)))) :
    s.mergeArrival p pos = (t.insertEach (stackerEntries s.plan p r.lead r.lengthOrOpen (s.destFor (plannedRecord s r)))).expect p .cancel
      (posAdd pos (s.plan.dCancel - s.plan.dMerge)) := by
  have hgates := t.insertEach_gates (stackerEntries s.plan p r.lead r.lengthOrOpen (s.destFor (plannedRecord s r)))
    (fun e he => (mem_stackerEntries he).2)
  simp only [State.mergeArrival, h]
  generalize t.insertEach _ = u at *
  have huplan : u.plan = s.plan := by rw [hgates]; exact hplan
  rw [huplan]

/-- The arrival leaves the piece's record as the plan and the route make it, and nothing else of the machine but its trip (R58). -/
theorem Routed.expect {s t : State} {p : PieceNo} {r : Record} (h : Routed s t p r) {l : List Entry}
    (hl : ∀ e ∈ l, ∃ g, e.kind = .gateOpen g ∨ e.kind = .gateClose g) (lead : Pos) :
    (∃ r', ((t.insertEach l).expect p .cancel lead).record? p = some r' ∧
      printedOn (routeRewrite s (plannedRecord s r) (plannedRecord s r)) r') ∧
    (∀ q, q ≠ p → (∀ j, s.printer.job = some j → j.piece ≠ q) → ((t.insertEach l).expect p .cancel lead).record? q = s.record? q) ∧
    ((t.insertEach l).expect p .cancel lead).records.length = s.records.length ∧
    (((t.insertEach l).expect p .cancel lead).protect.latch = s.protect.latch →
      ((t.insertEach l).expect p .cancel lead).gates = (t.insertEach l).gates ∧
      ((t.insertEach l).expect p .cancel lead).mem = s.mem ∧ ((t.insertEach l).expect p .cancel lead).run = s.run ∧
      ((t.insertEach l).expect p .cancel lead).drive = s.drive ∧ ((t.insertEach l).expect p .cancel lead).pocket = s.pocket ∧
      ((t.insertEach l).expect p .cancel lead).scan = s.scan ∧ ((t.insertEach l).expect p .cancel lead).protect = s.protect) := by
  have hu := t.insertEach_gates l hl
  generalize t.insertEach l = u at *
  have hframe := h.frame
  obtain ⟨hkept, hsame, hother, hlength⟩ := u.expect_leaves p .cancel lead
  have hv := u.expecting_onlyPieces p .cancel lead
  have hurecord : ∀ q, u.record? q = t.record? q := fun q => State.record?_congr (by rw [hu]) q
  have hulatch : u.protect.latch = s.protect.latch := by rw [hu, hframe]
  obtain ⟨rt, hrt, hprinted⟩ := h.same
  obtain ⟨r', hr', hcases⟩ := hsame rt ((hurecord p).trans hrt)
  refine ⟨⟨r', hr', hprinted.trans (by rcases hcases with rfl | rfl <;> rfl)⟩, fun q hq hj => ?_, ?_, fun hlatch => ?_⟩
  · obtain ⟨hrecord, hjob⟩ := h.others q hq hj
    refine (hother q hq fun j hj' => hjob j ?_).trans ((hurecord q).trans hrecord)
    rw [← hj', hu]
  · rw [hlength, ← h.length, hu]
  · obtain ⟨m, hm⟩ := hkept (hlatch.trans hulatch.symm)
    rw [hm]
    generalize u.expecting p .cancel lead = v at *
    refine ⟨?_, ?_, ?_, ?_, ?_, ?_, ?_⟩ <;> rw [hv] <;> rw [hu, hframe]

/-- What else the arrival leaves, whatever becomes of its entries. -/
theorem Routed.expect_frame {s t : State} {p : PieceNo} {r : Record} (h : Routed s t p r) {l : List Entry}
    (hl : ∀ e ∈ l, ∃ g, e.kind = .gateOpen g ∨ e.kind = .gateClose g) (lead : Pos) :
    ((t.insertEach l).expect p .cancel lead).cellUnit.cells = s.cellUnit.cells ∧
    ((t.insertEach l).expect p .cancel lead).position = s.position ∧ ((t.insertEach l).expect p .cancel lead).admission = s.admission ∧
    ((t.insertEach l).expect p .cancel lead).reports = s.reports ∧ ((t.insertEach l).expect p .cancel lead).pending = s.pending ∧
    ((t.insertEach l).expect p .cancel lead).router = { s.router with lastRouted := some (p, s.destFor (plannedRecord s r)) } ∧
    ∀ c, c ≠ .trips → ((t.insertEach l).expect p .cancel lead).tally.events.get (eventCounterIdx c) =
      t.tally.events.get (eventCounterIdx c) := by
  have hu := t.insertEach_gates l hl
  generalize t.insertEach l = u at *
  have hframe := h.frame
  have hrouter := h.router
  have hsame : u.cellUnit.cells = s.cellUnit.cells ∧ u.position = s.position ∧ u.admission = s.admission ∧ u.reports = s.reports ∧
      u.pending = s.pending ∧ u.router = t.router := by
    refine ⟨?_, ?_, ?_, ?_, ?_, ?_⟩ <;> rw [hu]
    all_goals rw [hframe]
  obtain ⟨h1, h2, h3, h4, h5, h6⟩ := hsame
  rw [← h1, ← h2, ← h3, ← h4, ← h5, ← hrouter, ← h6]
  refine ⟨by simp, by simp, by simp, by simp, by simp, by simp, fun c hc => ?_⟩
  rw [State.expect_events _ _ _ _ hc, hu]

/-- Of `s` and `t`: only the cells, the records, the schedule, the router and the counters have changed. -/
abbrev onlyArrival (s t : State) : Prop :=
  t = { s with
    cellUnit := t.cellUnit, records := t.records, schedule := t.schedule, router := t.router, tally := t.tally, port := t.port }

/-- Of `s` and `t`: entries of piece p have been inserted ahead of its expectation at a cell, all lying ahead. -/
abbrev expectedWith (s t : State) (p : PieceNo) (l : List Entry) (c : Cell) (lead : Pos) : Prop :=
  scheduled s t p (l ++ [⟨.cellDeadline c, p, posAdd (posAdd lead s.plan.cellTol) 1⟩]) ∧
  (∀ d x, x ∈ t.queue d ↔ (x ∈ s.queue d ∧ x.who ≠ .piece p) ∨ (d = c ∧ x = pieceExpectation s.plan p lead)) ∧
  t.record? p = (s.record? p).map (fun r => { r with next := some ⟨c, posSub lead s.plan.cellTol, posAdd lead s.plan.cellTol⟩ }) ∧
  t = { s with cellUnit := t.cellUnit, records := t.records, schedule := t.schedule }

theorem mem_arrivalEntries (pl : Plan) (p : PieceNo) (q : Pos) (n : Nat) (start : Option Nat) (d : Dest) (e : Entry) :
    e ∈ arrivalEntries pl p q n start d ↔ e = ⟨.overstay .merge, p, posAdd q (n + pl.cellTol)⟩ ∨
      e = ⟨.cellDeadline .cancel, p, posAdd (posAdd (posAdd q (pl.dCancel - pl.dMerge)) pl.cellTol) 1⟩ ∨
      e ∈ printEntries pl p q start ∨ e ∈ stackerEntries pl p q n d := by
  have h : arrivalEntries pl p q n start d = [⟨.overstay .merge, p, posAdd q (n + pl.cellTol)⟩,
      ⟨.cellDeadline .cancel, p, posAdd (posAdd (posAdd q (pl.dCancel - pl.dMerge)) pl.cellTol) 1⟩] ++ printEntries pl p q start ++
        stackerEntries pl p q n d := rfl
  rw [h]
  simp only [List.mem_append, List.mem_cons, List.not_mem_nil, or_false, or_assoc]

/-- A stacker's gate whose open is overdue stands open after the arrival (R66). -/
theorem gate_of_arrivalEntries {s t : State} {p : PieceNo} {q open' close : Pos} {n : Nat} {start : Option Nat} {d : Dest} {g : Gate}
    (hlatch : t.protect.latch = false) (hposition : t.position = s.position)
    (ho : ⟨.gateOpen g, p, open'⟩ ∈ arrivalEntries s.plan p q n start d) (hc : ⟨.gateClose g, p, close⟩ ∈ arrivalEntries s.plan p q n start d)
    (hopen : isAhead open' s.position = false) (hclose : isAhead close s.position = true) :
    (t.insertEach (stackerEntries s.plan p q n d)).gate g = .opened := by
  rw [mem_arrivalEntries] at ho hc
  have hnot : ∀ {k : EntryKind} {x : Pos}, k ≠ .printStart → (⟨k, p, x⟩ : Entry) ∉ printEntries s.plan p q start :=
    fun hk hin => hk (mem_printEntries hin).2
  simp only [Entry.mk.injEq, reduceCtorEq, false_and, false_or, hnot (k := .gateOpen g) (by simp), hnot (k := .gateClose g) (by simp)] at ho hc
  cases d with
  | endCatch => cases ho
  | stk k =>
    simp only [stackerEntries, gateEntries, List.mem_cons, Entry.mk.injEq, reduceCtorEq, false_and, List.not_mem_nil, or_false, false_or,
      EntryKind.gateOpen.injEq, EntryKind.gateClose.injEq, true_and] at ho hc
    obtain ⟨rfl, rfl⟩ := ho
    obtain ⟨-, rfl⟩ := hc
    exact State.insertEach_gate_of_overdue hlatch (by rw [hposition]; exact hopen) (by rw [hposition]; exact hclose)

section
variable {u s t : State} {p : PieceNo} {r : Record} (h : Routed s t p r) (hlatch : s.protect.latch = false) {n : Nat}
  (hschedule : ∀ e, e ∈ s.schedule ↔ (e ∈ u.schedule ∧ ¬ (e.piece = p ∧ ∃ d, e.kind = .cellDeadline d)) ∨
    e = ⟨.overstay .merge, p, posAdd r.lead (n + s.plan.cellTol)⟩)
  {d : Dest} (hahead : ∀ e ∈ arrivalEntries s.plan p r.lead n (planStart s.plan r) d, isAhead e.due s.position = true)
include h hlatch hahead

theorem Routed.insertEach_of_ahead : expectedWith t
    ((t.insertEach (stackerEntries s.plan p r.lead n d)).expect p .cancel (posAdd r.lead (s.plan.dCancel - s.plan.dMerge))) p
    (stackerEntries s.plan p r.lead n d) .cancel (posAdd r.lead (s.plan.dCancel - s.plan.dMerge)) :=
  State.expect_insertEach (s := t) (p := p) (l := stackerEntries s.plan p r.lead n d) (c := .cancel)
    (lead := posAdd r.lead (s.plan.dCancel - s.plan.dMerge)) (by rw [h.frame]; exact hlatch) (fun e he => (mem_stackerEntries he).1)
    (fun e he c => by obtain ⟨-, g, hg | hg⟩ := mem_stackerEntries he <;> simp [hg])
    (fun e he => by
      rw [h.frame]
      exact hahead e ((mem_arrivalEntries _ _ _ _ _ _ _).mpr (.inr (.inr (.inr he)))))
    (by
      rw [h.frame]
      exact hahead ⟨.cellDeadline .cancel, p, posAdd (posAdd (posAdd r.lead (s.plan.dCancel - s.plan.dMerge)) s.plan.cellTol) 1⟩
        ((mem_arrivalEntries _ _ _ _ _ _ _).mpr (.inr (.inl rfl))))

include hschedule in
/-- Where every due lies ahead the arrival's entries join the schedule (R58, R114). -/
theorem Routed.scheduled_of_ahead :
    scheduled u ((t.insertEach (stackerEntries s.plan p r.lead n d)).expect p .cancel (posAdd r.lead (s.plan.dCancel - s.plan.dMerge))) p
      (arrivalEntries s.plan p r.lead n (planStart s.plan r) d) := by
  have hmemNew := mem_arrivalEntries s.plan p r.lead n (planStart s.plan r) d
  obtain ⟨hmem, -⟩ := h.ahead hlatch (fun e he => hahead e ((hmemNew e).mpr (.inr (.inr (.inl he)))))
  obtain ⟨h1, -⟩ := h.insertEach_of_ahead hlatch hahead
  intro e
  have hplan : t.plan = s.plan := by rw [h.frame]
  have hbeside : (∀ o ∈ stackerEntries s.plan p r.lead n d ++
      [⟨.cellDeadline .cancel, p, posAdd (posAdd (posAdd r.lead (s.plan.dCancel - s.plan.dMerge)) s.plan.cellTol) 1⟩], standsBeside p o e) ↔
      ∀ o ∈ arrivalEntries s.plan p r.lead n (planStart s.plan r) d, standsBeside p o e := by
    have hskip : ∀ o : Entry, (∀ g, o.kind ≠ .gateOpen g) → standsBeside p o e := fun o hk g hg => absurd hg (hk g)
    refine ⟨fun hall o ho => ?_, fun hall o ho => hall o ((hmemNew o).mpr ?_)⟩
    · rcases (hmemNew o).mp ho with rfl | rfl | ho | ho
      · exact hskip _ (by simp)
      · exact hskip _ (by simp)
      · exact hskip _ (by simp [(mem_printEntries ho).2])
      · exact hall o (List.mem_append_left _ ho)
    · rcases List.mem_append.mp ho with ho | ho
      · exact .inr (.inr (.inr ho))
      · exact .inr (.inl (List.mem_singleton.mp ho))
  have hown : e.piece = p → ∀ o : Entry, standsBeside p o e := fun he o g _ _ hne => absurd he hne
  rw [h1, hplan, hmem, hschedule, hbeside, List.mem_append, List.mem_singleton]
  constructor
  · rintro ((he | he) | ⟨he | he | he, hnot, hall⟩)
    · exact .inl ((hmemNew e).mpr (.inr (.inr (.inr he))))
    · exact .inl ((hmemNew e).mpr (.inr (.inl he)))
    · exact .inl ((hmemNew e).mpr (.inr (.inr (.inl he))))
    · exact .inr ⟨he.1, hnot, hall⟩
    · exact .inl ((hmemNew e).mpr (.inl he))
  · rintro (he | ⟨he, hnot, hall⟩)
    · rcases (hmemNew e).mp he with he | he | he | he
      · exact .inr ⟨.inr (.inr he), by simp [he], fun o _ => hown (by rw [he]) o⟩
      · exact .inl (.inr he)
      · obtain ⟨hpiece, hkind⟩ := mem_printEntries he
        exact .inr ⟨.inl he, by simp [hkind], fun o _ => hown hpiece o⟩
      · exact .inl (.inl he)
    · exact .inr ⟨.inr (.inl ⟨he, hnot⟩), hnot, hall⟩

/-- Where every due lies ahead the piece is expected at CANCEL, and nothing else of the machine changes (R114). -/
theorem Routed.expected_of_ahead :
    expected s ((t.insertEach (stackerEntries s.plan p r.lead n d)).expect p .cancel (posAdd r.lead (s.plan.dCancel - s.plan.dMerge))) p .cancel
      (posAdd r.lead (s.plan.dCancel - s.plan.dMerge)) ∧
    tallied s ((t.insertEach (stackerEntries s.plan p r.lead n d)).expect p .cancel (posAdd r.lead (s.plan.dCancel - s.plan.dMerge))) []
      ((if planCuts s r then [.truncated] else []) ++ (if s.diverts (plannedRecord s r) then [.diverted] else [])) 0 ∧
    onlyArrival s ((t.insertEach (stackerEntries s.plan p r.lead n d)).expect p .cancel (posAdd r.lead (s.plan.dCancel - s.plan.dMerge))) := by
  obtain ⟨-, hprinter, htallied⟩ := h.ahead hlatch
    (fun e he => hahead e ((mem_arrivalEntries _ _ _ _ _ _ _).mpr (.inr (.inr (.inl he)))))
  obtain ⟨-, hqueue, hrecord, hframe⟩ := h.insertEach_of_ahead hlatch hahead
  obtain ⟨rt, hrt, -⟩ := h.same
  have ht := h.frame
  have hplan : t.plan = s.plan := by rw [ht]
  have htqueue : ∀ d, t.queue d = s.queue d := fun d => by rw [ht]; rfl
  rw [hplan, hrt] at hrecord
  rw [hplan] at hqueue
  generalize (t.insertEach (stackerEntries s.plan p r.lead n d)).expect p .cancel (posAdd r.lead (s.plan.dCancel - s.plan.dMerge)) = v at *
  refine ⟨⟨fun c x => by rw [hqueue, htqueue]; rfl, by rw [hrecord]; rfl⟩, tallied_congr htallied rfl rfl rfl ?_ ?_, ?_⟩
  · rw [hframe]
  · rw [hframe]
  · rw [onlyArrival, hframe, ht, hprinter]

end

end Sys2Proof.Machine

/-! PROOFS. The MERGE cover settled (spec/01, R8; spec/06, R95 to R98; spec/07, R108 to R114). -/

namespace Sys2Proof.Machine

open Sys2Proof.Safety

theorem routeRules (s : State) (r : Record) :
    (∀ c sp, plannedPolicy s.plan r = some (c, sp) ↔ r.culls = CullSet.none ∧ r.decision.bind (·.cls) = some c ∧
      r.decision.bind (·.span) = some sp ∧ (c = .tag → s.plan.policyTag ≠ .nothing) ∧
      (c = .meter → s.plan.policyMeter ≠ .nothing)) ∧
    (∀ n sp, availableLength s.plan n sp =
      (n : Int) - max 0 ((sp.start : Int) - (s.plan.killLead : Int)) - (s.plan.tailMargin : Int)) ∧
    (r.culls ≠ CullSet.none → routeOf s.plan r = s.plan.routeCull) ∧
    (r.culls = CullSet.none → r.decision.bind (·.cls) = some .tag → routeOf s.plan r = s.plan.routeTag) ∧
    (r.culls = CullSet.none → r.decision.bind (·.cls) = some .meter → routeOf s.plan r = s.plan.routeMeter) ∧
    (s.plan.policy .tag = s.plan.policyTag ∧ s.plan.policy .meter = s.plan.policyMeter ∧
      s.plan.bank .tag = s.plan.bankTag ∧ s.plan.bank .meter = s.plan.bankMeter) ∧
    s.destAvailable .endCatch = true ∧
    ∀ k, s.destAvailable (.stk k) = true ↔
      s.router.inService.get (stackerIdx k) = true ∧ s.router.full.get (stackerIdx k) = .inactive := by
  refine ⟨plannedPolicy_iff s.plan r, availableLength_eq s.plan, routeOf_of_culled s.plan, fun h hc => ?_, fun h hc => ?_,
    ⟨rfl, rfl, rfl, rfl⟩, rfl, fun k => ?_⟩
  · rw [routeOf_of_class s.plan h, hc]
  · rw [routeOf_of_class s.plan h, hc]
  · simp [State.destAvailable]

/-- The destination of a piece: that of the piece it is coupled to where that was routed last, else the choice of its route (R112, R113). -/
theorem destFor_rules (s : State) (r : Record) :
    (∀ q, r.coupledTo = some q → ∀ d, s.router.lastRouted = some (q, d) → s.destFor r = d) ∧
    ((∀ q d, r.coupledTo = some q → s.router.lastRouted ≠ some (q, d)) →
      (s.destAvailable (routeOf s.plan r).primary = true → s.destFor r = (routeOf s.plan r).primary) ∧
      (s.destAvailable (routeOf s.plan r).primary = false → s.destAvailable (routeOf s.plan r).alternate = true →
        s.destFor r = (routeOf s.plan r).alternate) ∧
      (s.destAvailable (routeOf s.plan r).primary = false → s.destAvailable (routeOf s.plan r).alternate = false →
        s.destFor r = .endCatch)) := by
  refine ⟨fun q hq d hd => by simp [State.destFor, hq, hd], fun h => ?_⟩
  have hchoose : s.destFor r = s.chooseDest (routeOf s.plan r) := by
    unfold State.destFor
    split
    · next q q' d hq hd => exact if_neg fun e => h q d hq (by rw [hd, e])
    · rfl
  rw [hchoose]
  refine ⟨fun h1 => if_pos h1, fun h1 h2 => ?_, fun h1 h2 => ?_⟩
  · rw [State.chooseDest, h1, h2]; rfl
  · rw [State.chooseDest, h1, h2]; rfl

theorem State.matched_length (s : State) (c : Cell) (pos : Pos) (p : PieceNo) :
    (s.matched c pos p).records.length = s.records.length := by
  simp [State.matched, State.unexpected, State.dropExpectation, State.setQueue, State.coveredAt, State.setOccupant, State.setCell]

/-- Settles O18. -/
theorem mergeCoverRoutes : Obligations.MergeCoverRoutes := by
  refine ⟨routeRules, ?_⟩
  intro s k p r early late rest hrun hlatch hclear hr pos kept hhead hinside hahead room killer die cut
  have hstale : dropStale pos (s.queue .merge) = ⟨.piece p, early, late⟩ :: rest := by
    rw [← hhead]
    exact (State.queue_setQueue_same _ _ _).symm
  have hmatch := s.coverMatched_matched .merge pos p hr
  have hexec := exec_cover_of_tracked hrun hclear (by decide) (by simp) hr hstale hinside
  have hulength := s.matched_length .merge pos p
  obtain ⟨hschedule, hstay⟩ := State.matchedStay_schedule (c := .merge) hlatch hahead p
  generalize s.matched .merge pos p = u at *
  have hexec' : exec (.cover ⟨.merge, k⟩) s = .next (if (s.matchedStay .merge pos p r.length).run.state.isRunning then
        (s.matchedStay .merge pos p r.length).handCover .merge p pos
      else s.matchedStay .merge pos p r.length) := hexec
  clear hexec
  generalize s.matchedStay .merge pos p r.length = w at *
  obtain ⟨hurecord, huother, hucell, hucell', huqueue, huschedule, hu⟩ := id hmatch
  have hw : onlyPieces s w := by rw [onlyPieces, hstay, hu]
  have hwrun : w.run.state.isRunning = true := by rw [onlyPieces_run hw, hrun]
  have hwrecord : ∀ q, w.record? q = u.record? q := fun q => State.record?_congr (by rw [hstay]) q
  have hwplan := onlyPieces_plan hw
  let r0 : Record := { r with phase := .downstream, lead := pos, lastCell := .merge, next := none }
  have hr0 : w.record? p = some r0 := (hwrecord p).trans hurecord
  obtain ⟨t, ht, hact⟩ := State.arrival_routed hr0
  have harrival := State.mergeArrival_eq (t := t) (by rw [ht.frame]) pos hact
  rw [if_pos hwrun] at hexec'
  have hexec : exec (.cover ⟨.merge, k⟩) s = .next (w.mergeArrival p pos) := hexec'
  rw [harrival] at hexec
  clear harrival hact hexec'
  have hcut : planCuts w r0 = cut := by rw [hw]; rfl
  let rq := plannedRecord s r0
  have hplanned : plannedRecord w r0 = rq := by rw [hw]; rfl
  let d := s.destFor rq
  have hdest : w.destFor rq = d := by rw [hw]; rfl
  have hdiverts : w.diverts rq = (d != (routeOf s.plan rq).primary) := by rw [hw]; rfl
  have hrewrite : routeRewrite w rq rq = routeRewrite s rq rq := by rw [hw]; rfl
  have hrouter : w.router = s.router := by rw [hw]
  have htally : w.tally = s.tally := by rw [hw]
  have hport : w.port = s.port := by rw [hw]
  have hjob : w.printer = s.printer := by rw [hw]
  have hlatch' : w.protect.latch = false := by rw [onlyPieces_protect hw, hlatch]
  have hgates : ∀ e ∈ stackerEntries s.plan p pos r0.lengthOrOpen d, ∃ g, e.kind = .gateOpen g ∨ e.kind = .gateClose g :=
    fun e he => (mem_stackerEntries he).2
  obtain ⟨hrecord, hothers, hlength, hkept⟩ := ht.expect hgates (posAdd pos (s.plan.dCancel - s.plan.dMerge))
  obtain ⟨hcells, hposition, hadmission, hreports, hpending, hlast, hevents⟩ :=
    ht.expect_frame hgates (posAdd pos (s.plan.dCancel - s.plan.dMerge))
  have htruncated := ht.truncated
  have hdiverted := ht.diverted
  have htlatch : t.protect.latch = false := by rw [ht.frame]; exact hlatch'
  have htposition : t.position = s.position := by rw [ht.frame]; exact onlyPieces_position (t := w) hw
  have hgate := fun (n : Nat) (g : Gate) (o c : Pos) => gate_of_arrivalEntries (s := s) (t := t) (p := p) (q := pos) (open' := o) (close := c)
    (n := n) (start := planStart s.plan r0) (d := d) (g := g) htlatch htposition
  have hscheduled := fun (n : Nat) => ht.scheduled_of_ahead (u := s) (n := n) (d := d) hlatch'
  have hexpected := fun (n : Nat) => ht.expected_of_ahead (n := n) (d := d) hlatch'
  rw [hplanned, hwplan, hdest] at hexec
  rw [hplanned, hdest, hrouter] at hlast
  rw [hplanned, hdiverts] at hdiverted
  rw [hplanned, hrewrite] at hrecord
  rw [hcut] at htruncated
  simp only [hcut, hplanned, hdiverts, hwplan] at hscheduled hexpected
  obtain ⟨r', hr', hprinted⟩ := hrecord
  have hexec' : exec (.cover ⟨.merge, k⟩) s = .next ((t.insertEach (stackerEntries s.plan p pos r0.lengthOrOpen d)).expect p .cancel
    (posAdd pos (s.plan.dCancel - s.plan.dMerge))) := hexec
  have hroute : routeOf s.plan r' = routeOf s.plan rq :=
    (destFor_congr (s := s) (t := s) (r := rq) (r' := r') rfl rfl (by rw [hprinted]; rfl) (by rw [hprinted]; rfl) (by rw [hprinted]; rfl)).2
  obtain ⟨hcoupled, hchosen⟩ := destFor_rules s rq
  have hcell : ∀ c, ((t.insertEach (stackerEntries s.plan p pos r0.lengthOrOpen d)).expect p .cancel
      (posAdd pos (s.plan.dCancel - s.plan.dMerge))).cell c = u.cell c := fun c => by
    rw [State.cell, hcells, hstay]
    rfl
  refine ⟨_, r', hexec', hr', by rw [hprinted]; rfl, by rw [hprinted]; rfl, by rw [hprinted]; rfl, by rw [hprinted]; rfl, by rw [hprinted]; rfl,
    by rw [hprinted]; rfl, by rw [hprinted]; rfl, ⟨by rw [hprinted]; rfl, ?_⟩, ⟨d, by rw [hprinted]; rfl, hlast, ?_, ?_, ?_, ?_, ?_⟩, ?_, ?_, ?_, ?_,
    ?_, ?_, ?_, ?_, ?_, ?_, ?_⟩
  · rw [hevents _ (by decide), htruncated, htally]
  · exact fun q hq d' hd' => hcoupled q hq d' hd'
  · rw [hroute]
    exact hchosen
  · rw [hroute, hprinted]
    rfl
  · rw [hroute, hevents _ (by decide), hdiverted, htally]
  · intro n hn start new
    have hlen : r0.lengthOrOpen = n := by
      show r.length.getD _ = n
      rw [hn]
      rfl
    have hstart : planStart s.plan r0 = start := rfl
    have hnew : arrivalEntries s.plan p pos n (planStart s.plan r0) d = new := rfl
    rw [hlen] at hkept ⊢
    rw [hroute]
    refine ⟨fun htl g o c ho hc hopen hclose => ?_, fun hall => ?_⟩
    · have hg := (hkept (htl.trans hlatch'.symm)).1
      exact (congrArg (fun v : Vector GateLevel 7 => v.get (gateIdx g)) hg).trans (hgate n g o c ho hc hopen hclose)
    · have hwposition := onlyPieces_position hw
      have hahead' : ∀ e ∈ arrivalEntries s.plan p r0.lead n (planStart s.plan r0) d, isAhead e.due w.position = true := fun e he => by
        rw [hwposition]
        exact hall e he
      have hschedule' : ∀ e, e ∈ w.schedule ↔ (e ∈ s.schedule ∧ ¬ (e.piece = p ∧ ∃ d, e.kind = .cellDeadline d)) ∨
          e = ⟨.overstay .merge, p, posAdd r0.lead (n + s.plan.cellTol)⟩ := fun e => by
        rw [hschedule, huschedule, hn]
        exact or_congr_right (and_iff_right (by decide))
      obtain ⟨⟨hqueue, hnext⟩, htallied, honly⟩ := hexpected n hahead'
      have hcounted : (if (d != (routeOf s.plan rq).primary) = true then [EventCounter.diverted] else []) =
          if d = (routeOf s.plan rq).primary then [] else [.diverted] := by
        by_cases h : d = (routeOf s.plan rq).primary <;> simp [h]
      rw [hcounted] at htallied
      refine ⟨hscheduled n hschedule' hahead', ⟨fun c x => (hqueue c x).trans (or_congr ?_ (by rw [hwplan]; rfl)), ?_⟩,
        tallied_congr htallied htally.symm hport.symm hwplan.symm rfl rfl, ?_⟩
      · have hwqueue : w.queue c = u.queue c := by rw [hstay]; rfl
        have hkeptQueue : kept.queue c = if c = .merge then dropStale pos (s.queue .merge) else s.queue c := by
          by_cases hc : c = .merge
          · subst hc
            rw [if_pos rfl]
            exact State.queue_setQueue_same _ _ _
          · rw [if_neg hc]
            exact State.queue_setQueue_other _ _ hc
        rw [hwqueue, huqueue, hkeptQueue]
        simp
      · rw [hwplan] at hnext
        exact hnext
      · refine honly.trans ?_
        rw [hw]
  · exact (congrArg CellState.occupant (hcell .merge)).trans (by rw [hucell])
  · exact (congrArg CellState.covered (hcell .merge)).trans (by rw [hucell])
  · exact (congrArg CellState.coverAt (hcell .merge)).trans (by rw [hucell])
  · exact fun c hc => (hcell c).trans (hucell' c hc)
  · exact fun q hq hj => (hothers q hq (by rw [hjob]; exact hj)).trans ((hwrecord q).trans (huother q hq))
  · rw [hlength, hstay, ← hulength]
  · rw [hposition, onlyPieces_position hw]
  · rw [hadmission, hw]
  · rw [hreports, hw]
  · rw [hpending, hw]
  · intro htl
    obtain ⟨-, hmem, hrun', hdrive, hpocket, hscan, hprotect⟩ := hkept (htl.trans hlatch'.symm)
    rw [hmem, hrun', hdrive, hpocket, hscan, hprotect, hw]
    exact ⟨rfl, rfl, rfl, rfl, rfl, rfl⟩

end Sys2Proof.Machine

/-! PROOFS. The checks of the plan area (spec/11, R174, section 11.7). -/

namespace Sys2Proof.Machine

open Sys2Proof.Safety

/-! ## The first check that fails -/

theorem firstFailing_eq_none_iff (l : List Bool) : firstFailing l = none ↔ ∀ (i : Nat) (b : Bool), l[i]? = some b → b = true := by
  rw [firstFailing, Option.map_eq_none_iff, List.findIdx?_eq_none_iff]
  constructor
  · exact fun h i b hb => by simpa using h b (List.mem_of_getElem? hb)
  · intro h b hb
    obtain ⟨i, hi⟩ := List.mem_iff_getElem?.mp hb
    simpa using h i b hi

theorem firstFailing_eq_some_iff (l : List Bool) (n : Nat) :
    firstFailing l = some n ↔ ∃ i, n = i + 1 ∧ l[i]? = some false ∧ ∀ j, j < i → l[j]? = some true := by
  rw [firstFailing, Option.map_eq_some_iff]
  constructor
  · rintro ⟨i, hi, rfl⟩
    obtain ⟨hlt, hfails, hbefore⟩ := List.findIdx?_eq_some_iff_getElem.mp hi
    refine ⟨i, rfl, ?_, fun j hj => ?_⟩
    · rw [List.getElem?_eq_getElem hlt]
      simpa using hfails
    · rw [List.getElem?_eq_getElem (hj.trans hlt)]
      simpa using hbefore j hj
  · rintro ⟨i, rfl, hfails, hbefore⟩
    obtain ⟨hlt, hget⟩ := List.getElem?_eq_some_iff.mp hfails
    refine ⟨i, List.findIdx?_eq_some_iff_getElem.mpr ⟨hlt, by simp [hget], fun j hj => ?_⟩, rfl⟩
    have := hbefore j hj
    rw [List.getElem?_eq_getElem (hj.trans hlt)] at this
    simpa using this

/-! ## The rows of the table -/

theorem rising_iff (l : List Nat) : rising l = true ↔ l.Pairwise (· < ·) := by
  rw [← List.isChain_iff_pairwise]
  induction l with
  | nil => simp [rising]
  | cons x l ih =>
    cases l with
    | nil => simp [rising]
    | cons y l => rw [rising, Bool.and_eq_true, decide_eq_true_iff, ih, List.isChain_cons_cons]

theorem inRange_iff (lo hi x : Nat) : inRange lo hi x = true ↔ lo ≤ x ∧ x ≤ hi := by
  simp [inRange]

theorem planChecks_length (l : List Nat) : (planChecks l).length = 38 := rfl

/-- Each check is the row of the table with its number (R174). -/
theorem planRow_iff (l : List Nat) (i : Nat) (h : i < 38) :
    (planChecks l)[i]? = some true ↔ planRow (fun o => l.getD (o / 4) 0) (i + 1) := by
  interval_cases i
  all_goals simp only [planChecks, planRow, List.getElem?_cons_zero, List.getElem?_cons_succ, Option.some.injEq, Bool.and_eq_true, inRange_iff,
    rising_iff, decide_eq_true_iff, List.all_cons, List.all_nil, stationWords, List.map_cons, List.map_nil, List.forall_mem_cons, and_true,
    List.not_mem_nil, false_implies, implies_true]
  all_goals simp only [planWord, Nat.reduceDiv]
  -- What is left: the run lengths of rows 15 and 16, the length bins of row 33 and the clearance of row 38.
  · exact and_assoc
  · exact and_assoc
  · rw [← List.isChain_iff_pairwise]
    simp only [List.isChain_cons_cons, List.isChain_singleton, and_true]
  · omega

theorem planPasses_iff (l : List Nat) :
    firstFailing (planChecks l) = none ↔ planPasses (fun o => l.getD (o / 4) 0) := by
  rw [firstFailing_eq_none_iff]
  constructor
  · intro h n hlow hhigh
    obtain ⟨i, rfl⟩ : ∃ i, n = i + 1 := ⟨n - 1, by omega⟩
    have hi : i < (planChecks l).length := by rw [planChecks_length]; omega
    have hget := List.getElem?_eq_getElem hi
    rw [← planRow_iff l i (by omega), hget, h i _ hget]
  · intro h i b hb
    have hi : i < 38 := by
      rw [← planChecks_length l]
      exact (List.getElem?_eq_some_iff.mp hb).1
    have hrow := (planRow_iff l i hi).mpr (h (i + 1) (by omega) (by omega))
    rw [hb] at hrow
    exact Option.some.inj hrow

theorem planFailsAt_iff (l : List Nat) (n : Nat) :
    firstFailing (planChecks l) = some n ↔ planFailsAt (fun o => l.getD (o / 4) 0) n := by
  rw [firstFailing_eq_some_iff]
  constructor
  · rintro ⟨i, rfl, hfails, hbefore⟩
    have hi : i < 38 := by
      rw [← planChecks_length l]
      exact (List.getElem?_eq_some_iff.mp hfails).1
    refine ⟨by omega, by omega, ?_, fun m hlow hm => ?_⟩
    · rw [← planRow_iff l i hi, hfails]
      simp
    · obtain ⟨j, rfl⟩ : ∃ j, m = j + 1 := ⟨m - 1, by omega⟩
      exact (planRow_iff l j (by omega)).mp (hbefore j (by omega))
  · rintro ⟨hlow, hhigh, hfails, hbefore⟩
    obtain ⟨i, rfl⟩ : ∃ i, n = i + 1 := ⟨n - 1, by omega⟩
    have hi : i < (planChecks l).length := by rw [planChecks_length]; omega
    refine ⟨i, rfl, ?_, fun j hj => (planRow_iff l j (by omega)).mpr (hbefore (j + 1) (by omega) (by omega))⟩
    rw [← planRow_iff l i (by omega), List.getElem?_eq_getElem hi] at hfails
    rw [List.getElem?_eq_getElem hi]
    simpa using hfails

/-! ## The fields of a plan that passes -/

theorem policyCode_policyOfCode {n : Nat} (h : n ≤ 2) : (policyCode (policyOfCode n)).toNat = n := by
  interval_cases n <;> rfl

theorem destCode_destOfCode {n : Nat} (hlow : 1 ≤ n) (hhigh : n ≤ 6) : (optDestCode (some (destOfCode n))).toNat = n := by
  interval_cases n <;> rfl

theorem val_ofNat_four {n : Nat} (h : n ≤ 3) : (Fin.ofNat 4 n).val = n := Nat.mod_eq_of_lt (by omega)

/-- A copy that passes gives each field the value in its row (R174, section 11.7). -/
theorem holdsPlan_planOfWords {l : List Nat} (h : planPasses (fun o => l.getD (o / 4) 0)) :
    holdsPlan (fun o => l.getD (o / 4) 0) (planOfWords l) := by
  have hpolicy := h 18 (by decide) (by decide)
  have hbank := h 19 (by decide) (by decide)
  have hroute := h 22 (by decide) (by decide)
  simp only [planRow, List.forall_mem_cons, List.not_mem_nil, false_implies, implies_true, and_true] at hpolicy hbank hroute
  obtain ⟨⟨-, htag⟩, -, hmeter⟩ := hpolicy
  obtain ⟨⟨-, hbtag⟩, -, hbmeter⟩ := hbank
  obtain ⟨⟨h1, h1'⟩, ⟨h2, h2'⟩, ⟨h3, h3'⟩, ⟨h4, h4'⟩, ⟨h5, h5'⟩, h6, h6'⟩ := hroute
  exact ⟨⟨rfl, rfl, rfl, rfl, rfl, rfl, rfl, rfl, rfl, rfl, rfl, rfl, rfl⟩, ⟨rfl, rfl, rfl, rfl, rfl, rfl, rfl, rfl, rfl⟩,
    ⟨rfl, rfl, rfl, rfl, rfl, rfl, rfl, rfl⟩,
    ⟨policyCode_policyOfCode htag, policyCode_policyOfCode hmeter, val_ofNat_four hbtag, val_ofNat_four hbmeter, rfl, rfl⟩,
    ⟨⟨destCode_destOfCode h1 h1', destCode_destOfCode h2 h2'⟩, ⟨destCode_destOfCode h3 h3', destCode_destOfCode h4 h4'⟩,
      destCode_destOfCode h5 h5', destCode_destOfCode h6 h6'⟩,
    ⟨rfl, rfl, rfl, rfl, rfl, rfl, rfl, rfl⟩, ⟨rfl, rfl⟩, ⟨rfl, rfl, rfl, rfl⟩, ⟨rfl, rfl, rfl⟩, rfl⟩

end Sys2Proof.Machine

/-! PROOFS. The ranges of a plan that passes, and LOAD PLAN (spec/11, R174; spec/08, R124). -/

namespace Sys2Proof.Machine

open Sys2Proof.Safety

/-! ## The ranges of a plan that passes -/

/-- Settles O44: a check passes exactly when its row does, and each range below is a row of the table, read through the fields. -/
theorem passingPlanIsUsable : Obligations.PassingPlanIsUsable := by
  refine ⟨fun l => ⟨planPasses_iff l, planFailsAt_iff l, holdsPlan_planOfWords⟩, ?_⟩
  intro f pl h hholds within
  obtain ⟨⟨e1, e2, e3, e4, e5, e6, e7, e8, e9, e10, e11, e12, e13⟩, ⟨e14, e15, e16, e17, e18, e19, e20, e21, e22⟩,
    ⟨e23, e24, e25, e26, e27, e28, e29, e30⟩, ⟨-, -, -, -, e31, e32⟩, -, ⟨e33, e34, e35, e36, e37, e38, e39, e40⟩, ⟨-, e41⟩,
    ⟨e42, e43, e44, e45⟩, -, e46⟩ := hholds
  have hend := h 1 (by decide) (by decide)
  have hstations := h 2 (by decide) (by decide)
  simp only [planRow, List.map_cons, List.map_nil, ← List.isChain_iff_pairwise, List.isChain_cons_cons, List.isChain_singleton, and_true,
    List.forall_mem_cons, List.not_mem_nil, false_implies, implies_true] at hend hstations
  obtain ⟨s1, s2, s3, s4, s5, s6, s7, s8, s9, s10⟩ := hstations
  have hrow : ∀ n, 3 ≤ n → n ≤ 38 → planRow f n := fun n hlow hhigh => h n (by omega) hhigh
  have c33 := hrow 33 (by decide) (by decide)
  simp only [planRow, List.forall_mem_cons, List.not_mem_nil, false_implies, implies_true, and_true] at c33
  obtain ⟨⟨⟨b1, -⟩, -, -, -, b2⟩, b3, b4, b5⟩ := c33
  have c3 : f 0x08 < f 0x0C ∧ f 0x0C ≤ 16000 := hrow 3 (by decide) (by decide)
  have c8 : (0 ≤ f 0x40 ∧ f 0x40 ≤ 200) ∧ 0 ≤ f 0x44 ∧ f 0x44 ≤ 200 := hrow 8 (by decide) (by decide)
  have c14 : f 0x5C ≤ f 0x60 ∧ f 0x60 < f 0x58 := hrow 14 (by decide) (by decide)
  have c15 : (1 ≤ f 0x64 ∧ f 0x64 ≤ 1023) ∧ (1 ≤ f 0x68 ∧ f 0x68 ≤ 1023) ∧ f 0x64 ≤ f 0x68 := hrow 15 (by decide) (by decide)
  have c16 : (1 ≤ f 0x6C ∧ f 0x6C ≤ 1023) ∧ (1 ≤ f 0x70 ∧ f 0x70 ≤ 1023) ∧ f 0x6C ≤ f 0x70 := hrow 16 (by decide) (by decide)
  have c5 : 100 ≤ f 0x34 ∧ f 0x34 ≤ 400 := hrow 5 (by decide) (by decide)
  have c6 : f 0x34 + 1 ≤ f 0x38 ∧ f 0x38 ≤ 800 := hrow 6 (by decide) (by decide)
  have c10 : 1 ≤ f 0x4C ∧ f 0x4C ≤ 255 := hrow 10 (by decide) (by decide)
  have c11 : 1 ≤ f 0x50 ∧ f 0x50 ≤ f 0x4C := hrow 11 (by decide) (by decide)
  have c13 : 1 ≤ f 0x58 ∧ f 0x58 ≤ 255 := hrow 13 (by decide) (by decide)
  have c26 : 64 ≤ f 0xB4 ∧ f 0xB4 ≤ 1023 := hrow 26 (by decide) (by decide)
  have c27 : 1 ≤ f 0xB8 ∧ f 0xB8 ≤ f 0xB4 := hrow 27 (by decide) (by decide)
  have c28 : 1 ≤ f 0xBC ∧ f 0xBC ≤ 64 := hrow 28 (by decide) (by decide)
  have c30 : 50 ≤ f 0xC4 ∧ f 0xC4 ≤ 1000 := hrow 30 (by decide) (by decide)
  have c38 : f 0x34 + f 0x40 + f 0x00 ≤ f 0x04 := hrow 38 (by decide) (by decide)
  simp only [within, e1, e2, e3, e4, e5, e6, e7, e8, e9, e10, e11, e12, e13, e14, e15, e16, e17, e18, e19, e20, e21, e22, e23, e24, e25, e26,
    e27, e28, e29, e30, e31, e32, e33, e34, e35, e36, e37, e38, e39, e40, e41, e42, e43, e44, e45, e46]
  exact ⟨s1, s2, s3, s4, s5, s6, s7, s8, s9, s10, hend.2.2.2.2.2.2.2.2.2.2.2, c3.1, c3.2, hrow 35 (by decide) (by decide),
    hrow 36 (by decide) (by decide), hrow 37 (by decide) (by decide), c38, c5.1, c5.2, c6.1, c6.2, c11.1, c11.2, c10.2, c14.1, c14.2,
    c13.2, c27.1, c27.2, c26.1, c26.2, c28.1, c28.2, b1, b3, b4, b5, b2, c30.1, c30.2, hrow 12 (by decide) (by decide),
    hrow 17 (by decide) (by decide), hrow 25 (by decide) (by decide), hrow 9 (by decide) (by decide), hrow 4 (by decide) (by decide),
    hrow 7 (by decide) (by decide), c8.1.2, c8.2.2, c15.1.1, c15.2.2, c15.2.1.2, c16.1.1, c16.2.2, c16.2.1.2,
    (hrow 20 (by decide) (by decide)).2, (hrow 21 (by decide) (by decide)).2, hrow 23 (by decide) (by decide),
    hrow 24 (by decide) (by decide), hrow 29 (by decide) (by decide), (hrow 32 (by decide) (by decide)).2,
    hrow 34 (by decide) (by decide)⟩


/-! ## LOAD PLAN (R174, R124) -/

/-- The rows of a copied plan area are those of the area it is copied from. -/
theorem planRow_of_words (f : Nat → Nat) (n : Nat) :
    planRow (fun o => ((List.range 58).map fun i => f (4 * i)).getD (o / 4) 0) n ↔ planRow f n := by
  rcases Nat.lt_or_ge n 39 with h | h
  · interval_cases n
    all_goals simp only [planRow, List.forall_mem_cons, List.not_mem_nil, false_implies, implies_true, and_true]
    all_goals exact Iff.rfl
  · rw [planRow.eq_39, planRow.eq_39]
    all_goals omega

theorem holdsPlan_of_words {f : Nat → Nat} {pl : Plan}
    (h : holdsPlan (fun o => ((List.range 58).map fun i => f (4 * i)).getD (o / 4) 0) pl) : holdsPlan f pl := h

/-- TAKEN is written below the plan area's end only in the request cells. -/
theorem State.planWords_takeCell (s : State) (cell : Fin 8) : (s.takeCell cell).planWords = s.planWords := by
  refine List.map_congr_left fun i hi => ?_
  have hlt : i < 58 := List.mem_range.mp hi
  have hcell := cell.isLt
  exact congrArg BitVec.toNat (State.pageWord_storeWord_other _ _ (wordsApart_of_offsets _ (by omega)
    (by unfold requestOffset; omega) (.inl (by unfold requestOffset; omega))))

/-- The first check that fails, by the rows of the plan area. -/
theorem State.planFailsAt_iff (s : State) (n : Nat) :
    firstFailing (planChecks s.planWords) = some n ↔ planFailsAt (fun o => (s.pageWord o).toNat) n := by
  have hrow := planRow_of_words fun o => (s.pageWord o).toNat
  rw [Machine.planFailsAt_iff]
  simp only [planFailsAt, State.planWords, hrow]

theorem State.planPasses_iff (s : State) :
    firstFailing (planChecks s.planWords) = none ↔ planPasses fun o => (s.pageWord o).toNat := by
  have hrow := planRow_of_words fun o => (s.pageWord o).toNat
  rw [Machine.planPasses_iff]
  simp only [planPasses, State.planWords, hrow]


/-- The drive after still detection is measured against a new STILL_TIME in IDLE (R124). -/
def State.driveRemeasured (s : State) (period : Nat) : Drive :=
  if s.lastStep + period ≤ s.now then { s.drive with still := true, stillTimer := none }
  else { s.drive with stillTimer := some (s.lastStep + period) }

/-- In IDLE with the latch clear a still belt ends no stop and has no jam record written. -/
theorem State.remeasureStill_of_idle {s : State} (hrun : s.run.state = .idle) (hlatch : s.protect.latch = false) :
    s.remeasureStill = { s with drive := s.driveRemeasured s.stillPeriod } := by
  unfold State.remeasureStill State.driveRemeasured
  split
  · rw [State.beStill, State.stoppingTest, if_neg (by simp [hrun]), State.writeRecordIfDue_of_not_due (by simp [jamRecordDue, hlatch])]
  · rfl

/-- The plan area taken as the working plan (R174). -/
def State.withPlan (s : State) (pl : Plan) : State := { s with plan := pl, planValid := true }

section
variable {s : State} (hrun : s.run.state = .idle) (cell : Fin 8) (tag : Word)
include hrun

theorem State.decideLoadPlan_of_fails {n : Nat} (h : firstFailing (planChecks s.planWords) = some n) :
    s.decideLoadPlan cell tag = s.completeRequest cell tag .planInvalid (countWord n) := by
  rw [State.decideLoadPlan, if_neg (not_not.mpr hrun), h]

theorem State.decideLoadPlan_of_passes (h : firstFailing (planChecks s.planWords) = none) :
    s.decideLoadPlan cell tag = ((s.withPlan (planOfWords s.planWords)).completeRequest cell tag .ok 0).remeasureStill := by
  rw [State.decideLoadPlan, if_neg (not_not.mpr hrun), h]
  rfl

end

/-- Settles O43: the checks are made on the area as the TAKEN cell leaves it, which is as it was. -/
theorem loadPlanChecks : Obligations.LoadPlanChecks := by
  intro s cell tag hwf htake hrun hlatch f
  have hexec := exec_loadPlan s cell tag
  have hwords := s.planWords_takeCell cell
  refine ⟨fun n h => ?_, fun h => ⟨_, hexec, ?_⟩⟩
  · have hfails : firstFailing (planChecks (s.takeCell cell).planWords) = some n := by rw [hwords, s.planFailsAt_iff]; exact h
    exact exec_answered hwf htake hexec (State.decideLoadPlan_of_fails (s := s.takeCell cell) hrun cell tag hfails)
  · have hpasses : firstFailing (planChecks s.planWords) = none := s.planPasses_iff.mpr h
    rw [State.onRequest_of_canTake htake, State.decideLoadPlan_of_passes (s := s.takeCell cell) hrun cell tag (hwords ▸ hpasses), hwords]
    have hplan : holdsPlan f (planOfWords s.planWords) :=
      holdsPlan_of_words (holdsPlan_planOfWords ((Machine.planPasses_iff _).mp hpasses))
    have hanswered := answered_completeRequest (u := (s.takeCell cell).withPlan (planOfWords s.planWords)) hwf rfl rfl tag .ok 0
    generalize planOfWords s.planWords = pl at hplan hanswered ⊢
    have hframe := State.completeRequest_eq ((s.takeCell cell).withPlan pl) cell tag .ok 0
    generalize ((s.takeCell cell).withPlan pl).completeRequest cell tag .ok 0 = u at hanswered hframe ⊢
    rw [State.remeasureStill_of_idle (by rw [hframe]; exact hrun) (by rw [hframe]; exact hlatch)]
    have hperiod : u.stillPeriod = f 0xC4 := by rw [hframe]; exact hplan.2.2.2.2.2.1.2.2.2.2.2.2.2
    refine ⟨hanswered, ?_, ?_, ?_⟩
    · rw [hframe]; exact hplan
    · rw [hperiod, hframe]
      rfl
    · rw [hperiod, hframe]
      rfl

end Sys2Proof.Machine

/-! PROOFS. START (spec/08, R93, R121, R126). -/

namespace Sys2Proof.Machine

open Sys2Proof.Safety

/-- A request taken leaves its cell TAKEN and no other byte changed (R172). -/
theorem taken_takeCell {s : State} (hwf : s.mem.wf = true) (cell : Fin 8) : taken s (s.takeCell cell) cell :=
  ⟨Memory.readWord_writeWord_same hwf _ _, fun _ ha => Memory.read_writeWord_other _ _ _ ha, rfl⟩

theorem Policy.printsDie_iff (p : Policy) : p.printsDie = true ↔ p ≠ .nothing := by
  cases p <;> simp [Policy.printsDie]

theorem State.imagesReady_iff (s : State) :
    s.imagesReady = true ↔
      ((s.plan.policyTag ≠ .nothing ∨ s.plan.policyMeter ≠ .nothing) →
          (s.printer.slots.get (s.printer.waiting.getD s.printer.active)).columns ≠ []) ∧
        (s.plan.policyTag = .full → s.printer.banks.get s.plan.bankTag ≠ []) ∧
        (s.plan.policyMeter = .full → s.printer.banks.get s.plan.bankMeter ≠ []) := by
  simp only [State.imagesReady, ← Policy.printsDie_iff]
  simp only [Bool.and_eq_true, Bool.or_eq_true, Bool.not_eq_true', bne_iff_ne, List.isEmpty_eq_false_iff, ne_eq, imp_iff_not_or,
    Bool.or_eq_false_iff, not_or, Bool.not_eq_true, and_assoc]

section
variable {s : State} (cell : Fin 8) (tag : Word)

theorem State.decideStart_of_invalid (hrun : s.run.state = .idle) (h : s.planValid = false) :
    s.decideStart cell tag = s.completeRequest cell tag .planInvalid 0 := by
  rw [State.decideStart, if_neg (not_not.mpr hrun), if_pos (by simp [h])]

theorem State.decideStart_of_not_ready (hrun : s.run.state = .idle) (h : s.planValid = true) (hready : s.imagesReady = false) :
    s.decideStart cell tag = s.completeRequest cell tag .notReady 0 := by
  rw [State.decideStart, if_neg (not_not.mpr hrun), if_neg (by simp [h]), if_pos (by simp [hready])]

theorem State.decideStart_of_open (hrun : s.run.state = .idle) (h : s.planValid = true) (hready : s.imagesReady = true)
    (hguard : s.protect.guardIsOpen = true) : s.decideStart cell tag = s.completeRequest cell tag .guardOpen 0 := by
  rw [State.decideStart, if_neg (not_not.mpr hrun), if_neg (by simp [h]), if_neg (by simp [hready]), if_pos hguard]

/-- A START that no check refuses, its target not yet reached (R126). -/
theorem State.decideStart_of_accepted (hrun : s.run.state = .idle) (h : s.planValid = true) (hready : s.imagesReady = true)
    (hguard : s.protect.guardIsOpen = false) (hcode : s.drive.code ≠ s.plan.runCode) :
    s.decideStart cell tag =
      { s with
        run := ((s.makePending .start cell tag).setRunState .starting).run
        admission := { s.admission with prevTrail := none, prevPiece := none }
        drive := { s.drive with
          target := s.plan.runCode, rampTimer := some (s.drive.rampTimer.getD (s.now + s.plan.rampTick)) } } := by
  rw [State.decideStart, if_neg (not_not.mpr hrun), if_neg (by simp [h]), if_neg (by simp [hready]), if_neg (by simp [hguard])]
  have hpending : (s.makePending .start cell tag).drive = s.drive ∧ (s.makePending .start cell tag).plan = s.plan := ⟨rfl, rfl⟩
  simp only [State.acceptStart, State.setTarget, State.setRunState_drive, State.setRunState_plan, hpending, if_neg hcode]
  rfl

end

/-- Settles O45: the checks are made in their order on the state with the cell TAKEN. -/
theorem startIsChecked : Obligations.StartIsChecked := by
  refine ⟨State.imagesReady_iff, fun s cell tag hwf htake hrun => ⟨?_, ?_⟩⟩
  · rintro c (⟨h, rfl⟩ | ⟨h, hready, rfl⟩ | ⟨h, hready, hguard, rfl⟩)
    · exact exec_answered hwf htake (exec_start s cell tag) (State.decideStart_of_invalid (s := s.takeCell cell) _ _ hrun h)
    · exact exec_answered hwf htake (exec_start s cell tag) (State.decideStart_of_not_ready (s := s.takeCell cell) _ _ hrun h hready)
    · exact exec_answered hwf htake (exec_start s cell tag) (State.decideStart_of_open (s := s.takeCell cell) _ _ hrun h hready hguard)
  · intro h hready hguard hcode
    refine ⟨_, exec_start s cell tag, ?_⟩
    rw [State.onRequest_of_canTake htake, State.decideStart_of_accepted (s := s.takeCell cell) _ _ hrun h hready hguard hcode]
    exact ⟨taken_takeCell hwf cell, rfl, rfl, State.recomputeFeed_off (by simp), rfl, rfl, rfl, rfl⟩

end Sys2Proof.Machine

/-! PROOFS. A tracked piece's end: the report, the counts and the record freed (R20, R62, R79, R106, R119, R132, R150, R152, R158). -/

namespace Sys2Proof.Machine

open Sys2Proof.Safety

/-! ## The record freed (R4, R6, R20, R29, R62, R79, R89) -/

/-- One entry's part in the taking of a piece's closes (R62). -/
def closeStep (p : PieceNo) (t : State) (e : Entry) : State :=
  match e.kind with
  | .gateClose h => if e.piece = p then t.setGate h .closed else t
  | _ => t

theorem State.takeCloses_eq_foldl (s : State) (p : PieceNo) : s.takeCloses p = s.schedule.foldl (closeStep p) s := rfl

theorem closeStep_gate (p : PieceNo) (s : State) (e : Entry) (g : Gate) :
    (closeStep p s e).gate g = if e.piece = p ∧ e.kind = .gateClose g then .closed else s.gate g := by
  unfold closeStep
  split
  next h hkind =>
    by_cases hp : e.piece = p
    · by_cases hg : g = h
      · rw [if_pos hp, if_pos ⟨hp, hg ▸ hkind⟩, hg, State.gate_setGate_same]
      · rw [if_pos hp, State.gate_setGate_other _ _ hg, if_neg fun x => hg (by simpa [hkind, eq_comm] using x.2)]
    · rw [if_neg hp, if_neg fun x => hp x.1]
  next hkind => rw [if_neg fun x => hkind g x.2]

theorem closeStep_eq (p : PieceNo) (s : State) (e : Entry) : closeStep p s e = { s with gates := (closeStep p s e).gates } := by
  unfold closeStep
  (repeat' split) <;> rfl

theorem foldl_closeStep_gate (p : PieceNo) (g : Gate) (l : List Entry) (s : State) :
    (l.foldl (closeStep p) s).gate g = if ∃ e ∈ l, e.piece = p ∧ e.kind = .gateClose g then .closed else s.gate g := by
  induction l generalizing s with
  | nil => simp
  | cons e l ih =>
    rw [List.foldl_cons, ih, closeStep_gate]
    by_cases hrest : ∃ x ∈ l, x.piece = p ∧ x.kind = .gateClose g
    · rw [if_pos hrest, if_pos (hrest.imp fun x hx => ⟨List.mem_cons_of_mem _ hx.1, hx.2⟩)]
    · rw [if_neg hrest]
      refine if_congr ?_ rfl rfl
      rw [List.exists_mem_cons_iff]
      exact (or_iff_left hrest).symm

/-- The pending closes of a piece's gates are taken, and nothing else changes (R62). -/
theorem State.takeCloses_gate (s : State) (p : PieceNo) (g : Gate) :
    (s.takeCloses p).gate g = if ∃ e ∈ s.schedule, e.piece = p ∧ e.kind = .gateClose g then .closed else s.gate g :=
  foldl_closeStep_gate p g s.schedule s

theorem foldl_closeStep_eq (p : PieceNo) (l : List Entry) (s : State) :
    l.foldl (closeStep p) s = { s with gates := (l.foldl (closeStep p) s).gates } := by
  induction l generalizing s with
  | nil => rfl
  | cons e l ih =>
    rw [List.foldl_cons, ih]
    generalize (l.foldl (closeStep p) (closeStep p s e)).gates = v
    rw [closeStep_eq]

theorem State.takeCloses_eq (s : State) (p : PieceNo) : s.takeCloses p = { s with gates := (s.takeCloses p).gates } :=
  foldl_closeStep_eq p s.schedule s

/-- What ends with a record ahead of its pocket hold and its scan context: its entries, its expectation, its occupancies and its slot
use (R4, R6, R62, R89). -/
def State.untraced (s : State) (r : Record) : State :=
  { s with
    schedule := s.schedule.filter (fun e => e.piece != r.number)
    gates := (s.takeCloses r.number).gates
    cellUnit := { s.cellUnit with
      queues := s.cellUnit.queues.map (fun q => q.filter (fun x => x.who != .piece r.number))
      cells := s.cellUnit.cells.map (fun x => if x.occupant = some (.piece r.number) then { x with occupant := none } else x) }
    printer := { s.printer with
      slots := put s.printer.slots r.slot { s.printer.slots.get r.slot with inUse := (s.printer.slots.get r.slot).inUse - 1 } } }

/-- The pocket after a record is freed (R79). -/
def State.pocketFreed (s : State) (p : PieceNo) : State :=
  if s.pocket.state != .empty && s.pocket.occupant == some p then s.emptyPocket else s

/-- The scan context after a record is freed (R29). -/
def State.scanFreed (s : State) (p : PieceNo) : State :=
  if s.scan.window.map (·.piece) = some p then s.abandonScan else s

theorem State.freeTraces_eq (s : State) (r : Record) :
    s.freeTraces r = ((s.untraced r).pocketFreed r.number).scanFreed r.number := by
  have htake : (((({ s.takeCloses r.number with
      schedule := (s.takeCloses r.number).schedule.filter (fun e => e.piece != r.number) } : State).filterQueues
      (fun x => x.who != .piece r.number)).clearOccupancies r.number).releaseSlot r.slot) = s.untraced r := by
    rw [State.takeCloses_eq]
    rfl
  rw [← htake]
  rfl

theorem State.pocketFreed_eq (s : State) (p : PieceNo) :
    s.pocketFreed p = { s with
      pocket := (s.pocketFreed p).pocket
      run := { s.run with hold := (s.pocketFreed p).run.hold, feedEnable := (s.pocketFreed p).run.feedEnable } } := by
  unfold State.pocketFreed
  split <;> rfl

theorem State.scanFreed_eq (s : State) (p : PieceNo) :
    s.scanFreed p = { s with scan := if s.scan.window.map (·.piece) = some p then ScanContext.free else s.scan } := by
  unfold State.scanFreed
  split
  next h =>
    have hwindow : s.scan.window.isSome = true := by
      obtain ⟨w, hw, -⟩ := Option.map_eq_some_iff.mp h
      rw [hw, Option.isSome_some]
    rw [State.abandonScan, if_pos hwindow]
  next => rfl

/-- A record freed, but for the feed hold reasons, which follow (R135). -/
theorem State.freeRecord_eq_untraced (s : State) (r : Record) :
    s.freeRecord r = { s.untraced r with
      pocket := ((s.untraced r).pocketFreed r.number).pocket
      scan := if s.scan.window.map (·.piece) = some r.number then ScanContext.free else s.scan
      records := s.records.filter (fun x => x.number != r.number)
      run := { s.run with hold := (s.freeRecord r).run.hold, feedEnable := (s.freeRecord r).run.feedEnable } } := by
  rw [State.freeRecord_eq, State.freeTraces_eq, State.scanFreed_eq]
  have hpocket := (s.untraced r).pocketFreed_eq r.number
  generalize (s.untraced r).pocketFreed r.number = u at hpocket ⊢
  rw [hpocket]
  rfl

theorem State.pocketFreed_pocket_of_occupant {s : State} {p : PieceNo} (h : s.pocket.occupant = some p)
    (hstate : s.pocket.state ≠ .empty) : (s.pocketFreed p).pocket.state = .empty ∧ (s.pocketFreed p).pocket.occupant = none := by
  rw [State.pocketFreed, if_pos (by simp [h, hstate])]
  exact ⟨rfl, rfl⟩

theorem State.pocketFreed_pocket_of_other {s : State} {p : PieceNo} (h : s.pocket.occupant ≠ some p ∨ s.pocket.state = .empty) :
    (s.pocketFreed p).pocket = s.pocket := by
  rw [State.pocketFreed, if_neg]
  simp only [Bool.and_eq_true, bne_iff_ne, beq_iff_eq]
  exact fun x => h.elim (fun y => y x.2) x.1

/-! ## The report counted, and the impression ended (R106, R152) -/

theorem State.raiseCarry_eq (s : State) (wrapped masked : Bool) :
    s.raiseCarry wrapped masked = { s with port := (s.raiseCarry wrapped masked).port } := by
  unfold State.raiseCarry
  split <;> rfl

theorem State.countPiece_eq (s : State) (c : PieceCounter) :
    s.countPiece c = { s with tally := (s.countPiece c).tally, port := (s.countPiece c).port } := by
  unfold State.countPiece
  rw [State.raiseCarry_eq]

theorem State.countReport_eq (s : State) (x : Report) :
    s.countReport x = { s with tally := (s.countReport x).tally, port := (s.countReport x).port } := by
  have hchain : ∀ {u : State} (c : PieceCounter), (∃ a b, u = { s with tally := a, port := b }) →
      ∃ a b, u.countPiece c = { s with tally := a, port := b } := by
    rintro _ c ⟨a, b, rfl⟩
    exact ⟨_, _, State.countPiece_eq _ c⟩
  have hpieces := hchain (.cancel x.piece.result) (hchain (.lengthBin (lengthBin s.plan x.piece.length)) (hchain (.cls x.piece.cls)
    (hchain (.attitude x.piece.attitude) (hchain (.dest x.countedDest) (hchain (.outcome x.outcome)
      (hchain .completed ⟨s.tally, s.port, rfl⟩))))))
  have hreport : ∃ a b, s.countReport x = { s with tally := a, port := b } := by
    unfold State.countReport
    obtain ⟨a, b, h⟩ := hpieces
    rw [h]
    dsimp only
    split
    · exact ⟨_, _, State.countEvent_eq _ _⟩
    · exact ⟨a, b, rfl⟩
  obtain ⟨a, b, h⟩ := hreport
  rw [h]

/-- An impression of the piece, if it is under the head, ends PARTIAL (R106). -/
def State.impressionEnded (s : State) (p : PieceNo) : State :=
  if s.printer.job.map (·.piece) = some p then s.endImpressionPartial else s

theorem State.impressionEnded_eq (s : State) (p : PieceNo) :
    s.impressionEnded p = { s with
      records := (s.impressionEnded p).records
      printer := { s.printer with job := if s.printer.job.map (·.piece) = some p then none else s.printer.job } } := by
  unfold State.impressionEnded State.endImpressionPartial
  split
  · split
    · simp_all
    · rfl
  · rfl

theorem filter_map_other {l : List Record} {p : PieceNo} {f : Record → Record} (hf : ∀ x, (f x).number = x.number) :
    (l.map (fun x => if x.number = p then f x else x)).filter (fun x => x.number != p) = l.filter (fun x => x.number != p) := by
  induction l with
  | nil => rfl
  | cons x l ih =>
    rw [List.map_cons]
    by_cases hx : x.number = p
    · rw [if_pos hx, List.filter_cons_of_neg (by simp [hf, hx]), List.filter_cons_of_neg (by simp [hx]), ih]
    · rw [if_neg hx, List.filter_cons_of_pos (by simp [hx]), List.filter_cons_of_pos (by simp [hx]), ih]

/-- The records of the other pieces stand. -/
theorem State.impressionEnded_records (s : State) (p : PieceNo) :
    (s.impressionEnded p).records.filter (fun x => x.number != p) = s.records.filter (fun x => x.number != p) := by
  unfold State.impressionEnded State.endImpressionPartial
  split
  next h =>
    split
    · rfl
    next j hj =>
      obtain rfl : j.piece = p := by simpa [hj] using h
      exact filter_map_other (by intro; rfl)
  · rfl

end Sys2Proof.Machine

/-! PROOFS. What a tracked piece's end changes and leaves (R20, R106, R119, R132, R150, R158). -/

namespace Sys2Proof.Machine

open Sys2Proof.Safety

/-- Of `s` and `t`: the tracked piece with record `r` has ended with the report `x`. -/
structure PieceEnded (s t : State) (r : Record) (x : Report) : Prop where
  records : t.records = s.records.filter (fun y => y.number != r.number)
  reports : t.reports = { s.reports with held := s.reports.held ++ [x], filingDue := true }
  counts : tallied s t (reportCounters s.plan x.piece x.outcome) (reasonCounters x.piece) 0
  schedule : t.schedule = s.schedule.filter (fun e => e.piece != r.number)
  gates : ∀ g, t.gate g = if ∃ e ∈ s.schedule, e.piece = r.number ∧ e.kind = .gateClose g then .closed else s.gate g
  queues : ∀ c, t.queue c = (s.queue c).filter (fun y => y.who != .piece r.number)
  cells : ∀ c, t.cell c = { s.cell c with
    occupant := if (s.cell c).occupant = some (.piece r.number) then none else (s.cell c).occupant }
  slots : t.printer.slots = put s.printer.slots r.slot { s.printer.slots.get r.slot with
    inUse := (s.printer.slots.get r.slot).inUse - 1 }
  job : t.printer.job = if s.printer.job.map (·.piece) = some r.number then none else s.printer.job
  scan : t.scan = if s.scan.window.map (·.piece) = some r.number then ScanContext.free else s.scan
  pocketEmptied : s.pocket.occupant = some r.number → s.pocket.state ≠ .empty → t.pocket.state = .empty ∧ t.pocket.occupant = none
  pocketKept : s.pocket.occupant ≠ some r.number ∨ s.pocket.state = .empty → t.pocket = s.pocket
  feed : feedFollows s → feedFollows t
  frame : t = { s with
    cellUnit := t.cellUnit, records := t.records, scan := t.scan, schedule := t.schedule, gates := t.gates, pocket := t.pocket
    printer := { s.printer with slots := t.printer.slots, job := t.printer.job }
    run := { s.run with hold := t.run.hold, feedEnable := t.run.feedEnable }
    tally := t.tally, reports := t.reports, port := t.port }

@[simp] theorem endedRecord_slot (s : State) (r : Record) : (endedRecord s r).slot = r.slot := by
  unfold endedRecord
  split <;> rfl

/-- The state in which a piece's record is freed: its impression ended, its report made and counted. -/
def State.reported (s : State) (p : PieceNo) (x : Report) : State := ((s.impressionEnded p).appendReport x).countReport x

theorem State.reported_eq (s : State) (p : PieceNo) (x : Report) :
    s.reported p x = { s with
      records := (s.impressionEnded p).records
      printer := { s.printer with job := if s.printer.job.map (·.piece) = some p then none else s.printer.job }
      reports := { s.reports with held := s.reports.held ++ [x], filingDue := true }
      tally := (s.reported p x).tally
      port := (s.reported p x).port } := by
  have himpression := s.impressionEnded_eq p
  unfold State.reported
  generalize s.impressionEnded p = u at himpression ⊢
  have hreport := (u.appendReport x).countReport_eq x
  generalize (u.appendReport x).countReport x = v at hreport ⊢
  rw [hreport]
  unfold State.appendReport
  rw [himpression]

section
variable (s : State) (r : Record)

theorem State.freeRecord_schedule : (s.freeRecord r).schedule = s.schedule.filter (fun e => e.piece != r.number) := by
  rw [State.freeRecord_eq_untraced]
  rfl

theorem State.freeRecord_gate (g : Gate) :
    (s.freeRecord r).gate g = if ∃ e ∈ s.schedule, e.piece = r.number ∧ e.kind = .gateClose g then .closed else s.gate g := by
  rw [State.freeRecord_eq_untraced]
  exact s.takeCloses_gate r.number g

theorem State.freeRecord_queue (c : Cell) : (s.freeRecord r).queue c = (s.queue c).filter (fun y => y.who != .piece r.number) := by
  rw [State.freeRecord_eq_untraced]
  exact State.queue_filterQueues s (fun y => y.who != .piece r.number) c

theorem State.clearOccupancies_cell (p : PieceNo) (c : Cell) :
    (s.clearOccupancies p).cell c = { s.cell c with
      occupant := if (s.cell c).occupant = some (.piece p) then none else (s.cell c).occupant } := by
  have hget : (s.clearOccupancies p).cell c =
      if (s.cell c).occupant = some (.piece p) then { s.cell c with occupant := none } else s.cell c := by
    exact Vector.getElem_map _ _
  rw [hget]
  split <;> rfl

theorem State.freeRecord_cell (c : Cell) :
    (s.freeRecord r).cell c = { s.cell c with
      occupant := if (s.cell c).occupant = some (.piece r.number) then none else (s.cell c).occupant } := by
  rw [State.freeRecord_eq_untraced]
  exact s.clearOccupancies_cell r.number c

theorem State.freeRecord_slots :
    (s.freeRecord r).printer.slots = put s.printer.slots r.slot { s.printer.slots.get r.slot with
      inUse := (s.printer.slots.get r.slot).inUse - 1 } := by
  rw [State.freeRecord_eq_untraced]
  rfl

theorem State.freeRecord_scan :
    (s.freeRecord r).scan = if s.scan.window.map (·.piece) = some r.number then ScanContext.free else s.scan := by
  rw [State.freeRecord_eq_untraced]

theorem State.freeRecord_pocket : (s.freeRecord r).pocket = ((s.untraced r).pocketFreed r.number).pocket := by
  rw [State.freeRecord_eq_untraced]

theorem State.freeRecord_shape :
    s.freeRecord r = { s with
      cellUnit := (s.freeRecord r).cellUnit, records := (s.freeRecord r).records, scan := (s.freeRecord r).scan
      schedule := (s.freeRecord r).schedule, gates := (s.freeRecord r).gates, pocket := (s.freeRecord r).pocket
      printer := { s.printer with slots := (s.freeRecord r).printer.slots }
      run := { s.run with hold := (s.freeRecord r).run.hold, feedEnable := (s.freeRecord r).run.feedEnable } } := by
  have h := s.freeRecord_eq_untraced r
  generalize s.freeRecord r = t at h
  rw [h]
  rfl

end

/-- A tracked piece's end (R119, R132, R150, R158). -/
theorem State.endPiece_ended {s : State} {p : PieceNo} {r : Record} (h : s.record? p = some r) (o : Record → PieceOutcome) :
    PieceEnded s (s.endPiece p o) r ⟨endedRecord s r, o (endedRecord s r)⟩ := by
  obtain rfl : r.number = p := State.number_of_record? h
  have heq : s.endPiece r.number o =
      (s.reported r.number ⟨endedRecord s r, o (endedRecord s r)⟩).freeRecord (endedRecord s r) := State.endPiece_of_record h o
  have hreported := s.reported_eq r.number ⟨endedRecord s r, o (endedRecord s r)⟩
  have hothers := s.impressionEnded_records r.number
  have hnumber := endedRecord_number s r
  have hslot := endedRecord_slot s r
  have hcounts := State.endPiece_tallied h o
  have hjob := State.endPiece_job h o
  have hfeed := fun hf => (s.endPiece_keeps r.number o).feed hf
  generalize s.impressionEnded r.number = v at hreported hothers
  generalize endedRecord s r = last at *
  generalize s.reported r.number ⟨last, o last⟩ = u at heq hreported
  constructor
  case records => rw [heq, State.freeRecord_records, hreported, hnumber, hothers]
  case reports => rw [heq, u.freeRecord_shape, hreported]
  case counts => exact hcounts
  case schedule => rw [heq, State.freeRecord_schedule, hreported, hnumber]
  case gates =>
    intro g
    rw [heq, State.freeRecord_gate, hreported, hnumber]
    rfl
  case queues =>
    intro c
    rw [heq, State.freeRecord_queue, hreported, hnumber]
    rfl
  case cells =>
    intro c
    rw [heq, State.freeRecord_cell, hreported, hnumber]
    rfl
  case slots => rw [heq, State.freeRecord_slots, hreported, hslot]
  case job => exact hjob
  case scan => rw [heq, State.freeRecord_scan, hreported, hnumber]
  case pocketEmptied =>
    intro hocc hstate
    rw [heq, State.freeRecord_pocket, hnumber]
    refine State.pocketFreed_pocket_of_occupant ?_ ?_
    · rw [hreported]; exact hocc
    · rw [hreported]; exact hstate
  case pocketKept =>
    intro hother
    rw [heq, State.freeRecord_pocket, hnumber, State.pocketFreed_pocket_of_other]
    · rw [hreported]; rfl
    · rw [hreported]; exact hother
  case feed => exact hfeed
  case frame =>
    have hshape := u.freeRecord_shape last
    rw [← heq] at hshape
    generalize s.endPiece r.number o = t at hshape hcounts ⊢
    rw [hshape, hreported]

end Sys2Proof.Machine

/-! PROOFS. The end of every tracked piece, in order of admission (R79, R132, R150, R152, R154). -/

namespace Sys2Proof.Machine

open Sys2Proof.Safety

/-- An operation that ends a tracked piece with the outcome `out`, its record marked first, and does no more than let an impression go
where the piece is not tracked. -/
structure EndsPiece (f : State → PieceNo → State) (mark : State → Record → Record) (out : PieceOutcome) : Prop where
  tracked : ∀ {s : State} {p : PieceNo} {r : Record}, s.record? p = some r →
    PieceEnded s (f s p) r ⟨endedRecord s (mark s r), out⟩
  untracked : ∀ {s : State} {p : PieceNo}, s.record? p = none →
    f s p = { s with printer := { s.printer with job := (f s p).printer.job } }
  markKeeps : ∀ (s : State) (r : Record), (mark s r).number = r.number
  markCongr : ∀ {s t : State}, t.protect = s.protect → mark t = mark s

theorem updateRecord_of_untracked {s : State} {p : PieceNo} (h : s.record? p = none) (f : Record → Record) :
    s.updateRecord p f = s := by
  have hmap : s.records.map (fun r => if r.number = p then f r else r) = s.records := by
    refine (List.map_congr_left fun r hr => ?_).trans (List.map_id _)
    have hne : ¬ r.number = p := by simpa using List.find?_eq_none.mp h r hr
    rw [if_neg hne]
    rfl
  unfold State.updateRecord
  rw [hmap]

theorem State.endPiece_untracked {s : State} {p : PieceNo} (h : s.record? p = none) (o : Record → PieceOutcome) :
    s.endPiece p o = { s with printer := { s.printer with job := (s.endPiece p o).printer.job } } := by
  have heq : s.endPiece p o = s.impressionEnded p := by
    have himpression : ∀ j, s.printer.job = some j → j.piece = p → s.endImpressionPartial.record? p = none := by
      intro j hj hp
      rw [State.endImpressionPartial, hj]
      subst hp
      simp only [updateRecord_of_untracked h]
      exact h
    unfold State.endPiece State.impressionEnded
    cases hj : s.printer.job with
    | none => simp [h]
    | some j =>
      by_cases hp : j.piece = p
      · simp [hp, himpression j hj hp]
      · simp [hp, h]
  rw [heq]
  unfold State.impressionEnded State.endImpressionPartial
  split
  next hp =>
    split
    · rfl
    next j hj =>
      obtain rfl : j.piece = p := by simpa [hj] using hp
      rw [updateRecord_of_untracked h]
  · rfl

/-- Stranding a piece ends it STRANDED (R132). -/
theorem endPiece_endsPiece (out : PieceOutcome) : EndsPiece (fun s p => s.endPiece p fun _ => out) (fun _ r => r) out where
  tracked := fun h => State.endPiece_ended h _
  untracked := fun h => State.endPiece_untracked h _
  markKeeps := fun _ _ => rfl
  markCongr := fun _ => rfl

/-! ## Whatever the numbers -/

/-- Of `s` and `t`: the pieces of a list have ended, those of them that are tracked. -/
structure PiecesEnded (s t : State) (l : List PieceNo) : Prop where
  records : ∀ y, y ∈ t.records ↔ y ∈ s.records ∧ y.number ∉ l
  schedule : ∀ e, e ∈ t.schedule ↔ e ∈ s.schedule ∧ (e.piece ∈ l → s.record? e.piece = none)
  queues : ∀ c, ∀ x ∈ t.queue c, x ∈ s.queue c
  levels : ∀ c, (t.cell c).covered = (s.cell c).covered ∧ (t.cell c).coverAt = (s.cell c).coverAt ∧
    (t.cell c).uncoverAt = (s.cell c).uncoverAt
  pocket : t.pocket = s.pocket ∨ t.pocket.state = .empty ∧ t.pocket.occupant = none
  pocketEmptied : ∀ p ∈ l, s.pocket.occupant = some p → s.pocket.state ≠ .empty → s.record? p ≠ none →
    t.pocket.state = .empty ∧ t.pocket.occupant = none
  reports : t.reports = { s.reports with held := t.reports.held, filingDue := t.reports.filingDue }
  frame : t = { s with
    cellUnit := t.cellUnit, records := t.records, scan := t.scan, schedule := t.schedule, gates := t.gates, pocket := t.pocket
    printer := { s.printer with slots := t.printer.slots, job := t.printer.job }
    run := { s.run with hold := t.run.hold, feedEnable := t.run.feedEnable }
    tally := t.tally, reports := t.reports, port := t.port }

theorem State.record?_eq_none_iff {s : State} {p : PieceNo} : s.record? p = none ↔ ∀ y ∈ s.records, y.number ≠ p := by
  rw [State.record?, List.find?_eq_none]
  simp

theorem PiecesEnded.record?_eq_none {s t : State} {l : List PieceNo} (h : PiecesEnded s t l) {p : PieceNo} :
    t.record? p = none ↔ (s.record? p = none ∨ p ∈ l) := by
  rw [State.record?_eq_none_iff, State.record?_eq_none_iff]
  constructor
  · intro ht
    by_cases hp : p ∈ l
    · exact .inr hp
    · exact .inl fun y hy hn => ht y ((h.records y).mpr ⟨hy, hn ▸ hp⟩) hn
  · rintro (hs | hp) y hy hn
    · exact hs y ((h.records y).mp hy).1 hn
    · exact ((h.records y).mp hy).2 (hn ▸ hp)

theorem PiecesEnded.nil (s : State) : PiecesEnded s s [] :=
  ⟨by simp, by simp, fun _ _ hx => hx, fun _ => ⟨rfl, rfl, rfl⟩, .inl rfl, by simp, rfl, rfl⟩

theorem PiecesEnded.append {s u t : State} {l m : List PieceNo} (h : PiecesEnded s u l) (h' : PiecesEnded u t m) :
    PiecesEnded s t (l ++ m) where
  records := fun y => by rw [h'.records, h.records, List.mem_append, not_or, and_assoc]
  schedule := fun e => by
    rw [h'.schedule, h.schedule, List.mem_append, h.record?_eq_none]
    tauto
  queues := fun c x hx => h.queues c x (h'.queues c x hx)
  levels := fun c => by
    obtain ⟨h1, h2, h3⟩ := h.levels c
    obtain ⟨h1', h2', h3'⟩ := h'.levels c
    exact ⟨h1'.trans h1, h2'.trans h2, h3'.trans h3⟩
  pocket := by
    rcases h'.pocket with hp | hp
    · rw [hp]; exact h.pocket
    · exact .inr hp
  pocketEmptied := fun p hp hocc hstate htracked => by
    have hfirst : (u.pocket.state = .empty ∧ u.pocket.occupant = none) → t.pocket.state = .empty ∧ t.pocket.occupant = none := by
      intro hu
      rcases h'.pocket with hsame | hempty
      · rw [hsame]; exact hu
      · exact hempty
    by_cases hl : p ∈ l
    · exact hfirst (h.pocketEmptied p hl hocc hstate htracked)
    · rcases h.pocket with hsame | hempty
      · refine h'.pocketEmptied p ((List.mem_append.mp hp).resolve_left hl) (hsame ▸ hocc) (hsame ▸ hstate) ?_
        rw [Ne, h.record?_eq_none]
        tauto
      · exact hfirst hempty
  reports := by rw [h'.reports, h.reports]
  frame := by rw [h'.frame, h.frame]

theorem PiecesEnded.of_ended {s t : State} {r : Record} {x : Report} (h : PieceEnded s t r x) (htracked : s.record? r.number ≠ none) :
    PiecesEnded s t [r.number] where
  records := fun y => by rw [h.records]; simp
  schedule := fun e => by
    rw [h.schedule]
    by_cases he : e.piece = r.number
    · simp [he, htracked]
    · simp [he]
  queues := fun c x hx => by
    rw [h.queues] at hx
    exact List.mem_of_mem_filter hx
  levels := fun c => by rw [h.cells]; exact ⟨rfl, rfl, rfl⟩
  pocket := by
    by_cases hocc : s.pocket.occupant = some r.number ∧ s.pocket.state ≠ .empty
    · exact .inr (h.pocketEmptied hocc.1 hocc.2)
    · exact .inl (h.pocketKept (by tauto))
  pocketEmptied := fun p hp hocc hstate _ => h.pocketEmptied (List.mem_singleton.mp hp ▸ hocc) hstate
  reports := by rw [h.reports]
  frame := h.frame

theorem PiecesEnded.of_untracked {s : State} {p : PieceNo} (j : Option Impression) (h : s.record? p = none) :
    PiecesEnded s { s with printer := { s.printer with job := j } } [p] where
  records := fun y => by
    rw [List.mem_singleton]
    exact ⟨fun hy => ⟨hy, State.record?_eq_none_iff.mp h y hy⟩, fun hy => hy.1⟩
  schedule := fun e => by
    rw [List.mem_singleton]
    exact ⟨fun he => ⟨he, fun hp => hp ▸ h⟩, fun he => he.1⟩
  queues := fun _ _ hx => hx
  levels := fun _ => ⟨rfl, rfl, rfl⟩
  pocket := .inl rfl
  pocketEmptied := fun q hq _ _ htracked => absurd (List.mem_singleton.mp hq ▸ h) htracked
  reports := rfl
  frame := rfl

section
variable {f : State → PieceNo → State} {mark : State → Record → Record} {out : PieceOutcome}

theorem EndsPiece.one (h : EndsPiece f mark out) (s : State) (p : PieceNo) : PiecesEnded s (f s p) [p] := by
  cases hp : s.record? p with
  | none =>
    rw [h.untracked hp]
    exact .of_untracked _ hp
  | some r =>
    obtain rfl : r.number = p := State.number_of_record? hp
    exact .of_ended (h.tracked hp) (by simp [hp])

theorem EndsPiece.pieces (h : EndsPiece f mark out) (l : List PieceNo) (s : State) : PiecesEnded s (l.foldl f s) l := by
  induction l generalizing s with
  | nil => exact .nil s
  | cons p l ih => exact (h.one s p).append (ih (f s p))

/-! ## Numbers without repetition -/

theorem filter_of_nodup {r : Record} {l : List Record} (h : ((r :: l).map (·.number)).Nodup) :
    (r :: l).filter (fun y => y.number != r.number) = l := by
  rw [List.map_cons, List.nodup_cons] at h
  rw [List.filter_cons_of_neg (by simp), List.filter_eq_self]
  intro y hy
  have : y.number ≠ r.number := fun hn => h.1 (hn ▸ List.mem_map_of_mem hy)
  simpa using this

/-- A report that ended one piece's impression ends no other's. -/
theorem endedRecord_of_ended {s t : State} {r y : Record} {x : Report} (h : PieceEnded s t r x) (hy : y.number ≠ r.number) :
    endedRecord t y = endedRecord s y := by
  unfold endedRecord
  rw [h.job]
  by_cases hj : s.printer.job.map (·.piece) = some r.number
  · rw [if_pos hj, if_neg (by simp), if_neg]
    rw [hj, Option.some.injEq]
    exact fun hn => hy hn.symm
  · rw [if_neg hj]

/-- The records as the reports of the pieces have them. -/
def State.endedAs (s : State) (mark : State → Record → Record) (l : List Record) : List Record :=
  l.map fun r => endedRecord s (mark s r)

/-- Each piece is reported in order of admission, and its report counted (R132, R150, R152). -/
theorem EndsPiece.reports (h : EndsPiece f mark out) {l : List Record} {s : State} (hl : s.records = l)
    (hn : (l.map (·.number)).Nodup) :
    ((l.map (·.number)).foldl f s).reports.held = s.reports.held ++ (s.endedAs mark l).map (fun r => ⟨r, out⟩) ∧
      tallied s ((l.map (·.number)).foldl f s) ((s.endedAs mark l).flatMap fun r => reportCounters s.plan r out)
        ((s.endedAs mark l).flatMap reasonCounters) 0 := by
  induction l generalizing s with
  | nil => exact ⟨(List.append_nil _).symm, tallied_of_same rfl rfl⟩
  | cons r l ih =>
    have htracked : s.record? r.number = some r := by rw [State.record?, hl, List.find?_cons_of_pos (by simp)]
    have hstep := h.tracked htracked
    have hframe := hstep.frame
    rw [List.map_cons, List.foldl_cons]
    have hrest : (f s r.number).records = l := by rw [hstep.records, hl, filter_of_nodup hn]
    rw [List.map_cons, List.nodup_cons] at hn
    obtain ⟨hheld, hcounts⟩ := ih hrest hn.2
    generalize f s r.number = u at *
    have hplan : u.plan = s.plan := by rw [hframe]
    have hmark : mark u = mark s := h.markCongr (by rw [hframe])
    have hsame : ∀ y ∈ l, endedRecord u (mark u y) = endedRecord s (mark s y) := by
      intro y hy
      rw [hmark]
      refine endedRecord_of_ended hstep ?_
      rw [h.markKeeps]
      exact fun hn' => hn.1 (hn' ▸ List.mem_map_of_mem hy)
    have hended : u.endedAs mark l = s.endedAs mark l := List.map_congr_left hsame
    rw [hended] at hheld hcounts
    rw [hplan] at hcounts
    constructor
    · rw [hheld, hstep.reports, List.append_assoc]
      rfl
    · exact tallied_trans hstep.counts hcounts hplan

end

end Sys2Proof.Machine

/-! PROOFS. Stranding (spec/08, R132; spec/10, R152, R154; spec/05, R79). -/

namespace Sys2Proof.Machine

open Sys2Proof.Safety

/-! ## Counters in which every report counts one -/

theorem count_flatMap_reports {pl : Plan} {out : PieceOutcome} {c : PieceCounter} (l : List Record)
    (h : ∀ r, (reportCounters pl r out).count c = 1) : (l.flatMap fun r => reportCounters pl r out).count c = l.length := by
  induction l with
  | nil => rfl
  | cons r l ih => rw [List.flatMap_cons, List.count_append, h, ih, List.length_cons, Nat.add_comm]

/-- A counter to which n has been added. -/
theorem pieces_get_of_counts {s t : State} {pieces : List PieceCounter} {events : List EventCounter} {dots n : Nat} {c : PieceCounter}
    (h : countsAdded s t pieces events dots) (hn : pieces.count c = n) :
    t.tally.pieces.get (pieceCounterIdx c) = s.tally.pieces.get (pieceCounterIdx c) + BitVec.ofNat 24 n := by
  obtain ⟨hadded, -⟩ := h.1 c
  refine BitVec.eq_of_toNat_eq ?_
  rw [BitVec.toNat_add, BitVec.toNat_ofNat, Nat.add_mod_mod, ← hn]
  exact hadded

/-- Every report counts in COMPLETED and in its outcome, and one of a stranded or purged piece in NO_DEST (R152). -/
theorem count_reportCounters (pl : Plan) (r : Record) (out : PieceOutcome) (c : PieceCounter)
    (hc : c = .completed ∨ c = .outcome out ∨ c = .dest none ∧ out ≠ .sorted ∧ out ≠ .culled) :
    (reportCounters pl r out).count c = 1 := by
  rcases hc with rfl | rfl | ⟨rfl, h1, h2⟩
  · simp [reportCounters]
  · simp [reportCounters]
  · simp [reportCounters, h1, h2]

/-! ## Stranding -/

theorem State.strandAll_eq (s : State) :
    s.strandAll = (s.records.map (·.number)).foldl (fun t p => t.endPiece p fun _ => .stranded) s := by
  rw [State.strandAll, List.foldl_map]

theorem State.strandAll_pieces (s : State) : PiecesEnded s s.strandAll (s.records.map (·.number)) := by
  rw [State.strandAll_eq]
  exact (endPiece_endsPiece .stranded).pieces _ s

/-- Once every tracked piece has ended none is tracked. -/
theorem PiecesEnded.records_eq_nil {s t : State} (h : PiecesEnded s t (s.records.map (·.number))) : t.records = [] := by
  rw [List.eq_nil_iff_forall_not_mem]
  intro y hy
  obtain ⟨hmem, hnot⟩ := (h.records y).mp hy
  exact hnot (List.mem_map_of_mem hmem)

theorem State.mem_numbers {s : State} {p : PieceNo} (h : s.record? p ≠ none) : p ∈ s.records.map (·.number) := by
  by_contra hp
  exact h (State.record?_eq_none_iff.mpr fun y hy hn => hp (hn ▸ List.mem_map_of_mem hy))

/-- The pocket of a tracked occupant is emptied with it (R79). -/
theorem PiecesEnded.pocket_empty {s t : State} (h : PiecesEnded s t (s.records.map (·.number)))
    (htracked : ∀ p, s.pocket.occupant = some p → s.record? p ≠ none) (hheld : s.pocket.state = .empty ↔ s.pocket.occupant = none) :
    t.pocket.state = .empty ∧ t.pocket.occupant = none := by
  cases hocc : s.pocket.occupant with
  | none =>
    rcases h.pocket with hsame | hempty
    · rw [hsame]; exact ⟨hheld.mpr hocc, hocc⟩
    · exact hempty
  | some p =>
    refine h.pocketEmptied p (State.mem_numbers (htracked p hocc)) hocc (fun hstate => ?_) (htracked p hocc)
    rw [hheld.mp hstate] at hocc
    exact absurd hocc (by simp)

theorem State.endedAs_self (s : State) : s.endedAs (fun _ r => r) s.records = tripRecords s := (tripRecords_eq s).symm

/-- The reports of stranding and their counts. -/
theorem State.strandAll_reports {s : State} (hn : (s.records.map (·.number)).Nodup) :
    s.strandAll.reports.held = s.reports.held ++ (tripRecords s).map (fun r => ⟨r, .stranded⟩) ∧
      tallied s s.strandAll ((tripRecords s).flatMap fun r => reportCounters s.plan r .stranded) ((tripRecords s).flatMap reasonCounters)
        0 := by
  rw [State.strandAll_eq, ← State.endedAs_self]
  exact (endPiece_endsPiece .stranded).reports rfl hn

/-- With nothing printing the reports have the records as they stand. -/
theorem tripRecords_of_no_job {s : State} (h : s.printer.job = none) : tripRecords s = s.records := by
  rw [tripRecords, h]

/-- Settles O33: the pieces end one after another, each with its report and its counts. -/
theorem strandingReportsEveryPiece : Obligations.StrandingReportsEveryPiece := by
  intro s hn hjob htracked hheld
  have hended := s.strandAll_pieces
  obtain ⟨hreports, hcounts⟩ := State.strandAll_reports hn
  rw [tripRecords_of_no_job hjob] at hreports hcounts
  have hcount : ∀ c, c = .completed ∨ c = .dest none → s.strandAll.tally.pieces.get (pieceCounterIdx c) =
      s.tally.pieces.get (pieceCounterIdx c) + BitVec.ofNat 24 s.records.length := by
    intro c hc
    refine pieces_get_of_counts hcounts.1 (count_flatMap_reports _ fun r => count_reportCounters _ _ _ _ ?_)
    exact hc.imp_right fun h => .inr ⟨h, by decide, by decide⟩
  obtain ⟨hstate, hocc⟩ := hended.pocket_empty htracked hheld
  exact ⟨hended.records_eq_nil, hreports, hcount _ (.inl rfl), hcount _ (.inr rfl), hcounts, hstate, hocc⟩

end Sys2Proof.Machine

/-! PROOFS. The entry to IDLE (spec/08, R131, R132, R134; spec/10, R160, R162, R166). -/

namespace Sys2Proof.Machine

open Sys2Proof.Safety

/-! ## CARRY is raised by the counters only (R154, R175) -/

/-- Of `s` and `t`: the cause CARRY and its seen mark are as they were. -/
def carryStays (s t : State) : Prop := t.port.causes.carry = s.port.causes.carry ∧ t.port.seen.carry = s.port.seen.carry

theorem carryStays.trans {s t u : State} (h : carryStays s t) (h' : carryStays t u) : carryStays s u :=
  ⟨h'.1.trans h.1, h'.2.trans h.2⟩

theorem State.raise_carryStays (s : State) {c : AttentionCause} (hc : c ≠ .carry) : carryStays s (s.raise c) := by
  cases c with
  | carry => exact absurd rfl hc
  | jam | trayStarved | trayClosed | requestDone => exact ⟨rfl, rfl⟩

theorem State.completeRun_carryStays (s : State) (r : ResultCode) (value : Word) : carryStays s (s.completeRun r value) := by
  rw [carryStays, State.completeRun_port]
  split <;> exact ⟨rfl, rfl⟩

theorem State.searchRack_carryStays (s : State) : carryStays s s.searchRack := by
  unfold State.searchRack
  split
  · exact ⟨rfl, rfl⟩
  · split
    · exact ⟨rfl, rfl⟩
    · exact State.raise_carryStays _ (by decide)

theorem State.closeTray_carryStays (s : State) (cause : CloseCause) : carryStays s (s.closeTray cause) := by
  cases h : s.reports.tray with
  | none =>
    rw [State.closeTray_of_none h]
    exact ⟨rfl, rfl⟩
  | some tr => exact State.closeTray_of_open h cause ▸ ⟨rfl, rfl⟩

theorem State.moveOne_carryStays (s : State) : carryStays s s.moveOne := by
  cases hheld : s.reports.held with
  | nil =>
    rw [State.moveOne, hheld]
    exact ⟨rfl, rfl⟩
  | cons x rest =>
    cases htray : s.reports.tray with
    | none =>
      rw [State.moveOne, hheld, htray]
      exact ⟨rfl, rfl⟩
    | some tr =>
      rw [State.moveOne_eq hheld htray]
      split
      · exact carryStays.trans ⟨rfl, rfl⟩ (State.closeTray_carryStays _ _)
      · exact ⟨rfl, rfl⟩

theorem State.needTray_carryStays (s : State) : carryStays s s.needTray := by
  unfold State.needTray
  split
  · exact s.searchRack_carryStays
  · exact ⟨rfl, rfl⟩

theorem State.fileLoop_carryStays (n : Nat) (s : State) : carryStays s (s.fileLoop n) := by
  induction n generalizing s with
  | zero => exact ⟨rfl, rfl⟩
  | succ n ih =>
    simp only [State.fileLoop]
    split
    · exact ⟨rfl, rfl⟩
    · split
      · exact (s.needTray_carryStays.trans (State.moveOne_carryStays _)).trans (ih _)
      · exact s.needTray_carryStays

theorem State.fileReports_carryStays (s : State) : carryStays s s.fileReports :=
  carryStays.trans ⟨rfl, rfl⟩ (State.fileLoop_carryStays _ _)

theorem State.fileAtIdle_carryStays (s : State) (cause : CloseCause) : carryStays s (s.fileAtIdle cause) := by
  have hsearch : carryStays s s.searchAndFile := by
    unfold State.searchAndFile
    split
    · exact s.searchRack_carryStays.trans (State.fileReports_carryStays _)
    · exact ⟨rfl, rfl⟩
  have hfile := hsearch.trans (State.fileReports_carryStays _)
  simp only [State.fileAtIdle]
  split
  · exact hfile.trans (State.closeTray_carryStays _ _)
  · exact hfile

/-! ## Where no tray takes what is held (R160, R162, R166) -/

/-- No report can be moved, and no open tray closed: ENABLE 0, or no open tray and none READY or nothing held. -/
def State.noTray (s : State) : Prop :=
  s.port.enable = false ∨ (s.reports.tray = none ∧ ((∀ i : Fin 16, s.pageWord (rackOffset i 0) ≠ rackReady) ∨ s.reports.held = []))

theorem State.searchRack_of_none {s : State} (h : s.findReady = none) :
    s.searchRack.mem = s.mem ∧ s.searchRack.reports = { s.reports with starved := true } := by
  unfold State.searchRack
  rw [h]
  dsimp only
  split
  next hs => exact ⟨rfl, by rw [← hs]⟩
  next => exact ⟨rfl, rfl⟩

theorem State.fileReports_of_noTray {s : State} (h : s.noTray) (hstarved : s.reports.starved = true ∨ s.reports.held = [] ∨
    s.port.enable = false) : s.fileReports = s.filed := by
  rcases hstarved with hs | hheld | henable
  · rcases h with henable | ⟨ht, -⟩
    · exact State.fileReports_of_idle (.inl henable)
    · exact State.fileReports_of_starved ht hs
  · exact State.fileReports_of_idle (.inr hheld)
  · exact State.fileReports_of_idle (.inl henable)

/-- An entry to IDLE then leaves memory and what is held as they are. -/
theorem State.fileAtIdle_of_noTray {s : State} (h : s.noTray) (cause : CloseCause) :
    (s.fileAtIdle cause).mem = s.mem ∧ (s.fileAtIdle cause).reports.held = s.reports.held := by
  by_cases hquiet : s.reports.held = [] ∨ s.port.enable = false
  · have hsearch : s.searchAndFile = s := by
      rw [State.searchAndFile, if_neg]
      rcases hquiet with hh | he
      · simp [hh]
      · simp [he]
    simp only [State.fileAtIdle, hsearch, State.fileReports_of_noTray h (.inr hquiet)]
    split
    next henable =>
      have htray : s.filed.reports.tray = none := (h.resolve_left (by simp_all [State.filed])).1
      rw [State.closeTray_of_none htray]
      exact ⟨rfl, rfl⟩
    next => exact ⟨rfl, rfl⟩
  · obtain ⟨hheld, henable⟩ := not_or.mp hquiet
    obtain ⟨htray, hready⟩ := h.resolve_left henable
    obtain ⟨hmem, hreports⟩ := State.searchRack_of_none (State.findReady_eq_none.mpr fun i _ => hready.resolve_right hheld i)
    have hsearch : s.searchAndFile = s.searchRack.fileReports := by
      rw [State.searchAndFile, if_pos]
      simpa [htray, hheld] using henable
    generalize s.searchRack = u at *
    have hfiled : u.fileReports = u.filed := State.fileReports_of_starved (by rw [hreports]; exact htray) (by rw [hreports])
    have hagain : u.filed.fileReports = u.filed := State.fileReports_of_starved (by rw [State.filed, hreports]; exact htray)
      (by rw [State.filed, hreports])
    have hclose : u.filed.closeTray cause = u.filed := State.closeTray_of_none (by rw [State.filed, hreports]; exact htray) _
    simp only [State.fileAtIdle, hsearch, hfiled, hagain, hclose, ite_self]
    exact ⟨hmem, by rw [State.filed, hreports]⟩

end Sys2Proof.Machine

/-! PROOFS. Run control's part of an entry to IDLE (spec/08, R131, R132, R134). -/

namespace Sys2Proof.Machine

open Sys2Proof.Safety

/-- No untracked expectation is left, and the code is cut (R132, steps 3 and 4). -/
def State.quieted (s : State) : State := (s.filterQueues (fun x => x.who != .untracked)).cut

theorem State.settleIdle_eq (s : State) (n : Nat) (cause : CloseCause) :
    s.settleIdle n cause = ((s.quieted.completeRun .ok (countWord n)).fileAtIdle cause).recomputeFeed := rfl

theorem State.settleIdle_drive (s : State) (n : Nat) (cause : CloseCause) :
    (s.settleIdle n cause).drive = { s.drive with code := 0, target := 0, rampTimer := none, report := none } := by
  simp [State.settleIdle_eq, State.quieted, State.cut]

theorem State.settleIdle_queue (s : State) (n : Nat) (cause : CloseCause) (c : Cell) :
    (s.settleIdle n cause).queue c = (s.queue c).filter (fun x => x.who != .untracked) := by
  have hunit : (s.settleIdle n cause).cellUnit = s.quieted.cellUnit := by simp [State.settleIdle_eq]
  rw [State.queue, hunit]
  exact State.queue_filterQueues s _ c

theorem State.settleIdle_carryStays (s : State) (n : Nat) (cause : CloseCause) : carryStays s (s.settleIdle n cause) :=
  (carryStays.trans (t := s.quieted) ⟨rfl, rfl⟩ (State.completeRun_carryStays _ _ _)).trans
    ((State.fileAtIdle_carryStays _ cause).trans ⟨rfl, rfl⟩)

/-- The answer is written below the rack. -/
theorem State.completeRun_noTray {s : State} (h : s.noTray) (r : ResultCode) (value : Word) : (s.completeRun r value).noTray := by
  have hkeeps : (s.completeRun r value).port.enable = s.port.enable ∧ (s.completeRun r value).reports = s.reports := by simp
  obtain ⟨henable, hreports⟩ := hkeeps
  refine h.imp (fun he => henable.trans he) fun ⟨htray, hready⟩ => ⟨by rw [hreports]; exact htray, ?_⟩
  rw [hreports]
  refine hready.imp_left fun hr i => ?_
  have hword : (s.completeRun r value).pageWord (rackOffset i 0) = s.pageWord (rackOffset i 0) := by
    cases hq : s.run.request with
    | none => rw [State.completeRun_of_none hq]
    | some q =>
      have hi := i.isLt
      rw [← s.pageWord_completeRequest q.cell (off := rackOffset i 0) (by unfold rackOffset; omega) (by unfold rackOffset; omega)
        q.tag r value]
      exact State.pageWord_congr (State.completeRun_mem_of_some hq r value) (by simp) _
  rw [hword]
  exact hr i

/-- Where no tray takes what is held, the answer is the only change of memory. -/
theorem State.settleIdle_answers {s : State} (hwf : s.mem.wf = true) (h : s.noTray) (n : Nat) (cause : CloseCause) :
    (s.settleIdle n cause).reports.held = s.reports.held ∧
      ∀ q, s.run.request = some q → holdsAnswer (s.settleIdle n cause) q.cell q.tag .ok (countWord n) ∧
        keptOutside s (s.settleIdle n cause) (answerBytes s q.cell) := by
  have hquiet : s.quieted.noTray := h
  obtain ⟨hmem, hheld⟩ := State.fileAtIdle_of_noTray (State.completeRun_noTray hquiet .ok (countWord n)) cause
  refine ⟨?_, fun q hq => ?_⟩
  · rw [State.settleIdle_eq, State.recomputeFeed_reports, hheld]
    simp [State.quieted, State.cut]
  · refine answer_of_completeRequest hwf (u := s.quieted) rfl rfl ?_ (by simp)
    rw [State.settleIdle_eq, State.recomputeFeed_mem, hmem]
    exact State.completeRun_mem_of_some (s := s.quieted) hq _ _

/-! ## The whole act (R132) -/

/-- A state in IDLE that strands its pieces. -/
def State.stranded (s : State) : State := (s.setRunState .idle).strandAll

theorem State.enterIdle_eq (s : State) : s.enterIdle = s.stranded.settleIdle s.records.length .idle := rfl

theorem State.stranded_pieces (s : State) : PiecesEnded (s.setRunState .idle) s.stranded (s.records.map (·.number)) :=
  (s.setRunState .idle).strandAll_pieces

/-- CARRY as the counts of stranding leave it. -/
theorem talliedAmong_of_carryStays {s t u : State} {pieces : List PieceCounter} {events : List EventCounter} {dots : Nat}
    (h : tallied s t pieces events dots) (htally : u.tally = t.tally) (hport : carryStays t u) :
    talliedAmong s u pieces events dots := by
  obtain ⟨hcounts, hcalled, hnot⟩ := h
  refine ⟨?_, fun hc => ?_, fun hc => ?_⟩
  · simpa only [countsAdded, pieceCount, eventCount, htally] using hcounts
  · rw [hport.1, hport.2, hcalled hc]
    exact ⟨rfl, rfl⟩
  · rw [hport.1, hport.2, hnot hc]
    exact ⟨rfl, rfl⟩

/-- After stranding no tray takes what is held where none took it before and nothing came to be held. -/
theorem State.stranded_noTray {s : State} (hn : (s.records.map (·.number)).Nodup)
    (h : s.port.enable = false ∨ (s.reports.tray = none ∧
      ((∀ i : Fin 16, s.pageWord (rackOffset i 0) ≠ rackReady) ∨ (s.records = [] ∧ s.reports.held = [])))) : s.stranded.noTray := by
  have hkept : s.stranded.port.enable = s.port.enable ∧ s.stranded.reports.tray = s.reports.tray := by simp [State.stranded]
  have hword : ∀ off, s.stranded.pageWord off = s.pageWord off :=
    State.pageWord_congr (s := s) (by simp [State.stranded]) (by simp [State.stranded])
  refine h.imp (fun he => hkept.1.trans he) fun ⟨htray, hquiet⟩ => ⟨hkept.2.trans htray, ?_⟩
  refine hquiet.imp (fun hr i => hword (rackOffset i 0) ▸ hr i) fun ⟨hrecords, hheld⟩ => ?_
  obtain ⟨hreports, -⟩ := State.strandAll_reports (s := s.setRunState .idle) hn
  rw [State.stranded, hreports, tripRecords_eq, State.setRunState_records, hrecords, State.setRunState_reports, hheld]
  rfl

/-- Run control enters IDLE (R132). -/
theorem State.enterIdle_entered {s : State} (hwf : s.mem.wf = true) : idleEntered s s.enterIdle s.run.request := by
  have hended := s.stranded_pieces
  have hsettled := s.stranded.settleIdle_frame s.records.length .idle
  have hrequest := s.stranded.settleIdle_request s.records.length .idle
  have hdrive := s.stranded.settleIdle_drive s.records.length .idle
  have hqueue := s.stranded.settleIdle_queue s.records.length .idle
  have hcarry := s.stranded.settleIdle_carryStays s.records.length .idle
  have hanswers := fun hwf h => State.settleIdle_answers (s := s.stranded) hwf h s.records.length .idle
  have hframe : s.stranded.mem = s.mem ∧ s.stranded.drive = s.drive ∧ s.stranded.position = s.position ∧
      s.stranded.admission = s.admission ∧ s.stranded.router = s.router ∧ s.stranded.protect = s.protect ∧
      s.stranded.plan = s.plan ∧ s.stranded.now = s.now ∧ s.stranded.pending = s.pending ∧ s.stranded.run.state = .idle ∧
      s.stranded.run.request = s.run.request ∧ s.stranded.port.pageAddress = s.port.pageAddress := by simp [State.stranded]
  have hfeed : (s.stranded.settleIdle s.records.length .idle).run.feedEnable = false := by
    rw [State.settleIdle_eq]
    exact State.recomputeFeed_off (by simp [State.quieted, State.cut, State.stranded])
  have hnoTray := s.stranded_noTray
  have hreports := fun hn => State.strandAll_reports (s := s.setRunState .idle) hn
  change _ → (s.stranded.reports.held = s.reports.held ++ (tripRecords s).map _ ∧ tallied _ s.stranded _ _ _) at hreports
  rw [State.enterIdle_eq]
  generalize s.stranded = u at *
  generalize u.settleIdle s.records.length .idle = t at *
  obtain ⟨hmem, hudrive, hposition, hadmission, hrouter, hprotect, hplan, hnow, hpending, hstate, hurequest, hpage⟩ := hframe
  obtain ⟨tpending, tnow, tposition, -, -, tadmission, trecords, -, tschedule, -, tpocket, -, trouter, tprotect, ttally, tplan, -, -,
    tstate, -, -, -, -, -, -, -, -, -, -, -, tcells⟩ := hsettled
  have hcell : ∀ c, t.cell c = u.cell c := fun c => by rw [State.cell, tcells]; rfl
  refine ⟨tstate.trans hstate, hrequest, hfeed, trecords.trans hended.records_eq_nil, ?_, ?_, ?_, tposition.trans hposition,
    tadmission.trans hadmission, trouter.trans hrouter, tprotect.trans hprotect, ?_, ?_, tplan.trans hplan, tnow.trans hnow,
    tpending.trans hpending, ?_, ?_⟩
  · rw [hdrive, hudrive]
  · intro c x hx
    rw [hqueue, List.mem_filter] at hx
    simpa using hx.2
  · intro hheld htracked
    rw [tpocket]
    exact hended.pocket_empty htracked hheld
  · intro e
    rw [tschedule, hended.schedule]
    refine and_congr_right fun _ => ⟨fun h => ?_, fun h _ => h⟩
    by_contra hne
    exact hne (h (State.mem_numbers hne))
  · intro c
    rw [hcell]
    exact hended.levels c
  · intro hn
    obtain ⟨-, hcounts⟩ := hreports hn
    have hamong := talliedAmong_of_carryStays hcounts ttally hcarry
    have hlength : (tripRecords s).length = s.records.length := by rw [tripRecords_eq, List.length_map]
    have hcount : ∀ c, c = .completed ∨ c = .outcome .stranded → t.tally.pieces.get (pieceCounterIdx c) =
        s.tally.pieces.get (pieceCounterIdx c) + BitVec.ofNat 24 s.records.length := fun c hc =>
      pieces_get_of_counts hamong.1 ((count_flatMap_reports _ fun r => count_reportCounters _ _ _ _
        (hc.imp_right .inl)).trans hlength)
    exact ⟨hcount _ (.inl rfl), hcount _ (.inr rfl), hamong⟩
  · intro hn hquiet
    obtain ⟨hheld, -⟩ := hreports hn
    obtain ⟨hkept, hanswer⟩ := hanswers (hmem ▸ hwf) (hnoTray hn hquiet)
    refine ⟨hkept.trans hheld, fun q hq => ?_⟩
    obtain ⟨hholds, hbytes⟩ := hanswer q (hurequest.trans hq)
    refine ⟨hholds, fun a ha => (hbytes a ?_).trans (by rw [hmem])⟩
    simpa only [answerBytes, cellStateBytes, pageBytes, State.pageAt, hpage] using ha

end Sys2Proof.Machine

/-! PROOFS. The ramp tick, its report, and the belt that becomes still (spec/08, R121, R122, R124, R127, R131, R132). -/

namespace Sys2Proof.Machine

open Sys2Proof.Safety

/-! ## The report of a target reached (R127, R131) -/

section
variable {s : State} {v : Nat}

/-- The stopping test that succeeds enters IDLE. -/
theorem State.stoppingTest_of_stopped (hrun : s.run.state = .stopping) (hcode : s.drive.code = 0) (hstill : s.drive.still = true) :
    s.stoppingTest = s.enterIdle := by
  rw [State.stoppingTest, if_pos ⟨hrun, hcode, hstill⟩]

theorem State.stoppingTest_of_not (h : ¬ (s.run.state = .stopping ∧ s.drive.code = 0 ∧ s.drive.still = true)) : s.stoppingTest = s := by
  rw [State.stoppingTest, if_neg h]

theorem State.targetReached_of_starting (hrun : s.run.state = .starting) (hv : v = s.plan.runCode) :
    s.targetReached v = (s.setRunState .running).completeRun .ok (countWord v) := by
  rw [State.targetReached, if_pos ⟨hrun, hv⟩]

theorem State.targetReached_of_zero (h : ¬ (s.run.state = .starting ∧ v = s.plan.runCode)) (hv : v = 0) :
    s.targetReached v = s.stoppingTest := by
  rw [State.targetReached, if_neg h, if_pos hv]

theorem State.targetReached_of_other (h : ¬ (s.run.state = .starting ∧ v = s.plan.runCode)) (hv : v ≠ 0) : s.targetReached v = s := by
  rw [State.targetReached, if_neg h, if_neg hv]

/-- A START that ends is answered with the code reached (R127). -/
theorem State.started_answers (hwf : s.mem.wf = true) {q : RunRequest} (hq : s.run.request = some q) :
    let t := (s.setRunState .running).completeRun .ok (countWord v)
    t.run.state = .running ∧ t.run.request = none ∧ t.run.hold.notRunning = false ∧
      t.run.feedEnable = !t.run.hold.anyStands ∧ holdsAnswer t q.cell q.tag .ok (countWord v) ∧
      keptOutside s t (answerBytes s q.cell) ∧ t.port = portRaised s.port .requestDone ∧
      t = { s with run := t.run, mem := t.mem, port := t.port } := by
  have hrequest : (s.setRunState .running).run.request = some q := hq
  have hrun := (s.setRunState .running).completeRun_run .ok (countWord v)
  have hport := (s.setRunState .running).completeRun_port .ok (countWord v)
  rw [hrequest] at hport
  obtain ⟨hanswer, hkept⟩ := answer_of_completeRequest (s := s) hwf (u := s.setRunState .running) rfl rfl
    (State.completeRun_mem_of_some hrequest .ok (countWord v)) (by simp)
  refine ⟨by rw [hrun]; rfl, by rw [hrun], by rw [hrun]; rfl, by rw [hrun]; rfl, hanswer, hkept, hport, ?_⟩
  rw [State.completeRun, hrequest]
  dsimp only
  rw [State.completeRequest_eq]
  rfl

/-- What run control makes of a report, by the state it finds (R127, R131). -/
theorem State.targetReached_taken (hwf : s.mem.wf = true) (v : Nat) : reportTaken s (s.targetReached v) v := by
  refine ⟨fun hstart hstop => ?_, fun hrun hv hcode hstill => ?_, fun hrun hv q hq => ?_⟩
  · by_cases hv : v = 0
    · rw [State.targetReached_of_zero hstart hv, State.stoppingTest_of_not fun h => hstop ⟨h.1, hv, h.2⟩]
    · exact State.targetReached_of_other hstart hv
  · rw [State.targetReached_of_zero (fun h => by simp [hrun] at h) hv, State.stoppingTest_of_stopped hrun hcode hstill]
    exact State.enterIdle_entered hwf
  · rw [State.targetReached_of_starting hrun hv]
    exact State.started_answers hwf hq

end

/-! ## RAMP_TICK (R122, R127) -/

/-- Settles O31: a report outstanding is taken first; otherwise the tick moves the code, and makes a report at the target. -/
theorem rampTickMovesCode : Obligations.RampTickMovesCode := by
  intro s x
  refine ⟨fun htimer hreport => ?_, fun v hwf hreport => ?_, ?_⟩
  · change execRampTick s x = _
    rw [execRampTick, hreport, htimer]
    rfl
  · refine ⟨s.takeReport, ?_, ?_⟩
    · change execRampTick s x = _
      rw [execRampTick, hreport]
      rfl
    · rw [State.takeReport, hreport]
      exact State.targetReached_taken (s := { s with drive := { s.drive with report := none } }) hwf v
  · intro d hwf htimer hreport now code
    refine ⟨fun hcode => ?_, fun hcode => ?_⟩
    · have htick : (s.reachTime d).tickRamp = { s with
          now := now, drive := { s.drive with code := code, rampTimer := some (now + s.plan.rampTick) } } := by
        rw [State.tickRamp]
        exact if_neg hcode
      have htake : (s.reachTime d).tickRamp.takeReport = (s.reachTime d).tickRamp := by
        rw [htick, State.takeReport, hreport]
      change execRampTick s x = _
      rw [execRampTick, hreport, htimer]
      cases x
      · exact congrArg Host.Outcome.next (htake.trans htick)
      · exact congrArg Host.Outcome.next htick
    · have htick : (s.reachTime d).tickRamp = { s with
          now := now, drive := { s.drive with code := code, rampTimer := none, report := some code } } := by
        rw [State.tickRamp]
        exact if_pos hcode
      have hexec : ∀ y, exec (.rampTick y) s = execRampTick s y := fun _ => rfl
      refine ⟨?_, (s.reachTime d).tickRamp.takeReport, ?_, ?_⟩
      · rw [hexec, execRampTick, hreport, htimer]
        exact congrArg Host.Outcome.next htick
      · rw [hexec, execRampTick, hreport, htimer]
        rfl
      · rw [htick, State.takeReport]
        have hnone : ({ s.drive with code := code, rampTimer := none, report := none } : Drive) =
            { s.drive with code := code, rampTimer := none } := by rw [← hreport]
        dsimp only
        rw [hnone]
        exact State.targetReached_taken (s := { s with now := now, drive := { s.drive with code := code, rampTimer := none } }) hwf code

end Sys2Proof.Machine

/-! PROOFS. The belt that becomes still (spec/08, R124, R131, R132; spec/09, R144, R145). -/

namespace Sys2Proof.Machine

open Sys2Proof.Safety

/-- With nothing held and no tray open the report unit has nothing to do at an entry to IDLE. -/
theorem State.fileAtIdle_of_nothing {s : State} (hheld : s.reports.held = []) (htray : s.reports.tray = none) (cause : CloseCause) :
    s.fileAtIdle cause = s.filed := by
  have hsearch : s.searchAndFile = s := by
    rw [State.searchAndFile, if_neg]
    simp [hheld]
  have hclose : s.filed.closeTray cause = s.filed := State.closeTray_of_none (s := s.filed) htray cause
  simp only [State.fileAtIdle, hsearch, State.fileReports_of_idle (.inr hheld), hclose, ite_self]

/-- With nothing tracked or held either, the answer is the only change of memory and port. -/
theorem State.enterIdle_of_nothing {s : State} (hwf : s.mem.wf = true) (hrecords : s.records = []) (hheld : s.reports.held = [])
    (htray : s.reports.tray = none) {q : RunRequest} (hq : s.run.request = some q) :
    holdsAnswer s.enterIdle q.cell q.tag .ok 0 ∧ keptOutside s s.enterIdle (answerBytes s q.cell) ∧
      s.enterIdle.port = portRaised s.port .requestDone := by
  have hstrand : s.stranded = s.setRunState .idle := by
    rw [State.stranded, State.strandAll, State.setRunState_records, hrecords]
    rfl
  have hrequest : (s.setRunState .idle).quieted.run.request = some q := hq
  have hfile := State.fileAtIdle_of_nothing (s := (s.setRunState .idle).quieted.completeRun .ok 0) (by simpa [State.quieted, State.cut])
    (by simpa [State.quieted, State.cut]) .idle
  have henter : s.enterIdle = ((s.setRunState .idle).quieted.completeRun .ok 0).filed.recomputeFeed := by
    rw [State.enterIdle_eq, hstrand, State.settleIdle_eq, hrecords]
    exact congrArg State.recomputeFeed hfile
  have hmem := State.completeRun_mem_of_some hrequest .ok 0
  have hport := (s.setRunState .idle).quieted.completeRun_port .ok 0
  rw [hrequest] at hport
  rw [henter]
  generalize (s.setRunState .idle).quieted.completeRun .ok 0 = u at *
  obtain ⟨hholds, hkept⟩ := answer_of_completeRequest hwf (t := u.filed.recomputeFeed) (u := (s.setRunState .idle).quieted) rfl rfl hmem
    (by rw [State.recomputeFeed_port, State.filed_port, hport]; rfl)
  exact ⟨hholds, hkept, hport⟩

/-- The state in which the still flag has just become yes (R124). -/
def State.stilled (s : State) (d : Nat) : State :=
  { s with now := max s.now d, drive := { s.drive with still := true, stillTimer := none } }

theorem exec_stillTimerExpiry {s : State} {d : Nat} (h : s.drive.stillTimer = some d) :
    exec .stillTimerExpiry s = .next (s.stilled d).stoppingTest.writeRecordIfDue := by
  change execStillTimerExpiry s = _
  rw [execStillTimerExpiry, h]
  rfl

/-- Settles O32: run control makes its stopping test, then the protect unit writes a record that is due. -/
theorem stillExpiryTells : Obligations.StillExpiryTells := by
  intro s
  refine ⟨fun h => ?_, fun d hwf htimer => ?_⟩
  · change execStillTimerExpiry s = _
    rw [execStillTimerExpiry, h]
  · have hexec := exec_stillTimerExpiry htimer
    have hrunning : ¬ (s.run.state = .stopping ∧ s.drive.code = 0) → (s.stilled d).stoppingTest = s.stilled d := fun h =>
      State.stoppingTest_of_not fun hs => h ⟨hs.1, hs.2.1⟩
    have hjammed : s.run.state = .jammed → ¬ (s.run.state = .stopping ∧ s.drive.code = 0) := fun hj h => by simp [hj] at h
    refine ⟨fun hnot hlatch => ?_, fun hrun hcode hlatch => ⟨_, hexec, ?_⟩, fun hrun hlatch henable hwritten hroom => ⟨_, hexec, ?_⟩,
      fun hrun hnot => ?_⟩
    · rw [hexec, hrunning hnot, State.writeRecordIfDue_of_not_due (fun h => by simpa [State.stilled, hlatch] using h.1)]
      rfl
    · have hentered := State.enterIdle_entered (s := s.stilled d) hwf
      have hanswer := fun hr hh ht q hq => State.enterIdle_of_nothing (s := s.stilled d) hwf hr hh ht (q := q) hq
      rw [State.stoppingTest_of_stopped (s := s.stilled d) hrun hcode rfl]
      have hprotect : (s.stilled d).enterIdle.protect = s.protect := by simp [State.stilled]
      generalize (s.stilled d).enterIdle = t at *
      rw [State.writeRecordIfDue_of_not_due (fun h => by simpa [hprotect, hlatch] using h.1)]
      have ⟨hstate, hrequest, hfeed, hrecords, hdrive, hqueue, _, hposition, _, _, _, _, _, _, _, hpending, _⟩ := hentered
      exact ⟨hstate, hrecords, hrequest, hentered, hdrive, hfeed, hqueue, hposition, hpending, hanswer⟩
    · rw [hrunning (hjammed hrun), State.jamRecorded_of_due (s := s.stilled d) ⟨hlatch, rfl, henable, hwritten⟩]
      exact ⟨rfl, State.jamRecorded_holds (s := s.stilled d) hwf hroom, (s.stilled d).jamRecorded_kept, (s.stilled d).jamRecorded_eq⟩
    · rw [hexec, hrunning (hjammed hrun), State.writeRecordIfDue_of_not_due]
      · rfl
      · rintro ⟨-, -, henable, hwritten⟩
        exact hnot.elim (fun h => absurd (h.symm.trans henable) (by decide)) fun h => absurd (h.symm.trans hwritten) (by decide)

end Sys2Proof.Machine

/-! PROOFS. DRAIN and STOP (spec/08, R125, R128 to R132). -/

namespace Sys2Proof.Machine

open Sys2Proof.Safety

theorem State.completeRun_eq (s : State) (r : ResultCode) (value : Word) :
    s.completeRun r value = { s with
      run := { s.run with request := none }, mem := (s.completeRun r value).mem, port := (s.completeRun r value).port } := by
  unfold State.completeRun
  split
  next h => rw [← h]
  next q h =>
    have hrequest := State.completeRequest_eq s q.cell q.tag r value
    generalize s.completeRequest q.cell q.tag r value = u at hrequest ⊢
    rw [hrequest]

/-- The words of two request cells lie apart. -/
theorem wordsApart_cells (s : State) {c d : Fin 8} (h : c ≠ d) {v w : Nat} (hv : v < 8) (hw : w < 8) :
    wordsApart (s.pageAt (requestOffset c v)) (s.pageAt (requestOffset d w)) := by
  have hne : c.val ≠ d.val := fun he => h (Fin.ext he)
  have hc := c.isLt
  have hd := d.isLt
  unfold requestOffset
  exact wordsApart_of_offsets _ (by omega) (by omega) (by omega)

/-- An answer in one request cell leaves the others as they are. -/
theorem State.pageWord_completeRequest_other (s : State) {c d : Fin 8} (h : d ≠ c) {w : Nat} (hw : w < 8) (tag : Word) (r : ResultCode)
    (value : Word) : (s.completeRequest c tag r value).pageWord (requestOffset d w) = s.pageWord (requestOffset d w) := by
  have hpage : (s.completeRequest c tag r value).pageAt (requestOffset d w) = s.pageAt (requestOffset d w) := by simp [State.pageAt]
  rw [State.pageWord, hpage]
  exact s.readWord_completeRequest (fun v hv => wordsApart_cells s h hw hv) _ _ _

/-! ## A request that supersedes what is pending (R125, R128, R130) -/

/-- The pending request, if any, is completed SUPERSEDED and the request taken is pending (R128, R130). -/
def State.asked (s : State) (k : RunKind) (cell : Fin 8) (tag : Word) : State :=
  ((s.takeCell cell).completeRun .superseded 0).makePending k cell tag

/-- Of `s` and `t`: the cell is TAKEN, and the request pending before is answered SUPERSEDED. -/
def supersedes (s t : State) (cell : Fin 8) : Prop :=
  t.pageWord (requestOffset cell 0) = cellTaken ∧
    (∀ q, s.run.request = some q → holdsAnswer t q.cell q.tag .superseded 0 ∧
      keptOutside s t (answerBytes s q.cell ++ cellStateBytes s cell)) ∧
    (s.run.request = none → taken s t cell)

section
variable {s : State} {cell : Fin 8}

theorem State.asked_eq (s : State) (k : RunKind) (cell : Fin 8) (tag : Word) :
    s.asked k cell tag = { s with
      run := { s.run with request := some ⟨k, cell, tag⟩ }
      mem := ((s.takeCell cell).completeRun .superseded 0).mem
      port := ((s.takeCell cell).completeRun .superseded 0).port } := by
  rw [State.asked, State.completeRun_eq]
  rfl

theorem canTake_ne {q : RunRequest} (htake : s.canTake cell = true) (hq : s.run.request = some q) : q.cell ≠ cell := by
  rw [State.canTake, hq] at htake
  simpa using (Bool.and_eq_true_iff.mp htake).2

/-- The pending request is in another cell than the one taken. -/
theorem supersedes_of_mem (hwf : s.mem.wf = true) (htake : s.canTake cell = true) {t : State}
    (hmem : t.mem = ((s.takeCell cell).completeRun .superseded 0).mem)
    (hport : t.port = ((s.takeCell cell).completeRun .superseded 0).port) : supersedes s t cell := by
  obtain ⟨htaken, hkept, -⟩ := taken_takeCell hwf cell
  have hpage : t.port.pageAddress = s.port.pageAddress := by rw [hport]; simp
  refine ⟨?_, fun q hq => ?_, fun hnone => ?_⟩
  · cases hq : s.run.request with
    | none =>
      rw [State.completeRun_of_none (s := s.takeCell cell) hq] at hmem
      rw [State.pageWord_congr hmem (by rw [hpage]; rfl), htaken]
    | some q =>
      rw [State.completeRun_mem_of_some (s := s.takeCell cell) hq] at hmem
      rw [State.pageWord_congr hmem (by rw [hpage]; simp), State.pageWord_completeRequest_other _ (canTake_ne htake hq).symm (by decide),
        htaken]
  · rw [State.completeRun_mem_of_some (s := s.takeCell cell) hq] at hmem
    obtain ⟨hholds, hbytes⟩ := answer_of_completeRequest (s := s.takeCell cell) (Memory.wf_writeWord hwf _ _) (u := s.takeCell cell) rfl rfl
      hmem hpage
    refine ⟨hholds, fun a ha => ?_⟩
    rw [List.mem_append, not_or] at ha
    exact (hbytes a ha.1).trans (hkept a ha.2)
  · rw [State.completeRun_of_none (s := s.takeCell cell) hnone] at hmem hport
    refine ⟨?_, fun a ha => by rw [hmem]; exact hkept a ha, hport⟩
    rw [State.pageWord_congr hmem (by rw [hpage]; rfl), htaken]

end

/-! ## The entry to STOPPING (R128 to R132) -/

/-- The run is STOPPING with target 0; the stopping test is still to be made. -/
def State.stopBegun (s : State) : State := (s.setRunState .stopping).setTarget 0

theorem State.enterStopping_eq (s : State) : s.enterStopping = s.stopBegun.stoppingTest := rfl

/-- The feed hold reasons are computed from the run state that is entered last. -/
theorem State.enterStopping_setRunState (s : State) (r : RunState) : (s.setRunState r).enterStopping = s.enterStopping := rfl

section
variable {s : State} {cell : Fin 8} {tag : Word}

theorem exec_stop_of_running (htake : s.canTake cell = true)
    (hrun : s.run.state = .starting ∨ s.run.state = .running ∨ s.run.state = .draining) :
    exec (.stop cell tag) s = .next (s.asked .stop cell tag).enterStopping := by
  rw [exec_stop, State.onRequest_of_canTake htake, State.decideStop]
  have hstate : (s.takeCell cell).run.state = s.run.state := rfl
  rcases hrun with h | h | h <;> rw [hstate, h] <;> rfl

theorem exec_drain_of_starting (htake : s.canTake cell = true) (hrun : s.run.state = .starting) :
    exec (.drain cell tag) s = .next (s.asked .drain cell tag).enterStopping := by
  have hstate : (s.takeCell cell).run.state = .starting := hrun
  rw [exec_drain, State.onRequest_of_canTake htake, State.decideDrain, hstate]
  rfl

theorem exec_drain_of_running (htake : s.canTake cell = true) (hrun : s.run.state = .running) :
    exec (.drain cell tag) s = .next (((s.takeCell cell).makePending .drain cell tag).setRunState .draining).drainTest := by
  have hstate : (s.takeCell cell).run.state = .running := hrun
  rw [exec_drain, State.onRequest_of_canTake htake, State.decideDrain, hstate]

/-- A DRAIN with nothing left to drain passes straight out of DRAINING (R129). -/
theorem exec_drain_of_nothing (htake : s.canTake cell = true) (hrun : s.run.state = .running) (hnone : s.run.request = none)
    (hrecords : s.records = []) (hpocket : s.pocket.state = .empty) :
    exec (.drain cell tag) s = .next (s.asked .drain cell tag).enterStopping := by
  have hasked : s.asked .drain cell tag = (s.takeCell cell).makePending .drain cell tag := by
    rw [State.asked, State.completeRun_of_none (s := s.takeCell cell) hnone]
  rw [exec_drain_of_running htake hrun, State.drainTest, if_pos ⟨rfl, hrecords, hpocket⟩, State.enterStopping_setRunState, hasked]

/-- A belt still under way is stopped by the ramp (R128, R130). -/
theorem asked_stops (hwf : s.mem.wf = true) (htake : s.canTake cell = true) (k : RunKind)
    (hmoving : ¬ (s.drive.code = 0 ∧ s.drive.still = true)) :
    let t := (s.asked k cell tag).enterStopping
    t.run.state = .stopping ∧ t.run.request = some ⟨k, cell, tag⟩ ∧ t.run.feedEnable = false ∧
      t.drive = { s.drive with target := 0, rampTimer := t.drive.rampTimer } ∧ supersedes s t cell ∧
      t = { s with run := t.run, drive := t.drive, mem := t.mem, port := t.port } := by
  have hasked := s.asked_eq k cell tag
  have hmem := congrArg State.mem hasked
  have hport := congrArg State.port hasked
  have hdrive := congrArg State.drive hasked
  generalize s.asked k cell tag = u at *
  have henter : u.enterStopping = u.stopBegun := by
    rw [State.enterStopping_eq, State.stoppingTest_of_not]
    rintro ⟨-, hcode, hstill⟩
    exact hmoving ⟨(congrArg Drive.code hdrive).symm.trans hcode, (congrArg Drive.still hdrive).symm.trans hstill⟩
  have hsupersedes := supersedes_of_mem hwf htake (t := u.stopBegun) hmem hport
  intro t
  change t = u.stopBegun at henter
  rw [henter]
  refine ⟨rfl, ?_, State.recomputeFeed_off (by simp), ?_, hsupersedes, ?_⟩
  · rw [State.stopBegun, hasked]
    rfl
  · rw [State.stopBegun, hasked]
    rfl
  · rw [State.stopBegun, hasked]
    rfl

/-- A belt already still at code 0 takes the run to IDLE at once (R131, R132). -/
theorem asked_idles (hwf : s.mem.wf = true) (htake : s.canTake cell = true) (k : RunKind) (hcode : s.drive.code = 0)
    (hstill : s.drive.still = true) :
    let t := (s.asked k cell tag).enterStopping
    ∃ u : State, idleEntered u t (some ⟨k, cell, tag⟩) ∧ supersedes s u cell ∧ u = { s with mem := u.mem, port := u.port } := by
  have hasked := s.asked_eq k cell tag
  have hwf' : (s.asked k cell tag).mem.wf = true := by
    rw [hasked]
    exact ((s.takeCell cell).completeRun_keepsLaws .superseded 0).memory (Memory.wf_writeWord hwf _ _)
  generalize s.asked k cell tag = v at *
  have henter : v.enterStopping = v.stopBegun.enterIdle := by
    rw [State.enterStopping_eq, State.stoppingTest_of_stopped rfl]
    · rw [hasked]; exact hcode
    · rw [hasked]; exact hstill
  have hentered := State.enterIdle_entered (s := v.stopBegun) hwf'
  intro t
  change t = _ at henter
  rw [henter]
  generalize v.stopBegun.enterIdle = w at *
  rw [State.stopBegun, hasked] at hentered
  exact ⟨{ s with mem := ((s.takeCell cell).completeRun .superseded 0).mem, port := ((s.takeCell cell).completeRun .superseded 0).port },
    hentered, supersedes_of_mem hwf htake rfl rfl, rfl⟩

end

/-- Settles O46: every accepted request but a DRAIN with work left enters STOPPING, which the stopping test may end at once. -/
theorem drainAndStopAreAccepted : Obligations.DrainAndStopAreAccepted := by
  intro s cell tag hwf htake stopped toIdle
  have hstopped : ∀ i k, exec i s = .next (s.asked k cell tag).enterStopping → stopped i k := by
    intro i k hexec hmoving
    obtain ⟨hstate, hrequest, hfeed, hdrive, ⟨htaken, hsuperseded, hnone⟩, hframe⟩ := asked_stops (tag := tag) hwf htake k hmoving
    exact ⟨_, hexec, hstate, hrequest, hfeed, hdrive, htaken, hsuperseded, hnone, hframe⟩
  have htoIdle : ∀ i k, exec i s = .next (s.asked k cell tag).enterStopping → s.drive.code = 0 → s.drive.still = true →
      ∃ t, exec i s = .next t ∧ t.run.state = .idle ∧ t.records = [] ∧ toIdle t k := by
    intro i k hexec hcode hstill
    obtain ⟨u, hentered, ⟨htaken, hsuperseded, hnone⟩, hframe⟩ := asked_idles (tag := tag) hwf htake k hcode hstill
    have ⟨hstate, _, _, hrecords, _⟩ := hentered
    exact ⟨_, hexec, hstate, hrecords, u, hentered, hsuperseded, fun h => (hnone h).2.1, hframe⟩
  refine ⟨fun hrun hnone hwork => ?_, fun hrun hnone hrecords hpocket => ?_, fun hrun => ?_, fun hrun => ?_, fun hrun => ?_, ?_⟩
  · refine ⟨_, exec_drain_of_running htake hrun, ?_⟩
    rw [State.drainTest, if_neg (fun h => hwork.elim (fun x => x h.2.1) fun x => x h.2.2)]
    exact ⟨taken_takeCell hwf cell, rfl, rfl, State.recomputeFeed_off (by simp), rfl⟩
  · exact hstopped _ _ (exec_drain_of_nothing htake hrun hnone hrecords hpocket)
  · exact hstopped _ _ (exec_drain_of_starting htake hrun)
  · exact hstopped _ _ (exec_stop_of_running htake hrun)
  · exact htoIdle _ _ (exec_stop_of_running htake hrun)
  · rintro (hrun | ⟨hrun, hnone, hrecords, hpocket⟩)
    · exact htoIdle _ _ (exec_drain_of_starting htake hrun)
    · exact htoIdle _ _ (exec_drain_of_nothing htake hrun hnone hrecords hpocket)

end Sys2Proof.Machine

/-! PROOFS. The end of the drain, and the POCKET uncover (spec/05, R76, R78; spec/08, R129, R131, R132). -/

namespace Sys2Proof.Machine

open Sys2Proof.Safety

/-! ## What an entry to IDLE leaves in run control -/

section
variable (s : State)

theorem State.enterIdle_state : s.enterIdle.run.state = .idle := by
  rw [State.enterIdle_eq, (State.settleIdle_frame _ _ _).2.2.2.2.2.2.2.2.2.2.2.2.2.2.2.2.2.2.1]
  simp [State.stranded]

theorem State.enterIdle_request : s.enterIdle.run.request = none := State.settleIdle_request _ _ _

theorem State.enterIdle_feed : s.enterIdle.run.feedEnable = false := by
  rw [State.enterIdle_eq, State.settleIdle_eq]
  exact State.recomputeFeed_off (by simp [State.quieted, State.cut, State.stranded])

theorem State.enterIdle_records : s.enterIdle.records = [] := by
  have hrecords : s.enterIdle.records = s.stranded.records := by simp [State.enterIdle_eq]
  rw [hrecords]
  exact s.stranded_pieces.records_eq_nil

end

/-! ## The end of the drain, at an uncover that makes the occupant absent (R129) -/

theorem State.setOccupant_levels (s : State) (c d : Cell) (o : Option Occupant) :
    ((s.setOccupant c o).cell d).covered = (s.cell d).covered ∧ ((s.setOccupant c o).cell d).coverAt = (s.cell d).coverAt ∧
      ((s.setOccupant c o).cell d).uncoverAt = (s.cell d).uncoverAt := by
  by_cases h : d = c
  · subst h
    rw [State.setOccupant, State.cell_setCell_same]
    exact ⟨rfl, rfl, rfl⟩
  · rw [State.setOccupant, State.cell_setCell_other _ _ h]
    exact ⟨rfl, rfl, rfl⟩

/-- The run is DRAINING with no piece tracked and the pocket EMPTY (R129). -/
abbrev drained (s : State) : Prop := s.run.state = .draining ∧ s.records = [] ∧ s.pocket.state = .empty

theorem State.drainTest_of_not {s : State} (h : ¬ drained s) : s.drainTest = s := if_neg h

theorem State.drainTest_of_drained {s : State} (h : drained s) : s.drainTest = s.enterStopping := if_pos h

/-- Of `u` and `t`: run control has been told that the drain may be at its end. -/
structure DrainTold (u t : State) : Prop where
  goesOn : ¬ drained u → t = u
  stops : drained u → ¬ (u.drive.code = 0 ∧ u.drive.still = true) →
    t.run.state = .stopping ∧ t.run.request = u.run.request ∧ t.run.feedEnable = false ∧
      t.drive = { u.drive with target := 0, rampTimer := t.drive.rampTimer } ∧ t = { u with run := t.run, drive := t.drive }
  idles : drained u → u.drive.code = 0 → u.drive.still = true →
    t.run.state = .idle ∧ t.run.request = none ∧ t.records = [] ∧ t.run.feedEnable = false ∧
      (u.mem.wf = true → idleEntered u t u.run.request) ∧ t.gates = u.gates ∧
      ∀ c, t.queue c = (u.queue c).filter (fun x => x.who != .untracked) ∧ (t.cell c).occupant = (u.cell c).occupant

theorem State.setOccupant_occupant {s t : State} {c : Cell} (o : Option Occupant) (h : ∀ d, (t.cell d).occupant = (s.cell d).occupant)
    (d : Cell) : ((t.setOccupant c o).cell d).occupant = ((s.setOccupant c o).cell d).occupant := by
  by_cases hd : d = c
  · subst hd
    rw [State.setOccupant, State.setOccupant, State.cell_setCell_same, State.cell_setCell_same]
  · rw [State.setOccupant, State.setOccupant, State.cell_setCell_other _ _ hd, State.cell_setCell_other _ _ hd, h]

/-- The entry to IDLE is the same whoever occupies a cell. -/
theorem idleEntered_setOccupant {s t : State} {q : Option RunRequest} (h : idleEntered s t q) (c : Cell) (o : Option Occupant) :
    idleEntered (s.setOccupant c o) (t.setOccupant c o) q := by
  obtain ⟨h1, h2, h3, h4, h5, h6, h7, h8, h9, h10, h11, h12, hlevels, h13⟩ := h
  refine ⟨h1, h2, h3, h4, h5, h6, h7, h8, h9, h10, h11, h12, fun d => ?_, h13⟩
  obtain ⟨ht1, ht2, ht3⟩ := t.setOccupant_levels c d o
  obtain ⟨hs1, hs2, hs3⟩ := s.setOccupant_levels c d o
  obtain ⟨hl1, hl2, hl3⟩ := hlevels d
  exact ⟨(ht1.trans hl1).trans hs1.symm, (ht2.trans hl2).trans hs2.symm, (ht3.trans hl3).trans hs3.symm⟩

/-- The drain's end told at an uncover, ahead of the occupant's leaving (R4, R129). -/
theorem drainTold_of_uncover (x : State) (c : Cell) : DrainTold (x.setOccupant c none) (x.drainTest.setOccupant c none) where
  goesOn := fun h => by rw [State.drainTest_of_not (s := x) h]
  stops := fun h hmoving => by
    rw [State.drainTest_of_drained (s := x) h, State.enterStopping_eq, State.stoppingTest_of_not (s := x.stopBegun) fun hs => hmoving hs.2]
    exact ⟨rfl, rfl, State.recomputeFeed_off (by simp), rfl, rfl⟩
  idles := fun h hcode hstill => by
    have hrecords : x.stopBegun.records = [] := h.2.1
    have hstrand : x.stopBegun.stranded = x.stopBegun.setRunState .idle := by
      rw [State.stranded, State.strandAll, State.setRunState_records, hrecords]
      rfl
    rw [State.drainTest_of_drained (s := x) h, State.enterStopping_eq, State.stoppingTest_of_stopped (s := x.stopBegun) rfl hcode hstill]
    have henter : x.stopBegun.enterIdle = (x.stopBegun.setRunState .idle).settleIdle x.stopBegun.records.length .idle := by
      rw [State.enterIdle_eq, hstrand]
    have hqueue := (x.stopBegun.setRunState .idle).settleIdle_queue x.stopBegun.records.length .idle
    have hkept : ((x.stopBegun.setRunState .idle).settleIdle x.stopBegun.records.length .idle).gates = x.gates ∧
        ((x.stopBegun.setRunState .idle).settleIdle x.stopBegun.records.length .idle).cellUnit.cells = x.cellUnit.cells := by
      simp [State.stopBegun]
    rw [← henter] at hqueue hkept
    have hstate := x.stopBegun.enterIdle_state
    have hrequest := x.stopBegun.enterIdle_request
    have hnone := x.stopBegun.enterIdle_records
    have hfeed := x.stopBegun.enterIdle_feed
    have hentered := fun hwf => State.enterIdle_entered (s := x.stopBegun) hwf
    generalize x.stopBegun.enterIdle = t at *
    refine ⟨hstate, hrequest, hnone, hfeed, fun hwf => ?_, hkept.1, fun d => ⟨hqueue d, ?_⟩⟩
    · exact idleEntered_setOccupant (hentered hwf) c none
    · exact State.setOccupant_occupant none (fun d => by rw [State.cell, hkept.2]; rfl) d

end Sys2Proof.Machine

/-! PROOFS. The POCKET uncover (spec/05, R76, R78; spec/01, R4). -/

namespace Sys2Proof.Machine

open Sys2Proof.Safety

/-- The pocket after its cell's uncover by the occupant (R76, R78). -/
def State.pocketLeft (s : State) : Pocket :=
  match s.pocket.state with
  | .entering => { s.pocket with
      state := .dwell, motor := motorFor .dwell s.protect.latch, cellClear := true, dwellTimer := some (s.now + s.plan.revDwell) }
  | .dwell | .waiting => { s.pocket with cellClear := true }
  | .releasing => { s.pocket with state := .empty, occupant := none, motor := motorFor .empty s.protect.latch }
  | .empty | .reserved => s.pocket

/-- The pocket's uncover taken, ahead of the telling of run control. -/
def State.withPocketLeft (s : State) : State := { s with pocket := s.pocketLeft }

theorem State.pocketUncovered_eq (s : State) :
    s.pocketUncovered = if s.pocket.state = .releasing then s.withPocketLeft.drainTest else s.withPocketLeft := by
  cases h : s.pocket.state <;> simp only [State.pocketUncovered, State.withPocketLeft, State.pocketLeft, h] <;> rfl

theorem exec_uncover_pocket {s : State} {p : PieceNo} (hrun : s.run.state.isRunning = true) (hcovered : (s.cell .pocket).covered = true)
    (ho : (s.cell .pocket).occupant = some (.piece p)) :
    exec (.uncover .pocket) s = .next (((s.uncovered .pocket).pocketUncovered).setOccupant .pocket none) := by
  rw [exec_uncover hcovered, State.uncoverCell_of_uncovered hrun (State.forcedCloseFirst_of_other (by decide)), ho]
  rfl

/-- What the uncover itself leaves, run control not told yet (R4, R76, R78). -/
theorem State.withPocketLeft_setOccupant {s : State} {p : PieceNo} (ho : (s.cell .pocket).occupant = some (.piece p)) :
    let u := (s.uncovered .pocket).withPocketLeft.setOccupant .pocket none
    u.pocket = s.pocketLeft ∧
      u.cell .pocket = { s.cell .pocket with covered := false, uncoverAt := s.position, occupant := none } ∧
      (∀ c, c ≠ .pocket → u.cell c = s.cell c) ∧ (∀ c, u.queue c = s.queue c) ∧
      (∀ e, e ∈ u.schedule ↔ e ∈ s.schedule ∧ ¬ (e.piece = p ∧ e.kind = .overstay .pocket)) ∧
      u = { s with cellUnit := u.cellUnit, schedule := u.schedule, pocket := u.pocket } := by
  have hcell := s.uncovered_cell_same .pocket
  have hother := fun {d} (h : d ≠ Cell.pocket) => s.uncovered_cell_other h
  have hqueue := s.uncovered_queue .pocket
  have hschedule := s.uncovered_schedule .pocket
  have heq := s.uncovered_eq .pocket
  generalize s.uncovered .pocket = v at *
  intro u
  refine ⟨?_, ?_, fun c hc => ?_, hqueue, fun e => ?_, ?_⟩
  · change v.pocketLeft = _
    rw [heq]
    rfl
  · refine (State.cell_setCell_same _ _ _).trans ?_
    change { v.cell .pocket with occupant := none } = _
    rw [hcell]
  · exact (State.cell_setCell_other _ _ hc).trans (hother hc)
  · refine (hschedule e).trans (and_congr_right fun _ => not_congr (and_congr_left fun _ => ?_))
    rw [ho, Option.some.injEq, Occupant.piece.injEq, eq_comm]
  · change { v.withPocketLeft with cellUnit := u.cellUnit } = { s with cellUnit := u.cellUnit, schedule := v.schedule, pocket := v.pocketLeft }
    rw [State.withPocketLeft, heq]

/-- Settles O26: the pocket takes the uncover, and at the end of a release run control is told. -/
theorem pocketUncoverTaken : Obligations.PocketUncoverTaken := by
  intro s p hrun hlatch hcovered ho ends
  obtain ⟨hpocket, hcell, hother, hqueue, hschedule, hframe⟩ := State.withPocketLeft_setOccupant ho
  have htold := drainTold_of_uncover (s.uncovered .pocket).withPocketLeft .pocket
  have hstate : (s.uncovered .pocket).pocket.state = s.pocket.state := by rw [State.uncovered_eq]
  refine ⟨_, (s.uncovered .pocket).withPocketLeft.setOccupant .pocket none, exec_uncover_pocket hrun hcovered ho, ?_⟩
  rw [State.pocketUncovered_eq, hstate]
  generalize hu : (s.uncovered .pocket).withPocketLeft.setOccupant .pocket none = u at *
  have hends : s.pocket.state = .releasing → (drained u ↔ ends) := by
    intro hreleasing
    rw [drained, hpocket, hframe, State.pocketLeft, hreleasing]
    exact ⟨fun h => ⟨hreleasing, h.1, h.2.1⟩, fun h => ⟨h.2.1, h.2.2, rfl⟩⟩
  have hkept : u.run = s.run ∧ u.drive = s.drive ∧ u.mem = s.mem ∧ u.gates = s.gates := by
    rw [hframe]
    exact ⟨rfl, rfl, rfl, rfl⟩
  obtain ⟨hurun, hudrive, humem, hugates⟩ := hkept
  refine ⟨fun h => ?_, fun h => ?_, fun h => ?_, fun h => ?_, hcell, hother, hqueue, hschedule, hframe, fun hnot => ?_, fun hend hmoving => ?_,
    fun hend hcode hstill => ?_⟩
  · rw [hpocket, State.pocketLeft, h, hlatch]
    rfl
  · rcases h with h | h <;> rw [hpocket, State.pocketLeft, h]
  · rcases h with h | h <;> rw [hpocket, State.pocketLeft, h]
  · rw [hpocket, State.pocketLeft, h, hlatch]
    rfl
  · by_cases hreleasing : s.pocket.state = .releasing
    · rw [if_pos hreleasing]
      exact htold.goesOn fun h => hnot ((hends hreleasing).mp h)
    · rw [if_neg hreleasing]
      exact hu
  · rw [if_pos hend.1]
    obtain ⟨hstopping, hrequest, hfeed, hdrive, ht⟩ := htold.stops ((hends hend.1).mpr hend) (by rw [hudrive]; exact hmoving)
    generalize ((s.uncovered .pocket).withPocketLeft.drainTest.setOccupant .pocket none) = t at *
    rw [hurun] at hrequest
    rw [hudrive] at hdrive
    exact ⟨hstopping, hrequest, hfeed, by rw [hdrive], hdrive, ht⟩
  · rw [if_pos hend.1]
    obtain ⟨hidle, hrequest, hrecords, hfeed, hentered, hgates, hcells⟩ := htold.idles ((hends hend.1).mpr hend)
      (by rw [hudrive]; exact hcode) (by rw [hudrive]; exact hstill)
    generalize ((s.uncovered .pocket).withPocketLeft.drainTest.setOccupant .pocket none) = t at *
    rw [hurun, humem] at hentered
    exact ⟨hidle, hrequest, hrecords, hfeed, hentered, hgates.trans hugates, fun c => ⟨(hcells c).1.trans (by rw [hqueue]), (hcells c).2⟩⟩

end Sys2Proof.Machine

/-! PROOFS. The completion of a piece at its destination cell (spec/07, R118 to R120; spec/10, R151, R152, R158). -/

namespace Sys2Proof.Machine

open Sys2Proof.Safety

theorem lengthBin_bins (pl : Plan) : lengthBin pl none = 0 ∧ ∀ n,
    (n < pl.b1 → lengthBin pl (some n) = 0) ∧ (pl.b1 ≤ n → n < pl.b2 → lengthBin pl (some n) = 1) ∧
      (pl.b1 ≤ n → pl.b2 ≤ n → n < pl.b3 → lengthBin pl (some n) = 2) ∧
      (pl.b1 ≤ n → pl.b2 ≤ n → pl.b3 ≤ n → n < pl.b4 → lengthBin pl (some n) = 3) ∧
      (pl.b1 ≤ n → pl.b2 ≤ n → pl.b3 ≤ n → pl.b4 ≤ n → lengthBin pl (some n) = 4) := by
  refine ⟨rfl, fun n => ⟨fun h1 => ?_, fun h1 h2 => ?_, fun h1 h2 h3 => ?_, fun h1 h2 h3 h4 => ?_, fun h1 h2 h3 h4 => ?_⟩⟩
  · rw [lengthBin, if_pos h1]
  · rw [lengthBin, if_neg (Nat.not_lt.mpr h1), if_pos h2]
  · rw [lengthBin, if_neg (Nat.not_lt.mpr h1), if_neg (Nat.not_lt.mpr h2), if_pos h3]
  · rw [lengthBin, if_neg (Nat.not_lt.mpr h1), if_neg (Nat.not_lt.mpr h2), if_neg (Nat.not_lt.mpr h3), if_pos h4]
  · rw [lengthBin, if_neg (Nat.not_lt.mpr h1), if_neg (Nat.not_lt.mpr h2), if_neg (Nat.not_lt.mpr h3), if_neg (Nat.not_lt.mpr h4)]

/-- The first of a list in order of a key that passes a test. -/
theorem find?_eq_some_iff_of_sorted {α : Type} {key : α → Nat} {l : List α} (hl : l.Pairwise fun x y => key x < key y) (p : α → Bool)
    (k : α) : l.find? p = some k ↔ k ∈ l ∧ p k = true ∧ ∀ x ∈ l, key x < key k → p x = false := by
  induction l with
  | nil => simp
  | cons a l ih =>
    rw [List.pairwise_cons] at hl
    obtain ⟨ha, hl⟩ := hl
    by_cases hpa : p a = true
    · rw [List.find?_cons_of_pos hpa, Option.some.injEq]
      constructor
      · rintro rfl
        refine ⟨List.mem_cons_self, hpa, fun x hx hlt => ?_⟩
        rcases List.mem_cons.mp hx with rfl | hx
        · exact absurd hlt (lt_irrefl _)
        · exact absurd hlt (not_lt_of_gt (ha x hx))
      · rintro ⟨hk, -, hfirst⟩
        rcases List.mem_cons.mp hk with rfl | hk
        · rfl
        · exact absurd ((hfirst a List.mem_cons_self (ha k hk)).symm.trans hpa) (by decide)
    · rw [List.find?_cons_of_neg hpa, ih hl, List.mem_cons]
      constructor
      · rintro ⟨hk, hpk, hfirst⟩
        refine ⟨.inr hk, hpk, fun x hx hlt => ?_⟩
        rcases List.mem_cons.mp hx with rfl | hx
        · exact Bool.eq_false_of_not_eq_true hpa
        · exact hfirst x hx hlt
      · rintro ⟨hk, hpk, hfirst⟩
        exact ⟨hk.resolve_left fun he => hpa (he ▸ hpk), hpk, fun x hx => hfirst x (List.mem_cons_of_mem _ hx)⟩

/-- The counter of a cull reason counts exactly when that reason is the first of the record's (R21, R152). -/
theorem mem_reasonCounters (r : Record) (k : CullReason) :
    EventCounter.cull k ∈ reasonCounters r ↔ r.culls.has k = true ∧
      ∀ l, (cullReasonCode (some l)).toNat < (cullReasonCode (some k)).toNat → r.culls.has l = false := by
  have hsorted : cullPrecedence.Pairwise fun x y => (cullReasonCode (some x)).toNat < (cullReasonCode (some y)).toNat := by decide
  have hall : ∀ l, l ∈ cullPrecedence := fun l => by cases l <;> decide
  have hprimary : EventCounter.cull k ∈ reasonCounters r ↔ r.culls.primary = some k := by
    rw [reasonCounters_eq]
    cases r.culls.primary <;> simp [eq_comm]
  rw [hprimary, CullSet.primary, find?_eq_some_iff_of_sorted hsorted]
  simp only [hall, true_and, true_implies]

/-! ## The completion (R118, R119) -/

/-- The state in which a completed piece has gone, run control not told yet. -/
def State.completed (s : State) (p : PieceNo) : State := (s.endPiece p completionOutcome).recomputeFeed

theorem exec_uncover_destination {s : State} {c : Cell} {p : PieceNo} (hrun : s.run.state.isRunning = true)
    (hcovered : (s.cell c).covered = true) (hc : c = .endCell ∨ ∃ k, c = .stk k) (ho : (s.cell c).occupant = some (.piece p)) :
    exec (.uncover c) s = .next (((s.uncovered c).completed p).drainTest.setOccupant c none) := by
  have hscan : c ≠ .scan := by rcases hc with rfl | ⟨k, rfl⟩ <;> simp
  rw [exec_uncover hcovered, State.uncoverCell_of_uncovered hrun (State.forcedCloseFirst_of_other hscan), ho]
  rcases hc with rfl | ⟨k, rfl⟩ <;> rfl

/-- A culled piece is reported CULLED, any other SORTED (R119). -/
theorem completionOutcome_eq (r : Record) : completionOutcome r = if r.culls = CullSet.none then .sorted else .culled := by
  rw [completionOutcome, Record.isCulled]
  by_cases h : r.culls = CullSet.none
  · rw [if_pos h, (primary_eq_none_iff _).mpr h]
    rfl
  · rw [if_neg h, if_pos (Option.isSome_iff_ne_none.mpr (mt (primary_eq_none_iff _).mp h))]

/-- The impression's end touches the result and the flags of the record only (R106). -/
theorem endedRecord_eq (s : State) (r : Record) :
    endedRecord s r = { r with result := (endedRecord s r).result, flags := (endedRecord s r).flags } := by
  unfold endedRecord
  split <;> rfl

section
variable {s : State} {c : Cell} {p : PieceNo} {r : Record}

theorem State.uncovered_ended (hr : s.record? p = some r) :
    PieceEnded (s.uncovered c) ((s.uncovered c).endPiece p completionOutcome) r
      ⟨endedRecord s r, if r.culls = CullSet.none then .sorted else .culled⟩ := by
  have hv := s.uncovered_eq c
  have hrecord : (s.uncovered c).record? p = some r := by rw [hv]; exact hr
  have hlast : endedRecord (s.uncovered c) r = endedRecord s r := by rw [hv]; rfl
  have hculls : (endedRecord s r).culls = r.culls := by rw [endedRecord_eq]
  have hended := State.endPiece_ended hrecord completionOutcome
  rw [hlast, completionOutcome_eq, hculls] at hended
  exact hended

/-- What the completion leaves once the occupant is absent (R4, R20, R62, R119, R158). -/
theorem State.completed_setOccupant (ho : (s.cell c).occupant = some (.piece p)) (hr : s.record? p = some r) :
    let x : Report := ⟨endedRecord s r, if r.culls = CullSet.none then .sorted else .culled⟩
    let u := ((s.uncovered c).completed p).setOccupant c none
    u.records = s.records.filter (fun y => y.number != p) ∧
      u.reports = { s.reports with held := s.reports.held ++ [x], filingDue := true } ∧
      tallied s u (reportCounters s.plan x.piece x.outcome) (reasonCounters x.piece) 0 ∧
      (∀ e, e ∈ u.schedule ↔ e ∈ s.schedule ∧ e.piece ≠ p) ∧
      (∀ g, u.gate g = if ∃ e ∈ s.schedule, e.piece = p ∧ e.kind = .gateClose g then .closed else s.gate g) ∧
      u.cell c = { s.cell c with covered := false, uncoverAt := s.position, occupant := none } ∧
      (∀ d, d ≠ c → u.cell d = { s.cell d with
        occupant := if (s.cell d).occupant = some (.piece p) then none else (s.cell d).occupant }) ∧
      (∀ d, u.queue d = (s.queue d).filter (fun y => y.who != .piece p)) ∧
      u.printer.slots = put s.printer.slots r.slot { s.printer.slots.get r.slot with inUse := (s.printer.slots.get r.slot).inUse - 1 } ∧
      u.scan = (if s.scan.window.map (·.piece) = some p then ScanContext.free else s.scan) ∧
      u.printer.job = (if s.printer.job.map (·.piece) = some p then none else s.printer.job) ∧
      (s.pocket.occupant = some p → s.pocket.state ≠ .empty → u.pocket.state = .empty ∧ u.pocket.occupant = none) ∧
      (s.pocket.occupant ≠ some p ∨ s.pocket.state = .empty → u.pocket = s.pocket) ∧
      (feedFollows s → feedFollows u) ∧
      u = { s with
        cellUnit := u.cellUnit, records := u.records, scan := u.scan, schedule := u.schedule, gates := u.gates,
        pocket := u.pocket, printer := { s.printer with slots := u.printer.slots, job := u.printer.job },
        run := { s.run with hold := u.run.hold, feedEnable := u.run.feedEnable }, tally := u.tally, reports := u.reports,
        port := u.port } := by
  obtain rfl : r.number = p := State.number_of_record? hr
  have hended := State.uncovered_ended (c := c) hr
  have hv := s.uncovered_eq c
  have hcell := s.uncovered_cell_same c
  have hother := fun {d} (h : d ≠ c) => s.uncovered_cell_other h
  have hqueue := s.uncovered_queue c
  have hschedule := s.uncovered_schedule c
  obtain ⟨erecords, ereports, ecounts, eschedule, egates, equeues, ecells, eslots, ejob, escan, eemptied, ekept, efeed, eframe⟩ := hended
  have hcounts : tallied s ((s.uncovered c).endPiece r.number completionOutcome) _ _ 0 :=
    tallied_congr ecounts (by rw [hv]) (by rw [hv]) (by rw [hv]) rfl rfl
  intro x u
  have hu : u = ((s.uncovered c).endPiece r.number completionOutcome).recomputeFeed.setOccupant c none := rfl
  have hplan : (s.uncovered c).plan = s.plan := by rw [hv]
  have hfeed : feedFollows s → feedFollows u := fun hf => by
    refine (State.recomputeFeed_keeps _).feed (efeed ?_)
    rw [hv]
    exact hf
  rw [hplan] at hcounts
  clear_value u
  generalize s.uncovered c = v at *
  generalize v.endPiece r.number completionOutcome = w at *
  refine ⟨?_, ?_, ?_, fun e => ?_, fun g => ?_, ?_, fun d hd => ?_, fun d => ?_, ?_, ?_, ?_, fun hp hstate => ?_, fun hp => ?_, hfeed, ?_⟩
  · rw [hu]
    refine erecords.trans ?_
    rw [hv]
  · rw [hu]
    refine ereports.trans ?_
    rw [hv]
  · rw [hu]
    exact tallied_congr hcounts rfl rfl rfl rfl rfl
  · have hmem : e ∈ u.schedule ↔ e ∈ w.schedule := by rw [hu]; rfl
    rw [hmem, eschedule, List.mem_filter, hschedule, bne_iff_ne]
    constructor
    · exact fun h => ⟨h.1.1, h.2⟩
    · refine fun h => ⟨⟨h.1, fun hx => h.2 ?_⟩, h.2⟩
      rw [ho] at hx
      exact (Occupant.piece.inj (Option.some.inj hx.1)).symm
  · have hgate : u.gate g = w.gate g := by rw [hu]; rfl
    have hsame : v.gate g = s.gate g := by rw [hv]; rfl
    rw [hgate, egates, hsame]
    refine if_congr (exists_congr fun e => ?_) rfl rfl
    rw [hschedule]
    refine ⟨fun h => ⟨h.1.1, h.2⟩, fun h => ⟨⟨h.1, fun hx => ?_⟩, h.2⟩⟩
    exact absurd (h.2.2.symm.trans hx.2) (by simp)
  · rw [hu, State.setOccupant, State.cell_setCell_same]
    change { w.cell c with occupant := none } = _
    rw [ecells, hcell]
  · rw [hu, State.setOccupant, State.cell_setCell_other _ _ hd]
    change w.cell d = _
    rw [ecells, hother hd]
  · rw [hu]
    change w.queue d = _
    rw [equeues, hqueue]
  · rw [hu]
    refine eslots.trans ?_
    rw [hv]
  · rw [hu]
    refine escan.trans ?_
    rw [hv]
  · rw [hu]
    refine ejob.trans ?_
    rw [hv]
  · rw [hu]
    exact eemptied (by rw [hv]; exact hp) (by rw [hv]; exact hstate)
  · rw [hu]
    refine (ekept (by rw [hv]; exact hp)).trans ?_
    rw [hv]
  · rw [hu, eframe, hv]
    rfl

/-- The counters of a SORTED or CULLED report (R152). -/
theorem reportCounters_completed (pl : Plan) (t : State) (r : Record) {o : PieceOutcome} (hout : o = .sorted ∨ o = .culled) :
    reportCounters pl (endedRecord t r) o =
        [.completed, .outcome o, .dest r.destination, .attitude (r.decision.bind (·.attitude)), .cls (r.decision.bind (·.cls)),
          .lengthBin (lengthBin pl r.length), .cancel (endedRecord t r).result] ∧
      reasonCounters (endedRecord t r) = reasonCounters r := by
  have heq := endedRecord_eq t r
  generalize endedRecord t r = last at heq ⊢
  rw [heq, reportCounters, if_pos hout]
  exact ⟨rfl, rfl⟩

end

/-- Settles O28: the piece ends at its destination, and run control is told. -/
theorem destinationUncoverCompletes : Obligations.DestinationUncoverCompletes := by
  refine ⟨lengthBin_bins, fun s c p r hrun hcovered hc ho hr => ?_⟩
  obtain rfl : r.number = p := State.number_of_record? hr
  intro printing last x
  have hout : x.outcome = .sorted ∨ x.outcome = .culled := by
    simp only [x]
    split <;> simp
  obtain ⟨hcounters, hreasons⟩ := reportCounters_completed s.plan s r hout
  obtain ⟨hrecords, hreports, hcounts, hschedule, hgates, hcell, hother, hqueue, hslots, hscan, hjob, hemptied, hkept, hfeed, hframe⟩ :=
    State.completed_setOccupant ho hr
  have htold := drainTold_of_uncover ((s.uncovered c).completed r.number) c
  refine ⟨_, ((s.uncovered c).completed r.number).setOccupant c none, exec_uncover_destination hrun hcovered hc ho, ?_⟩
  generalize ((s.uncovered c).completed r.number).drainTest.setOccupant c none = t at *
  generalize ((s.uncovered c).completed r.number).setOccupant c none = u at *
  have hkeeps : u.run.state = s.run.state ∧ u.run.request = s.run.request ∧ u.drive = s.drive ∧ u.mem = s.mem := by
    rw [hframe]
    exact ⟨rfl, rfl, rfl, rfl⟩
  obtain ⟨hstate, hrequest, hdrive, hmem⟩ := hkeeps
  have hdrained : drained u ↔ s.run.state = .draining ∧ u.records = [] ∧ u.pocket.state = .empty := by rw [drained, hstate]
  refine ⟨hrecords, hreports, ?_, mem_reasonCounters r, hschedule, hgates, hcell, hother, hqueue, ?_, fun i hi => ?_, hscan, hjob, hemptied,
    hkept, hfeed, hframe, fun hnot => ?_, fun hend hmoving => ?_, fun hend hcode hstill => ?_⟩
  · rw [← hreasons]
    exact hcounters ▸ hcounts
  · rw [hslots, get_put_same]
  · rw [hslots, get_put_other _ _ hi]
  · exact htold.goesOn (mt hdrained.mp hnot)
  · obtain ⟨h1, h2, h3, h4, h5⟩ := htold.stops (hdrained.mpr hend) (by rw [hdrive]; exact hmoving)
    rw [hdrive] at h4
    exact ⟨h1, h2.trans hrequest, h3, h4, h5⟩
  · obtain ⟨h1, h2, h3, h4, h5, -, -⟩ := htold.idles (hdrained.mpr hend) (by rw [hdrive]; exact hcode) (by rw [hdrive]; exact hstill)
    rw [hrequest, hmem] at h5
    exact ⟨h1, h2, h3, h4, h5⟩

end Sys2Proof.Machine

/-! PROOFS. The guard opening (spec/09, R138, R139, R140, R147). -/

namespace Sys2Proof.Machine

open Sys2Proof.Safety

/-- The guard is open (R138). -/
def State.guardOpened (s : State) : State := { s with protect := { s.protect with guardIsOpen := true } }

theorem exec_guardOpening {s : State} (h : s.protect.guardIsOpen = false) :
    exec .guardOpening s =
      .next (if s.protect.latch then s.guardOpened.furtherTrip else s.guardOpened.trip .guardOpened none s.position none) := by
  change execGuardOpening s = _
  rw [execGuardOpening, if_neg (by simp [h])]
  rfl

/-- A further trip, its rewrite of the jam record still to be made (R147). -/
def State.tripCounted (s : State) : State :=
  { s with
    protect := { s.protect with
      furtherTrips := min 255 (s.protect.furtherTrips + 1), crawling := false
      rewriteDue := s.protect.rewriteDue || s.protect.recordWritten }
    drive := { s.drive with code := 0, target := 0, rampTimer := none, report := none }
    port := portRaised s.port .jam }

theorem State.furtherTrip_eq (s : State) : s.furtherTrip = s.tripCounted.rewriteRecordIfDue := rfl

/-- What the rewrite makes of a further trip (R147). -/
theorem State.furtherTrip_counted {s : State} (hwf : s.mem.wf = true) :
    let t := s.furtherTrip
    t.protect = { s.protect with
        furtherTrips := min 255 (s.protect.furtherTrips + 1), crawling := false
        rewriteDue := (s.protect.rewriteDue || s.protect.recordWritten) && !s.port.enable } ∧
      t.drive = { s.drive with code := 0, target := 0, rampTimer := none, report := none } ∧
      t.port = portRaised s.port .jam ∧
      (s.port.enable = true → s.protect.rewriteDue = true ∨ s.protect.recordWritten = true →
        t.pageWord 0x418 = countWord (min 255 (s.protect.furtherTrips + 1)) ∧ t.pageWord 0x41C = posWord s.position) ∧
      keptOutside s t (pageBytes s 0x418 ++ pageBytes s 0x41C) ∧
      t = { s with protect := t.protect, drive := t.drive, port := t.port, mem := t.mem } := by
  have hport : s.tripCounted.port.enable = s.port.enable := rfl
  by_cases hdue : s.tripCounted.protect.rewriteDue = true ∧ s.tripCounted.port.enable = true
  · obtain ⟨hd, he⟩ := hdue
    have hwritten : s.protect.rewriteDue || s.protect.recordWritten = true := by simpa [State.tripCounted] using hd
    obtain ⟨hcount, hposition⟩ := State.rewriteStored_words (s := s.tripCounted) hwf
    rw [State.furtherTrip_eq, State.rewriteRecordIfDue_of_due hd he]
    refine ⟨?_, rfl, rfl, fun _ _ => ⟨hcount, hposition⟩, s.tripCounted.rewriteStored_kept, rfl⟩
    rw [hport] at he
    rw [he]
    simp [State.tripCounted]
  · rw [State.furtherTrip_eq, State.rewriteRecordIfDue_of_not_due hdue]
    have hnot : (s.protect.rewriteDue || s.protect.recordWritten) = true → s.port.enable = false := fun hw =>
      Bool.eq_false_of_not_eq_true fun he => hdue ⟨hw, he⟩
    refine ⟨?_, rfl, rfl, fun he hw => absurd (he.symm.trans (hnot (by simpa using hw))) (by decide), fun _ _ => rfl, rfl⟩
    have hsame : (s.protect.rewriteDue || s.protect.recordWritten) =
        ((s.protect.rewriteDue || s.protect.recordWritten) && !s.port.enable) := by
      cases hw : s.protect.rewriteDue || s.protect.recordWritten
      · rfl
      · rw [hnot hw]
        rfl
    rw [← hsame]
    rfl

/-- Settles O29: the level set, then the trip that the latch and the run state call for. -/
theorem guardOpeningTrips : Obligations.GuardOpeningTrips := by
  intro s hwf
  refine ⟨fun hopen => ?_, fun hopen hlatch hrun => ?_, fun hopen hlatch hrun => ⟨_, exec_guardOpening hopen, ?_⟩,
    fun hopen hlatch => ⟨_, exec_guardOpening hopen, ?_⟩⟩
  · change execGuardOpening s = _
    rw [execGuardOpening, if_pos hopen]
  · rw [exec_guardOpening hopen, if_neg (by simp [hlatch]), State.trip_of_not (s := s.guardOpened) (.inl hrun)]
    rfl
  · rw [if_neg (by simp [hlatch])]
    exact ⟨State.trip_tripped (s := s.guardOpened) hwf hrun hlatch _ _ _ _, by simp [State.guardOpened], by simp [State.guardOpened],
      by simp [State.guardOpened], by simp [State.guardOpened], by simp [State.guardOpened], by simp [State.guardOpened]⟩
  · rw [if_pos hlatch]
    exact State.furtherTrip_counted (s := s.guardOpened) hwf

end Sys2Proof.Machine

/-! PROOFS. Stores that share no byte may be made in either order (section 0.10, log entry 3). -/

namespace Sys2Proof.Machine

open Sys2Proof.Safety

/-! ## Equal data are equal memories -/

theorem Memory.read_cons_same (k : Nat) (v : Byte) (t : Memory) : Memory.read ((k, v) :: t) k = v := if_pos rfl

theorem Memory.read_cons_other {k a : Nat} (h : k ≠ a) (v : Byte) (t : Memory) : Memory.read ((k, v) :: t) a = Memory.read t a := if_neg h

/-- Below its first address a canonical memory reads 0, at it something else. -/
theorem Memory.wfFrom_cons {lo k : Nat} {v : Byte} {t : Memory} (h : Memory.wfFrom lo ((k, v) :: t) = true) :
    lo ≤ k ∧ v ≠ 0 ∧ Memory.wfFrom (k + 1) t = true := by
  simp only [Memory.wfFrom, Bool.and_eq_true, decide_eq_true_eq, bne_iff_ne] at h
  exact ⟨h.1.1.1, h.1.2, h.2⟩

theorem Memory.eq_of_wfFrom {m n : Memory} {lo : Nat} (hm : Memory.wfFrom lo m = true) (hn : Memory.wfFrom lo n = true)
    (h : ∀ a, m.read a = n.read a) : m = n := by
  induction m generalizing n lo with
  | nil =>
    cases n with
    | nil => rfl
    | cons y n =>
      obtain ⟨k, v⟩ := y
      have hk := h k
      rw [Memory.read_cons_same] at hk
      exact absurd hk.symm (Memory.wfFrom_cons hn).2.1
  | cons x m ih =>
    obtain ⟨k, v⟩ := x
    obtain ⟨-, hv, hm'⟩ := Memory.wfFrom_cons hm
    cases n with
    | nil =>
      have hk := h k
      rw [Memory.read_cons_same] at hk
      exact absurd hk hv
    | cons y n =>
      obtain ⟨k', v'⟩ := y
      obtain ⟨-, hv', hn'⟩ := Memory.wfFrom_cons hn
      have hread := h k
      have hread' := h k'
      rw [Memory.read_cons_same] at hread hread'
      rcases lt_trichotomy k k' with hlt | rfl | hlt
      · rw [Memory.read_cons_other hlt.ne', Memory.read_eq_zero_of_lt hn' (by omega)] at hread
        exact absurd hread hv
      · rw [Memory.read_cons_same] at hread
        obtain rfl := hread
        have htail : m = n := ih hm' hn' fun a => by
          by_cases ha : k = a
          · rw [Memory.read_eq_zero_of_lt hm' (by omega), Memory.read_eq_zero_of_lt hn' (by omega)]
          · simpa only [Memory.read_cons_other ha] using h a
        rw [htail]
      · rw [Memory.read_cons_other hlt.ne', Memory.read_eq_zero_of_lt hm' (by omega)] at hread'
        exact absurd hread'.symm hv'

/-! ## What a store makes of a memory -/

/-- Of a change of memory: it stores the bytes listed, each as it is stored in any memory, and no other byte. -/
structure Stores (f : Memory → Memory) (bytes : List Nat) : Prop where
  wf : ∀ {m : Memory}, m.wf = true → (f m).wf = true
  stored : ∀ {m n : Memory}, m.wf = true → n.wf = true → ∀ a ∈ bytes, (f m).read a = (f n).read a
  kept : ∀ (m : Memory) (a : Nat), a ∉ bytes → (f m).read a = m.read a

theorem Stores.comp {f g : Memory → Memory} {l k : List Nat} (hf : Stores f l) (hg : Stores g k) : Stores (fun m => g (f m)) (l ++ k) where
  wf := fun hm => hg.wf (hf.wf hm)
  stored := fun hm hn a ha => by
    by_cases hk : a ∈ k
    · exact hg.stored (hf.wf hm) (hf.wf hn) a hk
    · rw [hg.kept _ a hk, hg.kept _ a hk]
      exact hf.stored hm hn a ((List.mem_append.mp ha).resolve_right hk)
  kept := fun m a ha => by
    rw [List.mem_append, not_or] at ha
    exact (hg.kept _ a ha.2).trans (hf.kept m a ha.1)

theorem Stores.comm {f g : Memory → Memory} {l k : List Nat} (hf : Stores f l) (hg : Stores g k) (hapart : ∀ a ∈ l, a ∉ k) {m : Memory}
    (hm : m.wf = true) : g (f m) = f (g m) := by
  refine Memory.eq_of_wfFrom (hg.wf (hf.wf hm)) (hf.wf (hg.wf hm)) fun a => ?_
  by_cases hl : a ∈ l
  · rw [hg.kept _ a (hapart a hl)]
    exact hf.stored hm (hg.wf hm) a hl
  · rw [hf.kept _ a hl]
    by_cases hk : a ∈ k
    · exact hg.stored (hf.wf hm) hm a hk
    · rw [hg.kept _ a hk, hg.kept _ a hk, hf.kept _ a hl]

theorem write_stores {a : Nat} (ha : a < 4294967296) (v : Byte) : Stores (fun m => m.write a v) [a] where
  wf := fun hm => Memory.wf_write hm ha v
  stored := fun hm hn b hb => by
    rw [List.mem_singleton] at hb
    subst hb
    rw [Memory.read_write_get hm, Memory.read_write_get hn]
  kept := fun m b hb => Memory.read_write_other m v fun h => hb (List.mem_singleton.mpr h)

theorem writeWord_stores (a w : Word) : Stores (fun m => m.writeWord a w) (wordBytes a) :=
  (((write_stores a.isLt (w.extractLsb' 0 8)).comp (write_stores (a + 1).isLt (w.extractLsb' 8 8))).comp
    (write_stores (a + 2).isLt (w.extractLsb' 16 8))).comp (write_stores (a + 3).isLt (w.extractLsb' 24 8))

theorem writeWords_stores (a : Word) (ws : List Word) : Stores (fun m => m.writeWords a ws) (wordsBytes a ws) := by
  induction ws generalizing a with
  | nil => exact ⟨fun hm => hm, fun _ _ a ha => absurd ha (by simp [wordsBytes]), fun _ _ _ => rfl⟩
  | cons w ws ih => exact (writeWord_stores a w).comp (ih (a + 4))

/-! ## The jam record and the request cells (R145, R172) -/

/-- What the jam record of `s` makes of a memory. -/
def State.jamStores (s : State) (m : Memory) : Memory :=
  ((m.writeWords (s.pageAt 0x404) s.jamHeader).writeWords (s.pageAt 0x430) (s.records.flatMap jamEntryWords)).writeWord
    (s.pageAt 0x400) recordComplete

theorem State.jamStored_eq_stores (s : State) : s.jamStored = { s with mem := s.jamStores s.mem } := by
  rw [State.jamStored_eq, State.jamStored_mem, State.jamStores]

theorem State.jamStores_stores (s : State) :
    Stores s.jamStores ((wordsBytes (s.pageAt 0x404) s.jamHeader ++ wordsBytes (s.pageAt 0x430) (s.records.flatMap jamEntryWords)) ++
      wordBytes (s.pageAt 0x400)) :=
  ((writeWords_stores _ _).comp (writeWords_stores _ _)).comp (writeWord_stores _ _)

/-- The words of a list stored in the page lie apart from a word below them. -/
theorem State.not_mem_wordsBytes {s : State} {off off' a : Nat} {ws : List Word} (h : off + 3 < off')
    (hoff : off' + 4 * ws.length < 4294967296) (ha : a ∈ wordBytes (s.pageAt off)) : a ∉ wordsBytes (s.pageAt off') ws := by
  rw [mem_wordsBytes]
  rintro ⟨k, hk, hmem⟩
  rw [State.pageAt_add] at hmem
  exact s.pageAt_apart (m := off) (n := off' + 4 * k) (by omega) (by omega) (.inl (by omega)) a ha hmem

/-- A word below the jam record is none of its words. -/
theorem State.jamStores_apart {s : State} (hroom : s.records.length ≤ 32) {off : Nat} (h : off + 3 < 0x400) :
    ∀ a ∈ (wordsBytes (s.pageAt 0x404) s.jamHeader ++ wordsBytes (s.pageAt 0x430) (s.records.flatMap jamEntryWords)) ++
      wordBytes (s.pageAt 0x400), a ∉ wordBytes (s.pageAt off) := by
  intro a ha hmem
  have hlength := flatMap_jamEntryWords_length s.records
  rw [List.mem_append, List.mem_append] at ha
  rcases ha with (ha | ha) | ha
  · exact State.not_mem_wordsBytes (off' := 0x404) (by omega) (by rw [State.jamHeader_length]; omega) hmem ha
  · exact State.not_mem_wordsBytes (off' := 0x430) (by omega) (by omega) hmem ha
  · exact s.pageAt_apart (m := off) (n := 0x400) (by omega) (by omega) (.inl (by omega)) a hmem ha

/-- The jam record may be stored ahead of the taking of a cell (R145, R172). -/
theorem State.takeCell_jamRecorded {s : State} (hwf : s.mem.wf = true) (hroom : s.records.length ≤ 32) (cell : Fin 8) :
    (s.takeCell cell).jamRecorded = s.jamRecorded.takeCell cell := by
  have hoff : requestOffset cell 0 + 3 < 0x400 := by
    have := cell.isLt
    unfold requestOffset
    omega
  have hmem : s.jamStores (s.mem.writeWord (s.pageAt (requestOffset cell 0)) cellTaken) =
      (s.jamStores s.mem).writeWord (s.pageAt (requestOffset cell 0)) cellTaken :=
    ((s.jamStores_stores).comm (writeWord_stores _ _) (State.jamStores_apart hroom hoff) hwf).symm
  have hleft : (s.takeCell cell).jamRecorded = { s with
      mem := s.jamStores (s.mem.writeWord (s.pageAt (requestOffset cell 0)) cellTaken)
      protect := { s.protect with recordWritten := true } } := by
    rw [State.jamRecorded, State.jamStored_eq_stores]
    rfl
  have hright : s.jamRecorded.takeCell cell = { s with
      mem := (s.jamStores s.mem).writeWord (s.pageAt (requestOffset cell 0)) cellTaken
      protect := { s.protect with recordWritten := true } } := by
    rw [State.jamRecorded, State.jamStored_eq_stores]
    rfl
  rw [hleft, hright, hmem]

end Sys2Proof.Machine

/-! PROOFS. The purge of every tracked piece (spec/09, R150; spec/05, R79). -/

namespace Sys2Proof.Machine

open Sys2Proof.Safety

/-! ## One piece purged (R150) -/

/-- The trip piece of a MISSING trip is marked MISSING (R150). -/
def missingMark (s : State) (r : Record) : Record :=
  if s.protect.cause = some .missing ∧ s.protect.piece = some r.number then { r with flags := { r.flags with missing := true } } else r

theorem missingMark_eq (s : State) (r : Record) : missingMark s r = { r with flags := (missingMark s r).flags } := by
  unfold missingMark
  split <;> rfl

/-- The state in which the piece purged has its mark. -/
def State.markedMissing (s : State) (p : PieceNo) : State :=
  if s.protect.cause = some .missing ∧ s.protect.piece = some p then
    s.updateRecord p (fun r => { r with flags := { r.flags with missing := true } })
  else s

theorem State.purgePiece_eq (s : State) (p : PieceNo) : s.purgePiece p = (s.markedMissing p).endPiece p fun _ => .purged := rfl

theorem State.markedMissing_eq (s : State) (p : PieceNo) : s.markedMissing p = { s with records := (s.markedMissing p).records } := by
  unfold State.markedMissing
  split <;> rfl

theorem State.markedMissing_record? {s : State} {p : PieceNo} {r : Record} (h : s.record? p = some r) :
    (s.markedMissing p).record? p = some (missingMark s r) := by
  obtain rfl : r.number = p := State.number_of_record? h
  unfold State.markedMissing missingMark
  split
  · rw [State.record?_updateRecord_same (f := fun r => { r with flags := { r.flags with missing := true } }) _ _ (by intro; rfl), h]
    rfl
  · exact h

theorem State.markedMissing_records (s : State) (p : PieceNo) :
    (s.markedMissing p).records.filter (fun y => y.number != p) = s.records.filter (fun y => y.number != p) := by
  unfold State.markedMissing
  split
  · exact filter_map_other (by intro; rfl)
  · rfl

theorem State.purgePiece_ended {s : State} {p : PieceNo} {r : Record} (h : s.record? p = some r) :
    PieceEnded s (s.purgePiece p) r ⟨endedRecord s (missingMark s r), .purged⟩ := by
  have hnumber : (missingMark s r).number = r.number := by rw [missingMark_eq]
  have hslot : (missingMark s r).slot = r.slot := by rw [missingMark_eq]
  have hfeed := (s.purgePiece_keeps p).feed
  have hended := State.endPiece_ended (State.markedMissing_record? h) fun _ => .purged
  have hrecords := s.markedMissing_records p
  obtain rfl : r.number = p := State.number_of_record? h
  have heq := s.markedMissing_eq r.number
  have hlast : endedRecord (s.markedMissing r.number) (missingMark s r) = endedRecord s (missingMark s r) := by rw [heq]; rfl
  rw [← State.purgePiece_eq, hlast] at hended
  generalize s.markedMissing r.number = v at *
  generalize s.purgePiece r.number = t at *
  generalize endedRecord s (missingMark s r) = last at *
  obtain ⟨erecords, ereports, ecounts, eschedule, egates, equeues, ecells, eslots, ejob, escan, eemptied, ekept, -, eframe⟩ := hended
  have hplan : v.plan = s.plan := by rw [heq]
  rw [hplan] at ecounts
  rw [hnumber] at *
  rw [hslot] at eslots
  constructor
  case records => rw [erecords, hrecords]
  case reports => rw [ereports, heq]
  case counts => exact tallied_congr ecounts (by rw [heq]) (by rw [heq]) (by rw [heq]) rfl rfl
  case schedule => rw [eschedule, heq]
  case gates => intro g; rw [egates, heq]; rfl
  case queues => intro c; rw [equeues, heq]; rfl
  case cells => intro c; rw [ecells, heq]; rfl
  case slots => rw [eslots, heq]
  case job => rw [ejob, heq]
  case scan => rw [escan, heq]
  case pocketEmptied => rw [heq] at eemptied; exact eemptied
  case pocketKept => rw [heq] at ekept; exact ekept
  case feed => exact hfeed
  case frame => rw [eframe, heq]

/-- Purging a piece ends it PURGED (R150). -/
theorem purgePiece_endsPiece : EndsPiece State.purgePiece missingMark .purged where
  tracked := fun h => State.purgePiece_ended h
  untracked := fun {s p} h => by
    have hmark : s.markedMissing p = s := by
      unfold State.markedMissing
      split
      · exact updateRecord_of_untracked h _
      · rfl
    rw [State.purgePiece_eq, hmark]
    exact State.endPiece_untracked h _
  markKeeps := fun s r => by rw [missingMark_eq]
  markCongr := fun {s t} h => by
    funext r
    rw [missingMark, missingMark, h]

/-! ## Every piece purged -/

theorem State.purgeAll_eq (s : State) : s.purgeAll = (s.records.map (·.number)).foldl State.purgePiece s := by
  rw [State.purgeAll, List.foldl_map]

theorem State.purgeAll_pieces (s : State) : PiecesEnded s s.purgeAll (s.records.map (·.number)) := by
  rw [State.purgeAll_eq]
  exact purgePiece_endsPiece.pieces _ s

/-- With nothing printing the reports of the purge are those of R150, counted in the counters of the records as they stood. -/
theorem State.purgeAll_reports {s : State} (hn : (s.records.map (·.number)).Nodup) (hjob : s.printer.job = none) :
    s.purgeAll.reports.held = s.reports.held ++ s.records.map (purgeReport s) ∧
      tallied s s.purgeAll (s.records.flatMap fun r => reportCounters s.plan r .purged) (s.records.flatMap reasonCounters) 0 := by
  obtain ⟨hheld, hcounts⟩ := purgePiece_endsPiece.reports rfl hn
  rw [← State.purgeAll_eq] at hheld hcounts
  have hended : ∀ r, endedRecord s (missingMark s r) = missingMark s r := fun r => by rw [endedRecord, if_neg (by simp [hjob])]
  have hlist : s.endedAs missingMark s.records = s.records.map (missingMark s) := List.map_congr_left fun r _ => hended r
  have hreport : ∀ r, (⟨missingMark s r, .purged⟩ : Report) = purgeReport s r := fun r => by
    rw [missingMark, purgeReport]
    split <;> rfl
  have hpieces : ∀ r, reportCounters s.plan (missingMark s r) .purged = reportCounters s.plan r .purged := fun r => by
    rw [missingMark_eq]
    rfl
  have hreasons : ∀ r, reasonCounters (missingMark s r) = reasonCounters r := fun r => by
    rw [missingMark_eq]
    rfl
  rw [hlist] at hheld hcounts
  rw [List.flatMap_map, List.flatMap_map] at hcounts
  simp only [hpieces, hreasons] at hcounts
  rw [List.map_map] at hheld
  exact ⟨hheld.trans (congrArg _ (List.map_congr_left fun r _ => hreport r)), hcounts⟩

end Sys2Proof.Machine

/-! PROOFS. The purge as one act (spec/09, R150; spec/08, R132, R134). -/

namespace Sys2Proof.Machine

open Sys2Proof.Safety

/-- Every piece purged, the latch clear and the run IDLE (R150, steps 1 to 5). -/
def State.unjammed (s : State) : State := s.purgeAll.clearLatch.setRunState .idle

/-- The trip state of the protect unit reset (R150). -/
def Protect.cleared (x : Protect) : Protect :=
  { x with
    latch := false, cause := none, cell := none, position := 0, piece := none, furtherTrips := 0, crawlCount := 0
    crawling := false, recordWritten := false, rewriteDue := false }

theorem State.clearLatch_eq (s : State) :
    s.clearLatch = { s.filterQueues (fun _ => false) with
      schedule := [], protect := s.protect.cleared, pocket := { s.pocket with motor := motorFor s.pocket.state false } } := rfl

theorem State.purge_eq (s : State) :
    s.purge = (s.unjammed.settleIdle 0 .purge).storeWord ((s.unjammed.settleIdle 0 .purge).pageAt jamOffset) recordCleared := rfl

section
variable (s : State)

theorem State.unjammed_frame :
    s.unjammed.records = [] ∧ s.unjammed.schedule = [] ∧ (∀ c, s.unjammed.queue c = []) ∧ s.unjammed.protect = s.protect.cleared ∧
      s.unjammed.drive = s.drive ∧ s.unjammed.run.state = .idle ∧ s.unjammed.run.request = s.run.request ∧
      s.unjammed.position = s.position ∧ s.unjammed.plan = s.plan ∧ s.unjammed.planValid = s.planValid ∧
      s.unjammed.router = s.router ∧ s.unjammed.admission = s.admission ∧ s.unjammed.printer.banks = s.printer.banks ∧
      s.unjammed.printer.waiting = s.printer.waiting ∧ s.unjammed.pending = s.pending ∧ s.unjammed.mem = s.mem ∧
      s.unjammed.reports.tray = s.reports.tray := by
  have hpurge := s.purgeAll_frame
  have hrecords := s.purgeAll_pieces.records_eq_nil
  have hprotect : s.purgeAll.protect = s.protect := by simp
  refine ⟨hrecords, rfl, fun c => ?_, ?_, by simp [State.unjammed, State.clearLatch_eq], rfl, by simp [State.unjammed, State.clearLatch_eq],
    by simp [State.unjammed, State.clearLatch_eq], by simp [State.unjammed, State.clearLatch_eq], by simp [State.unjammed, State.clearLatch_eq],
    by simp [State.unjammed, State.clearLatch_eq], by simp [State.unjammed, State.clearLatch_eq], by simp [State.unjammed, State.clearLatch_eq],
    by simp [State.unjammed, State.clearLatch_eq], by simp [State.unjammed, State.clearLatch_eq], by simp [State.unjammed, State.clearLatch_eq],
    by simp [State.unjammed, State.clearLatch_eq]⟩
  · refine (State.queue_filterQueues s.purgeAll _ c).trans ?_
    simp
  · change s.purgeAll.protect.cleared = _
    rw [hprotect]

theorem State.unjammed_levels (c : Cell) :
    (s.unjammed.cell c).covered = (s.cell c).covered ∧ (s.unjammed.cell c).coverAt = (s.cell c).coverAt ∧
      (s.unjammed.cell c).uncoverAt = (s.cell c).uncoverAt := s.purgeAll_pieces.levels c

end

/-- The pocket of a tracked occupant is EMPTY with its motor IN (R73, R79, R150). -/
theorem State.unjammed_pocket {s : State} (hheld : pocketHeld s) (htracked : ∀ p, s.pocket.occupant = some p → s.record? p ≠ none) :
    s.unjammed.pocket.state = .empty ∧ s.unjammed.pocket.occupant = none ∧ s.unjammed.pocket.motor = .inward := by
  obtain ⟨hstate, hocc⟩ := s.purgeAll_pieces.pocket_empty htracked hheld
  refine ⟨hstate, hocc, ?_⟩
  change motorFor s.purgeAll.pocket.state false = _
  rw [hstate]
  rfl

/-- What the purge leaves (R150). -/
theorem State.purge_leaves (s : State) :
    s.purge.run.state = .idle ∧ s.purge.run.request = none ∧ s.purge.run.feedEnable = false ∧ s.purge.records = [] ∧
      s.purge.schedule = [] ∧ (∀ c, s.purge.queue c = []) ∧ s.purge.protect = s.protect.cleared ∧
      s.purge.drive = { s.drive with code := 0, target := 0, rampTimer := none, report := none } ∧
      s.purge.pocket = s.unjammed.pocket ∧ s.purge.tally = s.unjammed.tally ∧ s.purge.cellUnit.cells = s.unjammed.cellUnit.cells ∧
      s.purge.position = s.position ∧ s.purge.plan = s.plan ∧ s.purge.planValid = s.planValid ∧ s.purge.router = s.router ∧
      s.purge.admission = s.admission ∧ s.purge.printer.banks = s.printer.banks ∧ s.purge.printer.waiting = s.printer.waiting ∧
      s.purge.pending = s.pending ∧ carryStays s.unjammed s.purge := by
  obtain ⟨hrecords, hschedule, hqueue, hprotect, hdrive, hstate, hrequest, hposition, hplan, hvalid, hrouter, hadmission, hbanks, hwaiting,
    hpending, hmem, htray⟩ := s.unjammed_frame
  have hsettled := s.unjammed.settleIdle_frame 0 .purge
  have hfeed : (s.unjammed.settleIdle 0 .purge).run.feedEnable = false := by
    rw [State.settleIdle_eq]
    exact State.recomputeFeed_off (by simp [State.quieted, State.cut, hstate])
  have hsrequest := s.unjammed.settleIdle_request 0 .purge
  have hsdrive := s.unjammed.settleIdle_drive 0 .purge
  have hsqueue := s.unjammed.settleIdle_queue 0 .purge
  have hscarry := s.unjammed.settleIdle_carryStays 0 .purge
  rw [State.purge_eq]
  generalize s.unjammed.settleIdle 0 .purge = t at *
  obtain ⟨tpending, tnow, tposition, -, -, tadmission, trecords, -, tschedule, -, tpocket, tprinter, trouter, tprotect, ttally, tplan, tvalid, -,
    tstate, -, -, -, -, -, -, -, -, -, -, -, tcells⟩ := hsettled
  refine ⟨tstate.trans hstate, hsrequest, hfeed, trecords.trans hrecords, tschedule.trans hschedule, fun c => ?_, tprotect.trans hprotect, ?_,
    tpocket, ttally, tcells, tposition.trans hposition, tplan.trans hplan, tvalid.trans hvalid, trouter.trans hrouter,
    tadmission.trans hadmission, ?_, ?_, tpending.trans hpending, hscarry⟩
  · refine (hsqueue c).trans ?_
    rw [hqueue]
    rfl
  · refine hsdrive.trans ?_
    rw [hdrive]
  · exact (congrArg Printer.banks tprinter).trans hbanks
  · exact (congrArg Printer.waiting tprinter).trans hwaiting

/-- The purge's counts (R152, R154). -/
theorem State.purge_counts {s : State} (hn : (s.records.map (·.number)).Nodup) (hjob : s.printer.job = none) :
    talliedAmong s s.purge (s.records.flatMap fun r => reportCounters s.plan r .purged) (s.records.flatMap reasonCounters) 0 := by
  obtain ⟨-, hcounts⟩ := State.purgeAll_reports hn hjob
  obtain ⟨-, -, -, -, -, -, -, -, -, htally, -, -, -, -, -, -, -, -, -, hcarry⟩ := s.purge_leaves
  exact talliedAmong_of_carryStays (t := s.unjammed) (tallied_congr hcounts rfl rfl rfl rfl rfl) htally hcarry

/-- With no request pending and no tray to take them, the reports of the purge stay held and memory but the record state stays. -/
theorem State.purge_quiet {s : State} (hrequest : s.run.request = none) (h : s.unjammed.noTray) :
    s.purge.reports.held = s.unjammed.reports.held ∧ s.purge.mem = s.mem.writeWord (s.pageAt jamOffset) recordCleared := by
  obtain ⟨-, -, -, -, -, -, hurequest, -, -, -, -, -, -, -, -, hmem, -⟩ := s.unjammed_frame
  have hnone : s.unjammed.quieted.run.request = none := hurequest.trans hrequest
  have hsettle : s.unjammed.settleIdle 0 .purge = (s.unjammed.quieted.fileAtIdle .purge).recomputeFeed := by
    rw [State.settleIdle_eq, State.completeRun_of_none hnone]
  obtain ⟨hfmem, hheld⟩ := State.fileAtIdle_of_noTray (s := s.unjammed.quieted) h .purge
  have hpage : (s.unjammed.settleIdle 0 .purge).pageAt jamOffset = s.pageAt jamOffset := by
    have : (s.unjammed.settleIdle 0 .purge).port.pageAddress = s.port.pageAddress := by
      rw [(s.unjammed.settleIdle_frame 0 .purge).2.2.2.2.2.2.2.2.2.2.2.2.2.2.2.2.2.2.2.2.2.2.2.1]
      simp [State.unjammed, State.clearLatch_eq]
    rw [State.pageAt, this, State.pageAt]
  rw [State.purge_eq, hpage, hsettle]
  exact ⟨hheld, congrArg (fun m => Memory.writeWord m (s.pageAt jamOffset) recordCleared) (hfmem.trans hmem)⟩

end Sys2Proof.Machine

/-! PROOFS. CLEAR JAM (spec/09, R145, R148 to R150). -/

namespace Sys2Proof.Machine

open Sys2Proof.Safety

section
variable {s : State} (cell : Fin 8) (tag : Word)

theorem State.decideClearJam_of_moving (hrun : s.run.state = .jammed) (hstill : s.drive.still = false) :
    s.decideClearJam cell tag = s.completeRequest cell tag .notStill 0 := by
  rw [State.decideClearJam, if_neg (not_not.mpr hrun), if_pos hstill]

theorem State.decideClearJam_of_covered (hrun : s.run.state = .jammed) (hstill : s.drive.still = true) {c : Cell}
    (h : s.firstCovered = some c) : s.decideClearJam cell tag = s.completeRequest cell tag .cellsCovered (cellCode c) := by
  rw [State.decideClearJam, if_neg (not_not.mpr hrun), if_neg (by simp [hstill]), h]

theorem State.decideClearJam_of_clear (hrun : s.run.state = .jammed) (hstill : s.drive.still = true)
    (h : ∀ c, (s.cell c).covered = false) :
    s.decideClearJam cell tag = s.writeRecordIfDue.purge.completeRequest cell tag .ok (countWord s.records.length) := by
  have hnone : s.firstCovered = none := by
    rw [State.firstCovered, List.find?_eq_none]
    simp [h]
  rw [State.decideClearJam, if_neg (not_not.mpr hrun), if_neg (by simp [hstill]), hnone]

end

/-- A record written where due changes memory and its own mark only (R145). -/
theorem State.writeRecordIfDue_eq (s : State) :
    s.writeRecordIfDue = { s with
      mem := s.writeRecordIfDue.mem
      protect := { s.protect with recordWritten := s.writeRecordIfDue.protect.recordWritten } } := by
  by_cases h : jamRecordDue s
  · rw [State.jamRecorded_of_due h, State.jamRecorded_eq]
  · rw [State.writeRecordIfDue_of_not_due h]

/-- A word is read from its four bytes. -/
theorem Memory.readWord_congr {m n : Memory} {a : Word} (h : ∀ b ∈ wordBytes a, m.read b = n.read b) : m.readWord a = n.readWord a := by
  simp only [wordBytes, List.forall_mem_cons] at h
  obtain ⟨h0, h1, h2, h3, -⟩ := h
  rw [Memory.readWord, h0, h1, h2, h3, Memory.readWord]

/-- The jam record is written above the rack. -/
theorem State.writeRecordIfDue_rack {s : State} (hroom : s.records.length ≤ 32) (i : Fin 16) :
    s.writeRecordIfDue.pageWord (rackOffset i 0) = s.pageWord (rackOffset i 0) := by
  by_cases h : jamRecordDue s
  · have hoff : rackOffset i 0 + 3 < 0x400 := by
      have := i.isLt
      unfold rackOffset
      omega
    rw [State.jamRecorded_of_due h, State.jamRecorded_pageWord, State.jamStored_pageWord, State.jamStored_eq_stores]
    refine Memory.readWord_congr fun a ha => ?_
    exact (s.jamStores_stores).kept _ a fun hmem => State.jamStores_apart hroom hoff a hmem ha
  · rw [State.writeRecordIfDue_of_not_due h]

theorem State.purge_wf {s : State} (hwf : s.mem.wf = true) : s.purge.mem.wf = true := s.purge_keepsUnlatched.memory hwf

theorem State.purge_jamWord {s : State} (hwf : s.mem.wf = true) : s.purge.pageWord jamOffset = recordCleared := by
  obtain ⟨-, -, -, -, -, -, -, -, -, -, -, -, -, -, -, hmem, -⟩ := s.unjammed_frame
  rw [State.purge_eq]
  exact State.pageWord_storeWord_same ((State.settleIdle_keepsLaws _ _ _).memory (hmem.symm ▸ hwf : s.unjammed.mem.wf = true)) _ _

/-- The state in which the cell is TAKEN and the jam record written (R145, R172). -/
def State.readied (s : State) (cell : Fin 8) : State := (s.takeCell cell).writeRecordIfDue

section
variable {s : State} {cell : Fin 8}

theorem State.readied_eq (s : State) (cell : Fin 8) :
    s.readied cell = { s with
      mem := (s.readied cell).mem
      protect := { s.protect with recordWritten := (s.readied cell).protect.recordWritten } } :=
  (s.takeCell cell).writeRecordIfDue_eq

theorem State.readied_wf (hwf : s.mem.wf = true) : (s.readied cell).mem.wf = true :=
  (State.writeRecordIfDue_keeps _).memory (Memory.wf_writeWord hwf _ _)

theorem State.readied_rack (hroom : s.records.length ≤ 32) (i : Fin 16) :
    (s.readied cell).pageWord (rackOffset i 0) = s.pageWord (rackOffset i 0) := by
  have hi := i.isLt
  rw [State.readied, State.writeRecordIfDue_rack (s := s.takeCell cell) hroom]
  exact State.pageWord_storeWord_other _ _ (wordsApart_requestOffset s (by unfold rackOffset; omega) (by unfold rackOffset; omega) cell
    (by decide))

/-- A CLEAR JAM that is not refused (R149). -/
theorem exec_clearJam_of_clear {tag : Word} (htake : s.canTake cell = true) (hrun : s.run.state = .jammed) (hstill : s.drive.still = true)
    (h : ∀ c, (s.cell c).covered = false) :
    exec (.clearJam cell tag) s =
      .next ((s.readied cell).purge.completeRequest cell tag .ok (countWord s.records.length)) := by
  rw [exec_clearJam, State.onRequest_of_canTake htake, State.decideClearJam_of_clear (s := s.takeCell cell) cell tag hrun hstill h]
  rfl

end

/-! ## What the purge leaves, and what its answer adds -/

section
variable {s : State} {cell : Fin 8} {tag : Word}

/-- The answered purge (R149, R150). -/
def State.jamCleared (s : State) (cell : Fin 8) (tag : Word) : State :=
  (s.readied cell).purge.completeRequest cell tag .ok (countWord s.records.length)

theorem State.jamCleared_eq (s : State) (cell : Fin 8) (tag : Word) :
    s.jamCleared cell tag = { (s.readied cell).purge with
      mem := (s.jamCleared cell tag).mem, port := portRaised (s.readied cell).purge.port .requestDone } :=
  State.completeRequest_eq _ _ _ _ _

theorem State.jamCleared_answers (hwf : s.mem.wf = true) :
    holdsAnswer (s.jamCleared cell tag) cell tag .ok (countWord s.records.length) ∧
      keptOutside (s.readied cell).purge (s.jamCleared cell tag) (answerBytes s cell) ∧
      (s.jamCleared cell tag).pageWord jamOffset = recordCleared := by
  have hpage : (s.readied cell).purge.port.pageAddress = s.port.pageAddress := by simp [State.readied]
  have hwf' : (s.readied cell).purge.mem.wf = true := State.purge_wf (State.readied_wf hwf)
  obtain ⟨hholds, hkept⟩ := answer_of_completeRequest (t := s.jamCleared cell tag) hwf' rfl rfl rfl (by simp [State.jamCleared])
  refine ⟨hholds, fun a ha => hkept a ?_, ?_⟩
  · simpa only [answerBytes, cellStateBytes, pageBytes, State.pageAt, hpage] using ha
  · exact (State.pageWord_completeRequest _ cell (by decide) (by decide) _ _ _).trans (State.purge_jamWord (State.readied_wf hwf))

/-- The counts of the purge (R152, R154). -/
theorem State.jamCleared_counts (hn : (s.records.map (·.number)).Nodup) (hjob : s.printer.job = none) :
    talliedAmong s (s.jamCleared cell tag) (s.records.flatMap fun r => reportCounters s.plan r .purged)
      (s.records.flatMap reasonCounters) 0 := by
  have heq := s.readied_eq cell
  have hcounts := State.purge_counts (s := s.readied cell) (by rw [heq]; exact hn) (by rw [heq]; exact hjob)
  have hcarry : carryStays (s.readied cell).purge (s.jamCleared cell tag) := by
    rw [State.jamCleared_eq]
    exact ⟨rfl, rfl⟩
  have htally : (s.jamCleared cell tag).tally = (s.readied cell).purge.tally := by rw [State.jamCleared_eq]
  generalize s.jamCleared cell tag = t at *
  generalize (s.readied cell).purge = u at *
  obtain ⟨hadded, hcalled, hnot⟩ := hcounts
  generalize s.readied cell = b at *
  rw [heq] at hadded hcalled hnot
  refine ⟨?_, fun hc => ?_, fun hc => ?_⟩
  · simpa only [countsAdded, pieceCount, eventCount, htally] using hadded
  · rw [hcarry.1, hcarry.2]
    exact hcalled hc
  · rw [hcarry.1, hcarry.2]
    exact hnot hc

/-- Where no tray takes them the reports of the purge stay held (R150, R158). -/
theorem State.jamCleared_reports (hrequest : s.run.request = none) (hn : (s.records.map (·.number)).Nodup) (hjob : s.printer.job = none)
    (hroom : s.records.length ≤ 32) (htray : s.reports.tray = none) (hrack : ∀ i : Fin 16, s.pageWord (rackOffset i 0) ≠ rackReady) :
    (s.jamCleared cell tag).reports.held = s.reports.held ++ s.records.map (purgeReport s) := by
  have heq := s.readied_eq cell
  have hpurged : (s.readied cell).unjammed.noTray := by
    obtain ⟨-, -, -, -, -, -, -, -, -, -, -, -, -, -, -, hmem, htray'⟩ := (s.readied cell).unjammed_frame
    refine .inr ⟨by rw [htray', heq]; exact htray, .inl fun i => ?_⟩
    rw [State.pageWord_congr hmem (by simp [State.unjammed, State.clearLatch_eq]), State.readied_rack hroom]
    exact hrack i
  obtain ⟨hheld, -⟩ := State.purge_quiet (s := s.readied cell) (by rw [heq]; exact hrequest) hpurged
  obtain ⟨hreports, -⟩ := State.purgeAll_reports (s := s.readied cell) (by rw [heq]; exact hn) (by rw [heq]; exact hjob)
  have hlast : (s.jamCleared cell tag).reports = (s.readied cell).purge.reports := by rw [State.jamCleared_eq]
  have hpurgeReport : purgeReport (s.readied cell) = purgeReport s := by
    funext r
    rw [purgeReport, heq, purgeReport]
  rw [hlast, hheld]
  refine hreports.trans ?_
  rw [hpurgeReport, heq]

/-- With nothing to purge and nothing to file, the record state and the answer are the only changes of memory. -/
theorem State.jamCleared_kept (hwf : s.mem.wf = true) (hrequest : s.run.request = none)
    (hwritten : s.protect.latch = false ∨ s.protect.recordWritten = true) (hrecords : s.records = []) (hheld : s.reports.held = [])
    (htray : s.reports.tray = none) : keptOutside s (s.jamCleared cell tag) (pageBytes s jamOffset ++ answerBytes s cell) := by
  obtain ⟨-, hkept, -⟩ := State.jamCleared_answers (tag := tag) (cell := cell) hwf
  have hready : s.readied cell = s.takeCell cell := by
    refine State.writeRecordIfDue_of_not_due fun h => ?_
    exact hwritten.elim (fun hl => absurd (hl.symm.trans h.1) (by decide)) fun hw => absurd (hw.symm.trans h.2.2.2) (by decide)
  have hpurgeAll : (s.takeCell cell).purgeAll = s.takeCell cell := by
    rw [State.purgeAll, show (s.takeCell cell).records = [] from hrecords]
    rfl
  have hnoTray : (s.takeCell cell).unjammed.noTray := by
    refine .inr ⟨?_, .inr ?_⟩
    · rw [State.unjammed, hpurgeAll]
      exact htray
    · rw [State.unjammed, hpurgeAll]
      exact hheld
  obtain ⟨-, hmem⟩ := State.purge_quiet (s := s.takeCell cell) hrequest hnoTray
  rw [hready] at hkept
  intro a ha
  rw [List.mem_append, not_or] at ha
  refine (hkept a ha.2).trans ?_
  rw [hmem]
  refine (Memory.read_writeWord_other _ _ _ ha.1).trans ?_
  refine (taken_takeCell hwf cell).2.1 a fun hmem => ha.2 ?_
  rw [answerBytes, List.mem_append, List.mem_append, List.mem_append]
  exact .inl (.inl (.inl hmem))

end

/-- Settles O52: the refusals in their order, then the purge with its record written first. -/
theorem clearJamPurges : Obligations.ClearJamPurges := by
  intro s cell tag hwf htake hrun
  have hexec := exec_clearJam s cell tag
  refine ⟨fun hstill => exec_answered hwf htake hexec (State.decideClearJam_of_moving (s := s.takeCell cell) cell tag hrun hstill),
    fun c hstill hc => exec_answered hwf htake hexec (State.decideClearJam_of_covered (s := s.takeCell cell) cell tag hrun hstill hc),
    fun hstill hclear hrequest => ⟨s.jamCleared cell tag, exec_clearJam_of_clear htake hrun hstill hclear, ?_⟩,
    fun hstill hclear hlatch hwritten hroom => ⟨s.jamRecorded, State.jamRecorded_holds hwf hroom, s.jamRecorded_kept, s.jamRecorded_eq, ?_⟩⟩
  · obtain ⟨hholds, -, hjam⟩ := State.jamCleared_answers (cell := cell) (tag := tag) hwf
    have hkept := State.jamCleared_kept (cell := cell) (tag := tag) hwf hrequest
    have hcounts := State.jamCleared_counts (s := s) (cell := cell) (tag := tag)
    have hreports := State.jamCleared_reports (cell := cell) (tag := tag) hrequest
    have hready := s.readied_eq cell
    have hpocket := State.unjammed_pocket (s := s.readied cell)
    have hlevels := (s.readied cell).unjammed_levels
    obtain ⟨ustate, urequest, ufeed, urecords, uschedule, uqueue, uprotect, udrive, upocket, utally, ucells, uposition, uplan, uvalid, urouter,
      uadmission, ubanks, uwaiting, upending, -⟩ := (s.readied cell).purge_leaves
    have heq := s.jamCleared_eq cell tag
    generalize s.jamCleared cell tag = t at *
    generalize (s.readied cell).purge = u at *
    generalize (s.readied cell).unjammed = v at *
    generalize s.readied cell = b at *
    have ht : t.run = u.run ∧ t.records = u.records ∧ t.schedule = u.schedule ∧ t.cellUnit = u.cellUnit ∧ t.protect = u.protect ∧
        t.drive = u.drive ∧ t.pocket = u.pocket ∧ t.position = u.position ∧ t.plan = u.plan ∧ t.planValid = u.planValid ∧
        t.router = u.router ∧ t.admission = u.admission ∧ t.printer = u.printer ∧ t.pending = u.pending := by
      rw [heq]
      simp only [and_self]
    obtain ⟨trun, trecords, tschedule, tunit, tprotect, tdrive, tpocket, tposition, tplan, tvalid, trouter, tadmission, tprinter, tpending⟩ := ht
    have hb : b.protect.cleared = s.protect.cleared ∧ b.drive = s.drive ∧ b.position = s.position ∧ b.plan = s.plan ∧
        b.planValid = s.planValid ∧ b.router = s.router ∧ b.admission = s.admission ∧ b.printer = s.printer ∧ b.pending = s.pending ∧
        b.cellUnit = s.cellUnit ∧ b.pocket = s.pocket ∧ b.records = s.records := by
      rw [hready]
      simp only [Protect.cleared, and_self]
    obtain ⟨bprotect, bdrive, bposition, bplan, bvalid, brouter, badmission, bprinter, bpending, bunit, bpocket, brecords⟩ := hb
    refine ⟨by rw [trun, ustate], by rw [trecords, urecords], by rw [tschedule, uschedule], fun c => ?_, ?_, ?_, by rw [trun, ufeed], hholds,
      hjam, hkept, fun hn hjob => ⟨fun c hc => ?_, hcounts hn hjob, fun hroom htray hrack => hreports hn hjob hroom.1 htray hrack⟩,
      fun hheld htracked => ?_, by rw [tposition, uposition, bposition], by rw [tplan, uplan, bplan], by rw [tvalid, uvalid, bvalid],
      by rw [trouter, urouter, brouter], by rw [tadmission, uadmission, badmission], by rw [tprinter, ubanks, bprinter],
      by rw [tprinter, uwaiting, bprinter], fun c => ?_, by rw [tpending, upending, bpending]⟩
    · rw [State.queue, tunit]
      exact uqueue c
    · rw [tprotect, uprotect, bprotect]
      rfl
    · rw [tdrive, udrive, bdrive]
    · refine pieces_get_of_counts (hcounts hn hjob).1 (count_flatMap_reports _ fun r => count_reportCounters _ _ _ _ ?_)
      exact hc.imp_right (Or.imp_right fun h => ⟨h, by decide, by decide⟩)
    · rw [tpocket, upocket]
      refine hpocket ?_ fun p hp => ?_
      · rw [pocketHeld, bpocket]; exact hheld
      · rw [State.record?, brecords]
        exact htracked p (bpocket ▸ hp)
    · have hcell : t.cell c = v.cell c := by rw [State.cell, tunit, ucells]; rfl
      have hbcell : b.cell c = s.cell c := by rw [State.cell, bunit]; rfl
      rw [hcell, ← hbcell]
      exact hlevels c
  · have henable : s.port.enable = true := by
      rw [State.canTake, Bool.and_eq_true] at htake
      exact htake.1
    have heq := s.jamRecorded_eq
    have hsame : s.readied cell = s.jamRecorded.readied cell := by
      have hdue : jamRecordDue (s.takeCell cell) := ⟨hlatch, hstill, henable, hwritten⟩
      have hnot : ¬ jamRecordDue (s.jamRecorded.takeCell cell) := fun h => by
        have hw : s.jamRecorded.protect.recordWritten = false := h.2.2.2
        rw [heq] at hw
        exact absurd hw (by simp)
      rw [State.readied, State.jamRecorded_of_due hdue, State.takeCell_jamRecorded hwf hroom, State.readied,
        State.writeRecordIfDue_of_not_due hnot]
    have hfields : s.jamRecorded.canTake cell = true ∧ s.jamRecorded.run.state = .jammed ∧ s.jamRecorded.drive.still = true ∧
        (∀ c, (s.jamRecorded.cell c).covered = false) ∧ s.jamRecorded.records = s.records := by
      rw [heq]
      exact ⟨htake, hrun, hstill, hclear, rfl⟩
    obtain ⟨htake', hrun', hstill', hclear', hrecords⟩ := hfields
    rw [exec_clearJam_of_clear htake hrun hstill hclear, exec_clearJam_of_clear htake' hrun' hstill' hclear', hsame, hrecords]

end Sys2Proof.Machine

/-! PROOFS. One sample set, and one column fired (spec/02, R26, R30 to R38; spec/06, R99 to R103). -/

namespace Sys2Proof.Machine

open Sys2Proof.Safety

/-! ## One scanner's sample (R26, R30, R31) -/

theorem sampleScanner_followed (pl : Plan) (sc : Scanner) (o : Nat) (x : Sample) (st : ScannerState) :
    sampleFollowed pl sc o x st (sampleScanner pl sc o x st).1 := by
  have hkept : (if sc.isTrailing then st.kept.filter (fun k => decide (o + 1 < k.stop + pl.endWin)) else st.kept) =
      keptAt pl sc o st.kept := by
    cases sc <;> simp [Scanner.isTrailing, keptAt]
  simp only [sampleScanner, hkept]
  refine ⟨fun hrun hp => ?_, fun hrun hp => ?_, fun r hrun hp => ?_, fun r hrun hp => ?_⟩
  · rw [hrun]
    dsimp only
    rw [if_neg (Nat.not_le.mpr hp)]
  · rw [hrun]
    dsimp only
    rw [if_pos hp]
    simp [addSet]
  · rw [hrun]
    dsimp only
    rw [if_pos hp]
    rfl
  · rw [hrun]
    dsimp only
    rw [if_neg (Nat.not_le.mpr hp)]
    cases hq : qualify pl sc r o with
    | none =>
      rw [closeRun_of_noise hq]
      exact ⟨rfl, fun _ => rfl, by simp⟩
    | some k =>
      rw [closeRun_of_qualifying hq]
      exact ⟨rfl, by simp, fun k' hk' => by rw [Option.some.inj hk']⟩

theorem sampleAll_followed (pl : Plan) (o : Nat) (x : SampleSet) (v : PerScanner ScannerState) (sc : Scanner) :
    sampleFollowed pl sc o (forScanner x sc) (forScanner v sc) (forScanner (scannerStates (sampleAll pl o x v)) sc) := by
  cases sc <;> exact sampleScanner_followed pl _ o _ _

/-! ## One column (R101, R102, R103) -/

/-- A record after the next column of its impression has been fired. -/
def firedRecord (j : Impression) (w : Word) (r : Record) : Record :=
  { r with
    dots := r.dots + dotsOf w
    result := if j.next + 1 < j.killer + j.die then r.result else endResult j.skipped r
    flags := { r.flags with
      incomplete := if j.next + 1 < j.killer + j.die then r.flags.incomplete else r.flags.incomplete || j.skipped } }

@[simp] theorem firedRecord_number (j : Impression) (w : Word) (r : Record) : (firedRecord j w r).number = r.number := rfl

/-- A column fired: the printhead, the record, the dots counted, and the next column awaited or the impression over. -/
theorem State.fireColumn_fired (s : State) (j : Impression) :
    s.fireColumn j = { s.updateRecord j.piece (firedRecord j (s.columnWord j j.next)) with
      printer := { s.printer with
        head := s.columnWord j j.next
        job := if j.next + 1 < j.killer + j.die then some { j with next := j.next + 1 } else none }
      tally := (s.fireColumn j).tally, port := (s.fireColumn j).port } := by
  generalize hw : s.columnWord j j.next = w
  have hshown : s.columnShown j = { s.updateRecord j.piece (fun r => { r with dots := r.dots + dotsOf w }) with
      printer := { s.printer with head := w }, tally := (s.columnShown j).tally, port := (s.columnShown j).port } := by
    rw [State.columnShown, State.countDots_eq, hw]
    rfl
  rw [State.fireColumn_eq]
  generalize s.columnShown j = u at hshown
  split
  next hmore =>
    have hrecord : firedRecord j w = fun r => { r with dots := r.dots + dotsOf w } := by
      funext r
      rw [firedRecord, if_pos hmore, if_pos hmore]
    rw [hrecord, hshown]
  next hlast =>
    have hrecord : firedRecord j w = fun r =>
        { r with
          dots := r.dots + dotsOf w, result := endResult j.skipped { r with dots := r.dots + dotsOf w }
          flags := { r.flags with incomplete := r.flags.incomplete || j.skipped } } := by
      funext r
      rw [firedRecord, if_neg hlast, if_neg hlast]
      rfl
    have htwice := s.updateRecord_updateRecord j.piece (f := fun r => { r with dots := r.dots + dotsOf w })
      (g := fun y => { y with result := endResult j.skipped y, flags := { y.flags with incomplete := y.flags.incomplete || j.skipped } })
      (fun _ => rfl)
    have hended : u.endImpression { j with next := j.next + 1 } =
        { (s.updateRecord j.piece fun r => { r with dots := r.dots + dotsOf w }).updateRecord j.piece (fun y =>
            { y with result := endResult j.skipped y, flags := { y.flags with incomplete := y.flags.incomplete || j.skipped } }) with
          printer := { s.printer with head := w, job := none }, tally := u.tally, port := u.port } := by
      rw [hshown]
      rfl
    rw [hended, htwice, hrecord]

end Sys2Proof.Machine

/-! PROOFS. A step as the blocks see it (spec/01, R1, R13; spec/05, R75; spec/08, R124; spec/09, R143). -/

namespace Sys2Proof.Machine

open Sys2Proof.Safety

/-! ## The counts of a step (R13, R75, R124, R143) -/

/-- A state with the travel and the intake counted. -/
def State.withCounts (s : State) (a : Admission) (p : Pocket) : State := { s with admission := a, pocket := p }

def State.travelCounted (s : State) : Admission := { s.admission with travel := min 65535 (s.admission.travel + 1) }

def State.intakeCounted (s : State) : Pocket :=
  { s.pocket with intake := s.pocket.intake + (s.pocket.state == .entering && !s.protect.latch).toNat }

theorem State.countTravel_countIntake (s : State) : s.countTravel.countIntake = s.withCounts s.travelCounted s.intakeCounted := by
  unfold State.countIntake State.countTravel State.withCounts State.travelCounted State.intakeCounted
  by_cases h : s.pocket.state = .entering ∧ s.protect.latch = false
  · rw [if_pos h, h.1, h.2]
    rfl
  · rw [if_neg h]
    have hzero : (s.pocket.state == .entering && !s.protect.latch) = false := by
      simpa [not_and, Bool.not_eq_false] using h
    rw [hzero]
    rfl

/-- Still detection started again and the crawl counted (R124, R143). -/
theorem State.restartStill_countCrawl (s : State) :
    s.restartStill.countCrawl = { s with
      drive := { s.drive with still := false, stillTimer := some (s.now + if s.planValid then s.plan.stillTime else 1000) }
      protect := { s.protect with crawlCount := s.protect.crawlCount + s.protect.crawling.toNat } } := by
  unfold State.countCrawl State.restartStill State.stillPeriod
  dsimp only
  split
  next h => rw [h]; rfl
  next h =>
    have hidle : s.protect.crawling = false := Bool.eq_false_iff.mpr h
    have hzero : s.protect.crawlCount = s.protect.crawlCount + s.protect.crawling.toNat := by rw [hidle]; rfl
    rw [← hzero]

/-! ## The sample set of a step (R26, R38) -/

theorem State.updateRecord_numbers (s : State) (p : PieceNo) (f : Record → Record) (h : ∀ r, (f r).number = r.number) :
    (s.updateRecord p f).records.map (·.number) = s.records.map (·.number) := by
  rw [State.updateRecord, List.map_map]
  refine List.map_congr_left fun r _ => ?_
  rw [Function.comp_apply]
  split
  · exact h r
  · rfl

theorem State.noteDrops_numbers (p : PieceNo) (n : Nat) (s : State) :
    (s.noteDrops p n).records.map (·.number) = s.records.map (·.number) := by
  induction n generalizing s with
  | zero => rfl
  | succ n ih =>
    rw [State.noteDrops, ih, State.countEvent_eq]
    exact s.updateRecord_numbers p _ fun _ => rfl

/-- A record after the sample set of a step: RUNS_DROPPED where it is the piece in the window and a run has been dropped. -/
def sampledRecord (s : State) (q : PieceNo) (r : Record) : Record :=
  { r with flags := { r.flags with
    runsDropped := r.flags.runsDropped || decide (s.scan.window.map (·.piece) = some q ∧ 0 < stepDrops s s.samples) } }

section
variable {s : State} (h : s.forcedCloseDue = false)
include h

theorem count_lt_of_not_due {w : Window} (hw : s.scan.window = some w) : w.count < 1023 := by
  simpa [State.forcedCloseDue, hw] using h

theorem State.takeSet_eq : s.takeSet = { s with
    scan := s.takeSet.scan, records := s.takeSet.records, tally := s.takeSet.tally, port := s.takeSet.port } := by
  cases hw : s.scan.window with
  | none => rw [State.takeSet_of_free hw]
  | some w => rw [State.takeSet_of_window hw (count_lt_of_not_due h hw), State.noteDrops_eq]

theorem State.takeSet_window : s.takeSet.scan.window = s.scan.window.map (fun w => { w with count := w.count + 1 }) := by
  cases hw : s.scan.window with
  | none => rw [State.takeSet_of_free hw, hw]; rfl
  | some w => rw [State.takeSet_of_window hw (count_lt_of_not_due h hw), State.noteDrops_eq]; rfl

theorem State.takeSet_followed {w : Window} (hw : s.scan.window = some w) (sc : Scanner) :
    sampleFollowed s.plan sc w.count (forScanner s.samples sc) (forScanner s.scan.scanners sc)
      (forScanner s.takeSet.scan.scanners sc) := by
  rw [State.takeSet_of_window hw (count_lt_of_not_due h hw), State.noteDrops_eq]
  exact sampleAll_followed s.plan w.count s.samples s.scan.scanners sc

theorem State.takeSet_record? (q : PieceNo) : s.takeSet.record? q = (s.record? q).map (sampledRecord s q) := by
  cases hw : s.scan.window with
  | none =>
    have hid : sampledRecord s q = id := funext fun r => by simp [sampledRecord, hw]
    rw [State.takeSet_of_free hw, hid, Option.map_id, id]
  | some w =>
    rw [State.takeSet_of_window hw (count_lt_of_not_due h hw), State.noteDrops_record?]
    refine congrArg (fun f => Option.map f (s.record? q)) (funext fun r => ?_)
    by_cases hq : q = w.piece
    · simp [hq, sampledRecord, hw, stepDrops]
    · simp [hq, Ne.symm hq, sampledRecord, hw]

theorem State.takeSet_numbers : s.takeSet.records.map (·.number) = s.records.map (·.number) := by
  cases hw : s.scan.window with
  | none => rw [State.takeSet_of_free hw]
  | some w => rw [State.takeSet_of_window hw (count_lt_of_not_due h hw), State.noteDrops_numbers]

end

/-! ## The column of a step (R99, R101) -/

/-- The impression in progress has its next column at the present position. -/
abbrev State.fires (s : State) (j : Impression) : Prop := s.position = posAdd j.base j.next

theorem State.printStep_of_fires {s : State} {j : Impression} (hjob : s.printer.job = some j) (h : s.fires j) :
    s.printStep = s.fireColumn j := by
  rw [State.printStep, hjob]
  exact if_pos h

theorem State.printStep_of_not {s : State} (h : ∀ j, s.printer.job = some j → ¬ s.fires j) : s.printStep = s := by
  rw [State.printStep]
  cases hjob : s.printer.job with
  | none => rfl
  | some j => exact if_neg (h j hjob)

/-- A record after the column of a step. -/
def printedRecord (s : State) (q : PieceNo) (r : Record) : Record :=
  match s.printer.job with
  | some j => if j.piece = q ∧ s.fires j then firedRecord j (s.columnWord j j.next) r else r
  | none => r

theorem printedRecord_of_not {s : State} {q : PieceNo} (h : ∀ j, s.printer.job = some j → j.piece = q → ¬ s.fires j)
    (r : Record) : printedRecord s q r = r := by
  rw [printedRecord]
  cases hjob : s.printer.job with
  | none => rfl
  | some j => exact if_neg fun hj => h j hjob hj.1 hj.2

theorem printedRecord_of_fires {s : State} {q : PieceNo} {j : Impression} (hjob : s.printer.job = some j) (hq : j.piece = q)
    (hf : s.fires j) (r : Record) : printedRecord s q r = firedRecord j (s.columnWord j j.next) r := by
  rw [printedRecord, hjob]
  exact if_pos ⟨hq, hf⟩

theorem printedRecord_eq (s : State) (q : PieceNo) (r : Record) : printedRecord s q r = { r with
    dots := (printedRecord s q r).dots, result := (printedRecord s q r).result
    flags := { r.flags with incomplete := (printedRecord s q r).flags.incomplete } } := by
  rw [printedRecord]
  cases s.printer.job with
  | none => rfl
  | some j =>
    dsimp only
    split
    · rfl
    · rfl

theorem State.fireColumn_record? (s : State) (j : Impression) (q : PieceNo) : (s.fireColumn j).record? q =
    (s.record? q).map (fun r => if q = j.piece then firedRecord j (s.columnWord j j.next) r else r) := by
  rw [State.fireColumn_fired]
  exact s.record?_updateRecord_number j.piece q _ fun _ => rfl

theorem State.printStep_record? (s : State) (q : PieceNo) : s.printStep.record? q = (s.record? q).map (printedRecord s q) := by
  by_cases h : ∀ j, s.printer.job = some j → ¬ s.fires j
  · rw [State.printStep_of_not h]
    have hid : printedRecord s q = id := funext fun r => printedRecord_of_not (fun j hj _ => h j hj) r
    rw [hid, Option.map_id, id]
  · simp only [not_forall, not_not] at h
    obtain ⟨j, hjob, hf⟩ := h
    rw [State.printStep_of_fires hjob hf, State.fireColumn_record?]
    refine congrArg (fun f => Option.map f (s.record? q)) (funext fun r => ?_)
    rw [printedRecord, hjob]
    by_cases hq : q = j.piece
    · simp [hq, hf]
    · simp [hq, Ne.symm hq]

theorem State.printStep_numbers (s : State) : s.printStep.records.map (·.number) = s.records.map (·.number) := by
  by_cases h : ∀ j, s.printer.job = some j → ¬ s.fires j
  · rw [State.printStep_of_not h]
  · simp only [not_forall, not_not] at h
    obtain ⟨j, hjob, hf⟩ := h
    rw [State.printStep_of_fires hjob hf, State.fireColumn_fired]
    exact s.updateRecord_numbers j.piece _ fun _ => rfl

theorem State.printStep_printer_of_fires {s : State} {j : Impression} (hjob : s.printer.job = some j) (h : s.fires j) :
    s.printStep.printer = { s.printer with
      head := s.columnWord j j.next
      job := if j.next + 1 < j.killer + j.die then some { j with next := j.next + 1 } else none } := by
  rw [State.printStep_of_fires hjob h, State.fireColumn_fired]

theorem State.printStep_eq (s : State) : s.printStep = { s with
    printer := s.printStep.printer, records := s.printStep.records, tally := s.printStep.tally, port := s.printStep.port } := by
  by_cases h : ∀ j, s.printer.job = some j → ¬ s.fires j
  · rw [State.printStep_of_not h]
  · simp only [not_forall, not_not] at h
    obtain ⟨j, hjob, hf⟩ := h
    rw [State.printStep_of_fires hjob hf, State.fireColumn_fired]
    rfl

end Sys2Proof.Machine

/-! PROOFS. What every block but the schedule makes of a step (spec/01, R1; spec/02, R26; spec/06, R101; spec/10, R154). -/

namespace Sys2Proof.Machine

open Sys2Proof.Safety

/-- A step as the printer finds it: the sample set taken, the travel and the intake counted. -/
def State.stepSampled (u : State) : State := u.takeSet.withCounts u.travelCounted u.intakeCounted

@[simp] theorem State.stepSampled_printer (u : State) : u.stepSampled.printer = u.printer := by
  simp [State.stepSampled, State.withCounts]

@[simp] theorem State.stepSampled_position (u : State) : u.stepSampled.position = u.position := by
  simp [State.stepSampled, State.withCounts]

theorem State.stepSampled_fires (u : State) (j : Impression) : u.stepSampled.fires j = u.fires j := by
  simp [State.fires]

theorem State.stepSampled_columnWord (u : State) (j : Impression) (c : Nat) : u.stepSampled.columnWord j c = u.columnWord j c := by
  simp [State.columnWord]

theorem State.handStep_eq (u : State) : u.handStep = u.stepSampled.printStep.restartStill.countCrawl := by
  unfold State.handStep
  rw [State.countTravel_countIntake]
  have htravel : u.takeSet.travelCounted = u.travelCounted := by simp [State.travelCounted]
  have hintake : u.takeSet.intakeCounted = u.intakeCounted := by simp [State.intakeCounted]
  rw [htravel, hintake]
  rfl

theorem State.handStep_countsGoOn (u : State) : countsGoOn u u.handStep := by
  rw [State.handStep_eq, State.restartStill_countCrawl]
  refine ⟨?_, ?_, ?_, ?_⟩ <;> simp [State.stepSampled, State.withCounts, State.travelCounted, State.intakeCounted]

theorem State.handStep_of_sampled (u : State) : u.handStep.scan = u.takeSet.scan ∧
    u.handStep.printer = u.stepSampled.printStep.printer ∧ u.handStep.records = u.stepSampled.printStep.records ∧
    u.handStep.tally = u.stepSampled.printStep.tally ∧ u.handStep.port = u.stepSampled.printStep.port := by
  rw [State.handStep_eq, State.restartStill_countCrawl]
  exact ⟨by simp [State.stepSampled, State.withCounts], rfl, rfl, rfl, rfl⟩

theorem State.handStep_record? {u : State} (h : u.forcedCloseDue = false) (q : PieceNo) : u.handStep.record? q =
    (u.record? q).map (fun r => printedRecord u q (sampledRecord u q r)) := by
  have hprinted : printedRecord u.stepSampled q = printedRecord u q := by
    funext r
    simp only [printedRecord, State.stepSampled_printer, State.stepSampled_fires, State.stepSampled_columnWord]
  have hsampled : u.stepSampled.record? q = u.takeSet.record? q := rfl
  rw [State.record?_congr u.handStep_of_sampled.2.2.1, State.printStep_record?, hprinted, hsampled, State.takeSet_record? h,
    Option.map_map]
  rfl

theorem State.handStep_numbers {u : State} (h : u.forcedCloseDue = false) :
    u.handStep.records.map (·.number) = u.records.map (·.number) := by
  rw [u.handStep_of_sampled.2.2.1, State.printStep_numbers]
  exact State.takeSet_numbers h

theorem State.handStep_tallied {u : State} (h : u.forcedCloseDue = false) :
    tallied u u.handStep [] (List.replicate (stepDrops u u.samples) .runsDropped) (stepDots u u.position) := by
  obtain ⟨-, -, -, htally, hport⟩ := u.handStep_of_sampled
  have hdots : stepDots u.stepSampled u.stepSampled.position = stepDots u u.position := by
    simp [stepDots, State.stepSampled_columnWord]
  have hprint : tallied u.takeSet u.handStep [] [] (stepDots u u.position) :=
    tallied_congr (hdots ▸ u.stepSampled.printStep_tallied) rfl rfl rfl htally hport
  have := tallied_trans (State.takeSet_tallied h) hprint (by simp)
  simpa only [List.append_nil, Nat.zero_add] using this

theorem State.handStep_printer {u : State} : ((∀ j, u.printer.job = some j → ¬ u.fires j) → u.handStep.printer = u.printer) ∧
    ∀ j, u.printer.job = some j → u.fires j → u.handStep.printer = { u.printer with
      head := u.columnWord j j.next
      job := if j.next + 1 < j.killer + j.die then some { j with next := j.next + 1 } else none } := by
  rw [u.handStep_of_sampled.2.1]
  refine ⟨fun h => ?_, fun j hjob hf => ?_⟩
  · rw [State.printStep_of_not (by simpa [State.stepSampled_fires] using h), u.stepSampled_printer]
  · rw [State.printStep_printer_of_fires (j := j) (by simpa using hjob) (by simpa [State.stepSampled_fires] using hf)]
    simp [State.stepSampled_columnWord]

theorem State.handStep_leaves {u : State} (h : u.forcedCloseDue = false) : u.handStep = { u with
    scan := u.handStep.scan, admission := u.handStep.admission, pocket := u.handStep.pocket, printer := u.handStep.printer
    drive := u.handStep.drive, protect := u.handStep.protect, records := u.handStep.records, tally := u.handStep.tally
    port := u.handStep.port } := by
  rw [State.handStep_eq, State.restartStill_countCrawl]
  have hp := u.stepSampled.printStep_eq
  have ht := State.takeSet_eq h
  generalize u.stepSampled.printStep = n at *
  rw [hp]
  unfold State.stepSampled
  generalize u.takeSet = v at *
  rw [ht]
  rfl

/-- A record after a step: what may differ, and when (R38, R101 to R103). -/
theorem stepRecord_seen (u : State) (q : PieceNo) (r : Record) :
    let r' := printedRecord u q (sampledRecord u q r)
    r' = { r with
      dots := r'.dots, result := r'.result
      flags := { r.flags with runsDropped := r'.flags.runsDropped, incomplete := r'.flags.incomplete } } ∧
    r'.flags.runsDropped =
      (r.flags.runsDropped || decide (u.scan.window.map (·.piece) = some q ∧ 0 < stepDrops u u.samples)) ∧
    ((∀ j, u.printer.job = some j → j.piece = q → ¬ u.fires j) →
      r'.dots = r.dots ∧ r'.result = r.result ∧ r'.flags.incomplete = r.flags.incomplete) ∧
    ∀ j, u.printer.job = some j → j.piece = q → u.fires j →
      r'.dots = r.dots + dotsOf (u.columnWord j j.next) ∧
        (j.next + 1 < j.killer + j.die → r'.result = r.result ∧ r'.flags.incomplete = r.flags.incomplete) ∧
        (j.killer + j.die ≤ j.next + 1 →
          r'.result = endResult j.skipped r ∧ r'.flags.incomplete = (r.flags.incomplete || j.skipped)) := by
  have hprinted := printedRecord_eq u q (sampledRecord u q r)
  refine ⟨?_, ?_, fun h => ?_, fun j hjob hq hf => ?_⟩
  · generalize printedRecord u q (sampledRecord u q r) = r' at *
    rw [hprinted]
    rfl
  · rw [hprinted]
    rfl
  · rw [printedRecord_of_not h]
    exact ⟨rfl, rfl, rfl⟩
  · rw [printedRecord_of_fires hjob hq hf]
    refine ⟨rfl, fun hmore => ⟨if_pos hmore, if_pos hmore⟩, fun hlast => ?_⟩
    have hnot := Nat.not_lt.mpr hlast
    exact ⟨if_neg hnot, if_neg hnot⟩

theorem State.handStep_seen {u : State} (h : u.forcedCloseDue = false) : stepSeen u.samples u u.handStep := by
  have hscan := u.handStep_of_sampled.1
  refine ⟨u.handStep_countsGoOn, hscan ▸ State.takeSet_window h, fun hw => ?_, fun w hw sc => ?_, State.handStep_printer.1,
    State.handStep_printer.2, State.handStep_numbers h, fun q r hr => ?_, State.handStep_tallied h, State.handStep_leaves h⟩
  · rw [hscan, State.takeSet_of_free hw]
  · rw [hscan]
    exact State.takeSet_followed h hw sc
  · have hrecord := State.handStep_record? h q
    rw [hr] at hrecord
    exact ⟨_, hrecord, stepRecord_seen u q r⟩

end Sys2Proof.Machine

/-! PROOFS. The forward step: what is settled before it, and the entries taken ahead of it (spec/01, R1; spec/04, R59, R60). -/

namespace Sys2Proof.Machine

open Sys2Proof.Safety

/-! ## Due entries (R59, R60) -/

theorem State.takeDue_of_due {s : State} {e : Entry} (h : s.dueEntry = some e) :
    s.takeDue = { s with schedule := s.schedule.tail }.takeEntry e := by
  simp only [State.takeDue, h]

theorem State.takeDue_schedule {s : State} {e : Entry} (h : s.dueEntry = some e) : s.takeDue.schedule = s.schedule.tail := by
  rw [State.takeDue_of_due h]
  simp

/-- The row of a due entry's kind takes it (R59). -/
theorem exec_command_of_due {s : State} {e : Entry} (h : s.dueEntry = some e) : exec e.kind.command s = .next s.takeDue := by
  rw [State.takeDue_of_due h]
  cases hkind : e.kind with
  | gateOpen g => exact congrArg Host.Outcome.next ((State.takeDueIf_of_due h _).trans (by rw [hkind]; rfl))
  | gateClose g => exact congrArg Host.Outcome.next ((State.takeDueIf_of_due h _).trans (by rw [hkind]; rfl))
  | printStart => exact congrArg Host.Outcome.next ((State.takeDueIf_of_due h _).trans (by rw [hkind]; rfl))
  | cellDeadline c => exact congrArg Host.Outcome.next ((State.takeDueIf_of_due h _).trans (by rw [hkind]; rfl))
  | overstay c => exact congrArg Host.Outcome.next ((State.takeDueIf_of_due h _).trans (by rw [hkind]; rfl))

theorem State.schedule_of_due {s : State} {e : Entry} (h : s.dueEntry = some e) : s.schedule = e :: s.schedule.tail := by
  obtain ⟨-, rest, hs, -⟩ := State.dueEntry_eq_some.mp h
  rw [hs, List.tail_cons]

theorem State.dueEntry_of_empty {s : State} (h : s.schedule = []) : s.dueEntry = none := by
  simp [State.dueEntry, h]

theorem State.takeAllDue_of_due {s : State} {e : Entry} (h : s.dueEntry = some e) :
    s.takeAllDue s.schedule.length = s.takeDue.takeAllDue s.takeDue.schedule.length := by
  rw [State.takeDue_schedule h, State.schedule_of_due h, List.length_cons, List.tail_cons, State.takeAllDue, h]
  rfl

/-- With room for the whole schedule every due entry is taken (R59, R60). -/
theorem State.takeAllDue_taken (n : Nat) (s : State) (h : s.schedule.length ≤ n) : EntriesTaken s (s.takeAllDue n) := by
  induction n generalizing s with
  | zero => exact .over s (State.dueEntry_of_empty (List.length_eq_zero_iff.mp (Nat.le_zero.mp h)))
  | succ n ih =>
    cases hdue : s.dueEntry with
    | none =>
      rw [State.takeAllDue_of_none hdue]
      exact .over s hdue
    | some e =>
      have hroom : s.takeDue.schedule.length ≤ n := by
        rw [State.schedule_of_due hdue, List.length_cons] at h
        rw [State.takeDue_schedule hdue]
        omega
      rw [State.takeAllDue, hdue, Option.isSome_some, if_pos rfl]
      exact .next s s.takeDue _ e hdue (exec_command_of_due hdue) (ih _ hroom)

/-- A trip abandons an open scan context and opens none (R29). -/
theorem State.trip_scan (s : State) (cause : TripCause) (cell : Option Cell) (at' : Pos) (piece : Option PieceNo) :
    (s.trip cause cell at' piece).scan = s.scan ∨ (s.trip cause cell at' piece).scan = ScanContext.free := by
  by_cases hrun : s.run.state.isRunning = true ∧ s.protect.latch = false
  · rw [State.trip_eq_tripActs hrun.1 hrun.2]
    have hscan : (((s.tripActs cause cell at' piece).countEvent .trips).raise .jam).scan =
        if s.scan.window.isSome then ScanContext.free else s.scan := by simp
    rw [hscan]
    split
    · exact .inr rfl
    · exact .inl rfl
  · refine .inl (congrArg State.scan (State.trip_of_not ?_ cause cell at' piece))
    rwa [not_and_or, Bool.not_eq_true, Bool.not_eq_false] at hrun

theorem State.takeEntry_scan (s : State) (e : Entry) : (s.takeEntry e).scan = s.scan ∨ (s.takeEntry e).scan = ScanContext.free := by
  unfold State.takeEntry
  split
  · exact .inl rfl
  · exact .inl rfl
  · exact .inl (by simp)
  · split
    · exact s.trip_scan _ _ _ _
    · exact .inl rfl
  · exact s.trip_scan _ _ _ _

theorem State.forcedCloseDue_of_scan {s t : State} (h : s.forcedCloseDue = false) (ht : t.scan = s.scan ∨ t.scan = ScanContext.free) :
    t.forcedCloseDue = false := by
  rcases ht with ht | ht
  · rw [State.forcedCloseDue, ht]
    exact h
  · rw [State.forcedCloseDue, ht]
    rfl

/-- Entries taken make no forced close due (R28). -/
theorem State.takeAllDue_forcedCloseDue (n : Nat) {s : State} (h : s.forcedCloseDue = false) :
    (s.takeAllDue n).forcedCloseDue = false := by
  induction n generalizing s with
  | zero => exact h
  | succ n ih =>
    cases hdue : s.dueEntry with
    | none => rwa [State.takeAllDue_of_none hdue]
    | some e =>
      rw [State.takeAllDue, hdue, Option.isSome_some, if_pos rfl]
      refine ih (State.forcedCloseDue_of_scan h ?_)
      rw [State.takeDue_of_due hdue]
      exact State.takeEntry_scan _ e

/-! ## What is settled before a step (R1) -/

theorem State.completeIntake_of_not {s : State} (h : s.intakeDone = false) : s.completeIntake = s := by
  rw [State.completeIntake, h]
  rfl

theorem State.endCrawl_of_not {s : State} (h : s.crawlEnds = false) : s.endCrawl = s := by
  rw [State.endCrawl, h]
  rfl

theorem State.settle_of_none {s : State} (h : s.dueEntry = none) : s.settle = s.forceClose.completeIntake.endCrawl := by
  rw [State.settle, State.takeAllDue_of_none h]

theorem State.settle_of_not_forced {s : State} (h : s.dueEntry = none) (hforced : s.forcedCloseDue = false) :
    s.settle = s.completeIntake.endCrawl := by
  rw [State.settle_of_none h, State.forceClose_of_not_due hforced]

theorem State.settle_of_not_done {s : State} (h : s.dueEntry = none) (hforced : s.forcedCloseDue = false)
    (hintake : s.intakeDone = false) : s.settle = s.endCrawl := by
  rw [State.settle_of_not_forced h hforced, State.completeIntake_of_not hintake]

theorem State.settle_of_settled {s : State} (h : s.dueEntry = none) (hforced : s.forcedCloseDue = false)
    (hintake : s.intakeDone = false) (hcrawl : s.crawlEnds = false) : s.settle = s := by
  rw [State.settle_of_not_done h hforced hintake, State.endCrawl_of_not hcrawl]

theorem State.settle_takeDue {s : State} {e : Entry} (h : s.dueEntry = some e) : s.takeDue.settle = s.settle := by
  rw [State.settle, State.settle, State.takeAllDue_of_due h]

theorem State.dueEntry_congr {s t : State} (hlatch : t.protect.latch = s.protect.latch) (hschedule : t.schedule = s.schedule)
    (hposition : t.position = s.position) : t.dueEntry = s.dueEntry := by
  rw [State.dueEntry, State.dueEntry, hlatch, hschedule, hposition]

theorem State.settle_forceClose {s : State} (h : s.dueEntry = none) (hforced : s.forcedCloseDue = true)
    (hrest : s.forceClose.dueEntry = none) : s.forceClose.settle = s.settle := by
  have hfree : s.forceClose.forcedCloseDue = false := by
    cases hw : s.scan.window with
    | none => simp [State.forcedCloseDue, hw] at hforced
    | some w =>
      have hcount : 1023 ≤ w.count := by simpa [State.forcedCloseDue, hw] using hforced
      rw [State.forcedCloseDue, State.forceClose_window hw hcount]
  rw [State.settle_of_not_forced hrest hfree, State.settle_of_none h]

theorem State.settle_completeIntake {s : State} (h : s.dueEntry = none) (hforced : s.forcedCloseDue = false)
    (hintake : s.intakeDone = true) : s.completeIntake.settle = s.settle := by
  have hdue : s.completeIntake.dueEntry = none := (State.dueEntry_congr (by simp) (by simp) (by simp)).trans h
  have hdone : s.completeIntake.intakeDone = false := by
    have hstate : s.completeIntake.pocket.state = .dwell := by
      rw [State.completeIntake, if_pos hintake]
      rfl
    rw [State.intakeDone, hstate]
    rfl
  rw [State.settle_of_not_done hdue (State.forcedCloseDue_of_scan hforced (.inl (by simp))) hdone,
    State.settle_of_not_forced h hforced]

theorem State.settle_endCrawl {s : State} (h : s.dueEntry = none) (hforced : s.forcedCloseDue = false)
    (hintake : s.intakeDone = false) (hcrawl : s.crawlEnds = true) : s.endCrawl.settle = s.settle := by
  have hlatch : s.endCrawl.protect.latch = s.protect.latch := by simp
  have hdue : s.endCrawl.dueEntry = none := (State.dueEntry_congr hlatch (by simp) (by simp)).trans h
  have hdone : s.endCrawl.intakeDone = false := by
    have hrecord : s.endCrawl.record? = s.record? := funext fun q => State.record?_congr (by simp) q
    have hpocket : s.endCrawl.pocket = s.pocket := by simp
    have hlength : s.endCrawl.pocketLength = s.pocketLength := by
      rw [State.pocketLength, State.pocketLength, hpocket, hrecord]
    rw [State.intakeDone, hpocket, hlatch, hlength]
    exact hintake
  have hended : s.endCrawl.crawlEnds = false := by
    have hstopped : s.endCrawl.protect.crawling = false := by
      rw [State.endCrawl, if_pos hcrawl]
    rw [State.crawlEnds, hstopped]
    rfl
  rw [State.settle_of_settled hdue (State.forcedCloseDue_of_scan hforced (.inl (by simp))) hdone hended,
    State.settle_of_not_done h hforced hintake]

theorem exec_forwardStep (x : BeltStep) (s : State) :
    exec (.forwardStep x) s = .next (((s.settle.countStep x.samples).entriesAhead x.order).handStep) := rfl

theorem exec_forwardStep_congr {s u : State} (h : u.settle = s.settle) (x : BeltStep) :
    exec (.forwardStep x) s = exec (.forwardStep x) u := by
  rw [exec_forwardStep, exec_forwardStep, h]

/-- A step with nothing outstanding is seen at its new position, in the state the entries taken ahead of it leave (R1, R59). -/
theorem exec_forwardStep_of_settled {s : State} (h : s.dueEntry = none) (hforced : s.forcedCloseDue = false)
    (hintake : s.intakeDone = false) (hcrawl : s.crawlEnds = false) (x : BeltStep) :
    exec (.forwardStep x) s = .next (((stepMoved s x.samples).entriesAhead x.order).handStep) := by
  rw [exec_forwardStep, State.settle_of_settled h hforced hintake hcrawl]
  rfl

theorem State.entriesAhead_of_alone {s : State} {order : StepOrder} (h : stepsAlone s order) (x : SampleSet) :
    (stepMoved s x).entriesAhead order = stepMoved s x := by
  cases order with
  | stepFirst => rfl
  | entriesFirst =>
    refine State.takeAllDue_of_none (s := stepMoved s x) (Option.eq_none_iff_forall_ne_some.mpr fun e he => ?_) _
    obtain ⟨hlatch, rest, hschedule, hdue⟩ := State.dueEntry_eq_some.mp he
    rcases h with h | h | h
    · cases h
    · exact absurd (hlatch.symm.trans h) (by simp)
    · have hhead : s.schedule.head? = some e := by rw [show s.schedule = e :: rest from hschedule]; rfl
      exact h e hhead hdue

end Sys2Proof.Machine

/-! PROOFS. The forward step (spec/01, R1, R13; spec/02, R26; spec/06, R99, R101; spec/10, R154). -/

namespace Sys2Proof.Machine

open Sys2Proof.Safety

/-- The step reaches the blocks at its new position, whatever entries have been taken ahead of it (R1, R59). -/
theorem State.entriesAhead_taken (s : State) (order : StepOrder) :
    (order = .stepFirst → s.entriesAhead order = s) ∧ (order = .entriesFirst → EntriesTaken s (s.entriesAhead order)) := by
  refine ⟨fun h => ?_, fun h => ?_⟩
  · rw [h, State.entriesAhead]
  · rw [h]
    exact State.takeAllDue_taken _ s (Nat.le_refl _)

theorem State.entriesAhead_kept (s : State) (order : StepOrder) : (s.entriesAhead order).samples = s.samples ∧
    (s.entriesAhead order).position = s.position ∧ (s.entriesAhead order).lastStep = s.lastStep := by
  cases order with
  | stepFirst => exact ⟨rfl, rfl, rfl⟩
  | entriesFirst => simp [State.entriesAhead]

theorem State.entriesAhead_forcedCloseDue {s : State} (h : s.forcedCloseDue = false) : ∀ order : StepOrder,
    (s.entriesAhead order).forcedCloseDue = false
  | .stepFirst => h
  | .entriesFirst => State.takeAllDue_forcedCloseDue _ h

/-- With no window open and nothing printing a step is its counts only (R13, R75, R124, R143). -/
theorem State.handStep_of_quiet {s : State} (hwindow : s.scan.window = none) (hjob : s.printer.job = none) :
    s.handStep = (s.withCounts s.travelCounted s.intakeCounted).restartStill.countCrawl := by
  rw [State.handStep, State.countTravel_countIntake, State.takeSet_of_free hwindow, State.printStep_of_not]
  intro j hj
  exact absurd (hjob.symm.trans hj) (by simp)

/-- Settles O8. -/
theorem forwardStepCounts : Obligations.ForwardStepCounts := by
  unfold Obligations.ForwardStepCounts
  refine ⟨fun s x => ⟨fun e he => ⟨_, exec_command_of_due he, exec_forwardStep_congr (State.settle_takeDue he) x⟩,
    fun hdue hforced => ⟨_, rfl, fun hrest => exec_forwardStep_congr (State.settle_forceClose hdue hforced hrest) x⟩,
    fun hdue hforced hintake => ⟨_, rfl, exec_forwardStep_congr (State.settle_completeIntake hdue hforced hintake) x⟩,
    fun hdue hforced hintake hcrawl =>
      ⟨_, rfl, exec_forwardStep_congr (State.settle_endCrawl hdue hforced hintake hcrawl) x⟩,
    fun hdue hforced hintake hcrawl => ?_⟩, fun s x order hdue hforced hintake hcrawl halone hwindow hjob => ?_⟩
  · obtain ⟨hsamples, hposition, hlast⟩ := (stepMoved s x.samples).entriesAhead_kept x.order
    obtain ⟨hfirst, htaken⟩ := (stepMoved s x.samples).entriesAhead_taken x.order
    have hfree := State.entriesAhead_forcedCloseDue (s := stepMoved s x.samples) hforced x.order
    obtain ⟨-, -, hposition', hlast', -⟩ := ((stepMoved s x.samples).entriesAhead x.order).handStep_frame
    refine ⟨_, _, exec_forwardStep_of_settled hdue hforced hintake hcrawl x, hfirst, htaken, ?_, ?_, ?_⟩
    · have hseen := State.handStep_seen hfree
      rwa [hsamples] at hseen
    · exact hposition'.trans hposition
    · exact hlast'.trans hlast
  · rw [exec_forwardStep_of_settled hdue hforced hintake hcrawl, State.entriesAhead_of_alone halone,
      State.handStep_of_quiet (s := stepMoved s x) hwindow hjob, State.restartStill_countCrawl]
    rfl

end Sys2Proof.Machine

/-! PROOFS. A step with no entry ahead of it: its samples and its counts (spec/01, R13; spec/02, R26, R38; spec/10, R154). -/

namespace Sys2Proof.Machine

open Sys2Proof.Safety

theorem exec_forwardStep_alone {s : State} {order : StepOrder} (h : s.dueEntry = none) (hforced : s.forcedCloseDue = false)
    (hintake : s.intakeDone = false) (hcrawl : s.crawlEnds = false) (halone : stepsAlone s order) (x : SampleSet) :
    exec (.forwardStep ⟨x, order⟩) s = .next (stepMoved s x).handStep := by
  rw [exec_forwardStep_of_settled h hforced hintake hcrawl, State.entriesAhead_of_alone halone]

theorem stepCounted_of_moved (s : State) (x : SampleSet) : stepCounted s (stepMoved s x).handStep := by
  obtain ⟨-, -, hposition, hlast, -⟩ := (stepMoved s x).handStep_frame
  exact ⟨hposition, hlast, (stepMoved s x).handStep_countsGoOn⟩

theorem State.handStep_printer_kept (u : State) : u.handStep.printer =
    { u.printer with job := u.handStep.printer.job, head := u.handStep.printer.head } := by
  by_cases h : ∀ j, u.printer.job = some j → ¬ u.fires j
  · rw [State.handStep_printer.1 h]
  · simp only [not_forall, not_not] at h
    obtain ⟨j, hjob, hf⟩ := h
    rw [State.handStep_printer.2 j hjob hf]

section
variable {s : State} (h : s.forcedCloseDue = false) (x : SampleSet)
include h

theorem step_leaves : (stepMoved s x).handStep = { s with
    position := s.position + 1, lastStep := s.now, samples := x, scan := (stepMoved s x).handStep.scan
    admission := (stepMoved s x).handStep.admission, pocket := (stepMoved s x).handStep.pocket
    printer := { s.printer with
      job := (stepMoved s x).handStep.printer.job, head := (stepMoved s x).handStep.printer.head }
    drive := (stepMoved s x).handStep.drive, protect := (stepMoved s x).handStep.protect
    records := (stepMoved s x).handStep.records, tally := (stepMoved s x).handStep.tally, port := (stepMoved s x).handStep.port } := by
  have hleaves := State.handStep_leaves (u := stepMoved s x) h
  have hprinter := (stepMoved s x).handStep_printer_kept
  generalize (stepMoved s x).handStep = t at *
  rw [hprinter] at hleaves
  exact hleaves

theorem step_tallied : tallied s (stepMoved s x).handStep [] (List.replicate (stepDrops s x) .runsDropped)
    (stepDots s (s.position + 1)) :=
  State.handStep_tallied (u := stepMoved s x) h

theorem step_record? (q : PieceNo) : (stepMoved s x).handStep.record? q =
    (s.record? q).map (fun r => printedRecord (stepMoved s x) q (sampledRecord (stepMoved s x) q r)) :=
  State.handStep_record? (u := stepMoved s x) h q

/-- A piece that is neither in the window nor being printed keeps its record. -/
theorem step_record?_other {q : PieceNo} (hwindow : ∀ w, s.scan.window = some w → w.piece ≠ q)
    (hjob : ∀ j, s.printer.job = some j → j.piece ≠ q) : (stepMoved s x).handStep.record? q = s.record? q := by
  have hsame : (fun r => printedRecord (stepMoved s x) q (sampledRecord (stepMoved s x) q r)) = id := by
    funext r
    have hout : ¬ (stepMoved s x).scan.window.map (·.piece) = some q := by
      rw [Option.map_eq_some_iff]
      exact fun ⟨w, hw, hq⟩ => hwindow w hw hq
    rw [printedRecord_of_not (s := stepMoved s x) (fun j hj hq => absurd hq (hjob j hj)), sampledRecord]
    simp [hout]
  rw [step_record? h, hsame, Option.map_id, id]

end

/-- The count of dropped runs, as the counter has it (R38, R153). -/
theorem runsDropped_of_tallied {s t : State} {n d : Nat} (h : tallied s t [] (List.replicate n .runsDropped) d) :
    t.tally.events.get (eventCounterIdx .runsDropped) =
      s.tally.events.get (eventCounterIdx .runsDropped) + BitVec.ofNat 16 n := by
  obtain ⟨⟨-, hevents, -⟩, -⟩ := h
  obtain ⟨hcount, -⟩ := hevents .runsDropped
  rw [List.count_replicate_self] at hcount
  refine BitVec.eq_of_toNat_eq (hcount.trans ?_)
  rw [BitVec.toNat_add, BitVec.toNat_ofNat, Nat.add_mod_mod]
  rfl

/-- Settles O9. -/
theorem forwardStepSamples : Obligations.ForwardStepSamples := by
  unfold Obligations.ForwardStepSamples
  intro s x order w hdue hintake hcrawl halone hwindow hcount
  have hforced : s.forcedCloseDue = false := by
    simpa [State.forcedCloseDue, hwindow] using hcount
  have hdrops : stepDrops s x = dropsAt s x w.count := by
    rw [stepDrops, hwindow]
  have htallied := step_tallied hforced x
  obtain ⟨-, hopen, -, hfollowed, hdark, -⟩ := State.handStep_seen (u := stepMoved s x) hforced
  rw [hdrops] at htallied
  refine ⟨_, exec_forwardStep_alone hdue hforced hintake hcrawl halone x, stepCounted_of_moved s x, ?_, ?_,
    runsDropped_of_tallied htallied, htallied, fun r hr => ?_, fun q hq hjob => ?_, fun hjob => ?_, step_leaves hforced x⟩
  · exact hopen.trans (congrArg _ hwindow)
  · exact hfollowed w hwindow
  · have hrecord := step_record? hforced x w.piece
    rw [hr] at hrecord
    obtain ⟨hkept, hflag, hsame, -⟩ := stepRecord_seen (stepMoved s x) w.piece r
    refine ⟨_, hrecord, ?_, fun hother => ?_⟩
    · have hpiece : (stepMoved s x).scan.window.map (·.piece) = some w.piece := congrArg (Option.map _) hwindow
      rw [hflag, hpiece, ← hdrops]
      simp only [true_and]
      rfl
    · obtain ⟨hdots, hresult, hincomplete⟩ := hsame fun j hj hq => absurd hq (hother j hj)
      rw [hdots, hresult, hincomplete] at hkept
      exact hkept
  · exact step_record?_other hforced x (fun v hv => by rw [← Option.some.inj (hwindow.symm.trans hv)]; exact hq.symm) hjob
  · exact hdark fun j hj => absurd (hjob.symm.trans hj) (by simp)

end Sys2Proof.Machine

/-! PROOFS. A step and the column it fires (spec/06, R99 to R103; spec/10, R153, R154). -/

namespace Sys2Proof.Machine

open Sys2Proof.Safety

/-! ## The words of an impression (R99, R103) -/

theorem State.columnWord_of_killer {s : State} {j : Impression} {c : Nat} {b : Fin 4} {w : Word} (hc : c < j.killer)
    (hbank : j.bank = some b) (hw : (s.printer.banks.get b)[c]? = some w) : s.columnWord j c = w := by
  rw [State.columnWord, if_pos hc, hbank]
  simp [hw]

theorem State.columnWord_of_die {s : State} {j : Impression} {c : Nat} {w : Word} (hc : j.killer ≤ c)
    (hw : (s.printer.slots.get j.slot).columns[c - j.killer]? = some w) : s.columnWord j c = w := by
  rw [State.columnWord, if_neg (Nat.not_lt.mpr hc)]
  simp [hw]

theorem endResult_of_policy {r : Record} {pl : CancelPlan} (h : r.plan = some pl) :
    (pl.policy = .full → endResult false r = .full) ∧ (pl.policy = .dieOnly → endResult false r = .dieOnly) := by
  refine ⟨fun hp => ?_, fun hp => ?_⟩
  · simp [endResult, h, hp]
  · simp [endResult, h, hp]

/-! ## The counters a column leaves (R153) -/

theorem State.columnShown_events (s : State) (j : Impression) : (s.columnShown j).tally.events = s.tally.events := by
  simp [State.columnShown, State.countDots]

theorem State.fireColumn_events (s : State) (j : Impression) : (s.fireColumn j).tally.events = s.tally.events := by
  rw [State.fireColumn_eq]
  split
  · exact s.columnShown_events j
  · exact s.columnShown_events j

theorem State.printStep_events (s : State) : s.printStep.tally.events = s.tally.events := by
  by_cases h : ∀ j, s.printer.job = some j → ¬ s.fires j
  · rw [State.printStep_of_not h]
  · simp only [not_forall, not_not] at h
    obtain ⟨j, hjob, hf⟩ := h
    rw [State.printStep_of_fires hjob hf, State.fireColumn_events]

theorem State.handStep_events_of_free {u : State} (h : u.scan.window = none) : u.handStep.tally.events = u.tally.events := by
  rw [u.handStep_of_sampled.2.2.2.1, State.printStep_events, State.stepSampled, State.takeSet_of_free h]
  rfl

theorem State.handStep_of_dark {u : State} (h : u.scan.window = none) (hdark : ∀ j, u.printer.job = some j → ¬ u.fires j) :
    u.handStep.records = u.records ∧ u.handStep.tally = u.tally := by
  obtain ⟨-, -, hrecords, htally, -⟩ := u.handStep_of_sampled
  rw [hrecords, htally, State.printStep_of_not (by simpa [State.stepSampled_fires] using hdark), State.stepSampled,
    State.takeSet_of_free h]
  exact ⟨rfl, rfl⟩

theorem dots_of_tallied {s t : State} {events : List EventCounter} {d : Nat} (h : tallied s t [] events d) :
    t.tally.dots.toNat = (s.tally.dots.toNat + d) % 4294967296 := by
  obtain ⟨⟨-, -, ⟨hdots, -⟩, -⟩, -⟩ := h
  exact hdots

theorem dots_of_none_fired {s t : State} {events : List EventCounter} (h : tallied s t [] events 0) :
    t.tally.dots = s.tally.dots := by
  refine BitVec.eq_of_toNat_eq ((dots_of_tallied h).trans ?_)
  rw [Nat.add_zero]
  exact Nat.mod_eq_of_lt s.tally.dots.isLt

/-- Settles O11. -/
theorem forwardStepFiresColumn : Obligations.ForwardStepFiresColumn := by
  unfold Obligations.ForwardStepFiresColumn
  refine ⟨fun s j c w => ⟨fun b hc hbank hw => State.columnWord_of_killer hc hbank hw, fun hc hw => State.columnWord_of_die hc hw⟩,
    fun r => ⟨rfl, fun pl hpl => endResult_of_policy hpl⟩, fun s x order j hdue hforced hintake hcrawl halone hjob => ?_⟩
  have htallied := step_tallied hforced x
  have hdots : stepDots s (s.position + 1) =
      if s.position + 1 = posAdd j.base j.next then dotsOf (s.columnWord j j.next) else 0 := by
    rw [stepDots, hjob]
  rw [hdots] at htallied
  obtain ⟨-, -, hscan, -, hdark, hfired, -⟩ := State.handStep_seen (u := stepMoved s x) hforced
  have honly : ∀ i, (stepMoved s x).printer.job = some i → i = j := fun i hi => (Option.some.inj (hjob.symm.trans hi)).symm
  have hrecord := step_record? hforced x j.piece
  refine ⟨_, exec_forwardStep_alone hdue hforced hintake hcrawl halone x, stepCounted_of_moved s x, fun hnot => ?_, fun hf => ?_,
    fun q hq hwindow => step_record?_other hforced x hwindow fun i hi => by rw [honly i hi]; exact hq.symm,
    fun hwindow => ⟨hscan hwindow, State.handStep_events_of_free (u := stepMoved s x) hwindow⟩, htallied, step_leaves hforced x⟩
  · have hnone : ∀ i, (stepMoved s x).printer.job = some i → ¬ (stepMoved s x).fires i := fun i hi => by
      rw [honly i hi]
      exact hnot
    rw [if_neg hnot] at htallied
    refine ⟨hdark hnone, dots_of_none_fired htallied, fun r hr => ?_,
      fun hwindow => State.handStep_of_dark (u := stepMoved s x) hwindow hnone⟩
    obtain ⟨-, -, hsame, -⟩ := stepRecord_seen (stepMoved s x) j.piece r
    rw [hr] at hrecord
    exact ⟨_, hrecord, hsame fun i hi _ => hnone i hi⟩
  · have hprinter := hfired j hjob hf
    rw [if_pos hf] at htallied
    refine ⟨congrArg Printer.head hprinter, dots_of_tallied htallied, fun r hr => ?_, fun hmore => ?_, fun hlast => ?_⟩
    · obtain ⟨-, -, -, hprinted⟩ := stepRecord_seen (stepMoved s x) j.piece r
      rw [hr] at hrecord
      exact ⟨_, hrecord, hprinted j hjob rfl hf⟩
    · rw [hprinter]
      exact if_pos hmore
    · rw [hprinter]
      exact if_neg (Nat.not_lt.mpr hlast)

end Sys2Proof.Machine

/-! PROOFS. The beginning of an impression (spec/04, R58, R59; spec/06, R100 to R104). -/

namespace Sys2Proof.Machine

open Sys2Proof.Safety

/-! ## The earlier impression ended (R104) -/

theorem State.endImpressionPartial_record? (s : State) (q : PieceNo) : s.endImpressionPartial.record? q =
    (s.record? q).map (fun y => if s.printer.job.map (·.piece) = some q then y.endedPartial else y) := by
  rw [← tripRecords_find]
  unfold State.endImpressionPartial tripRecords
  cases s.printer.job with
  | none => rfl
  | some j => rfl

theorem State.endImpressionPartial_eq (s : State) : s.endImpressionPartial =
    { s with printer := { s.printer with job := none }, records := s.endImpressionPartial.records } := by
  unfold State.endImpressionPartial
  split
  next hnone => rw [← hnone]
  next => rfl

/-! ## The new impression (R100) -/

/-- The impression of a piece begun at the present position: the columns the belt has passed are skipped. -/
def State.newImpression (s : State) (p : PieceNo) (r : Record) (pl : CancelPlan) (base : Pos) : Impression :=
  ⟨p, base, pl.killer, pl.die, pl.bank, r.slot, (s.position - base).toNat, decide (0 < (s.position - base).toNat)⟩

theorem State.newImpression_here (s : State) (p : PieceNo) (r : Record) (pl : CancelPlan) :
    s.newImpression p r pl s.position = ⟨p, s.position, pl.killer, pl.die, pl.bank, r.slot, 0, false⟩ := by
  simp [State.newImpression]

/-- Of `s` and `t`: an impression in progress has ended PARTIAL, and the one given has been begun and its next column fired; r is the
record of its piece (R100 to R104, R154). -/
structure ImpressionBegun (s t : State) (r : Record) (j : Impression) : Prop where
  printer : t.printer = { s.printer with
    head := s.columnWord j j.next
    job := if j.next + 1 < j.killer + j.die then some { j with next := j.next + 1 } else none }
  tallied : tallied s t [] [] (dotsOf (s.columnWord j j.next))
  record : t.record? j.piece = some (firedRecord j (s.columnWord j j.next) r)
  others : ∀ q, q ≠ j.piece → t.record? q =
    (s.record? q).map (fun y => if s.printer.job.map (·.piece) = some q then y.endedPartial else y)
  frame : t = { s with printer := t.printer, records := t.records, tally := t.tally, port := t.port }

section
variable {s : State} {p : PieceNo} {r : Record} {pl : CancelPlan} (hjob : ∀ j, s.printer.job = some j → j.piece ≠ p)
  (hr : s.record? p = some r)
include hjob hr

theorem State.endImpressionPartial_record?_new : s.endImpressionPartial.record? p = some r := by
  have hout : s.printer.job.map (·.piece) ≠ some p := fun h => by
    obtain ⟨j, hj, hp⟩ := Option.map_eq_some_iff.mp h
    exact hjob j hj hp
  rw [State.endImpressionPartial_record?, hr, Option.map_some, if_neg hout]

variable (hpl : r.plan = some pl) (base : Pos)
include hpl

theorem State.startImpression_eq : s.startImpression p base =
    if (s.position - base).toNat < pl.killer + pl.die then s.endImpressionPartial.fireColumn (s.newImpression p r pl base)
    else s.endImpressionPartial.endImpression (s.newImpression p r pl base) := by
  have hposition : s.endImpressionPartial.position = s.position := by simp
  simp only [State.startImpression, State.endImpressionPartial_record?_new hjob hr, hpl, hposition]
  rfl

theorem State.startImpression_begun (h : (s.position - base).toNat < pl.killer + pl.die) :
    ImpressionBegun s (s.startImpression p base) r (s.newImpression p r pl base) := by
  rw [State.startImpression_eq hjob hr hpl, if_pos h]
  have hrecord := State.endImpressionPartial_record?_new hjob hr
  have hothers := s.endImpressionPartial_record?
  have heq := s.endImpressionPartial_eq
  have hpiece : (s.newImpression p r pl base).piece = p := rfl
  generalize s.newImpression p r pl base = j at *
  generalize s.endImpressionPartial = v at *
  have hword : v.columnWord j j.next = s.columnWord j j.next := by rw [heq]; rfl
  have htallied := v.fireColumn_tallied j
  have hfired := v.fireColumn_record? j
  have hclosed := v.fireColumn_fired j
  rw [hword] at htallied hfired hclosed
  generalize v.fireColumn j = t at *
  refine ⟨?_, ?_, ?_, fun q hq => ?_, ?_⟩
  · rw [hclosed, heq]
  · exact tallied_congr htallied (by rw [heq]) (by rw [heq]) (by rw [heq]) rfl rfl
  · rw [hfired, hpiece, hrecord, Option.map_some, if_pos rfl]
  · rw [hfired, hothers, Option.map_map]
    simp only [if_neg hq, Function.comp_def]
  · rw [hclosed, heq]
    rfl

/-- Where the belt has passed every column of the new impression none is fired, and it ends PARTIAL (R100, R103). -/
theorem State.startImpression_passed (h : pl.killer + pl.die ≤ (s.position - base).toNat)
    (hcolumns : 1 ≤ pl.killer + pl.die) : (s.startImpression p base).record? p = some r.endedPartial ∧
    (∀ q, q ≠ p → (s.startImpression p base).record? q =
      (s.record? q).map (fun y => if s.printer.job.map (·.piece) = some q then y.endedPartial else y)) ∧
    s.startImpression p base =
      { s with printer := { s.printer with job := none }, records := (s.startImpression p base).records } := by
  have hskipped : decide (0 < (s.position - base).toNat) = true := decide_eq_true (by omega)
  have hended : ∀ v : State, v.endImpression (s.newImpression p r pl base) =
      { v.updateRecord p Record.endedPartial with printer := { v.printer with job := none } } := by
    intro v
    simp only [State.endImpression, State.newImpression, hskipped, Bool.or_true]
    rfl
  have hupdated : ∀ q, (s.startImpression p base).record? q =
      (s.endImpressionPartial.record? q).map (fun y => if q = p then y.endedPartial else y) := by
    intro q
    rw [State.startImpression_eq hjob hr hpl, if_neg (Nat.not_lt.mpr h), hended]
    exact s.endImpressionPartial.record?_updateRecord_number p q _ fun _ => rfl
  refine ⟨?_, fun q hq => ?_, ?_⟩
  · rw [hupdated, State.endImpressionPartial_record?_new hjob hr, Option.map_some, if_pos rfl]
  · rw [hupdated, State.endImpressionPartial_record?, Option.map_map]
    simp only [if_neg hq, Function.comp_def]
  · rw [State.startImpression_eq hjob hr hpl, if_neg (Nat.not_lt.mpr h), hended]
    have heq := s.endImpressionPartial_eq
    generalize s.endImpressionPartial = v at *
    rw [heq]
    rfl

end

end Sys2Proof.Machine

/-! PROOFS. PRINT_START, taken at its due in either order with the step, and overdue at its insertion (spec/04, R58, R59; spec/06,
R100 to R104). -/

namespace Sys2Proof.Machine

open Sys2Proof.Safety

/-! ## What a new impression leaves -/

theorem endResult_planned {r : Record} {pl : CancelPlan} (h : r.plan = some pl) (skipped : Bool) :
    endResult skipped r = if skipped then .incomplete else if pl.policy = .full then .full else .dieOnly := by
  rw [endResult, h]

theorem State.columnWord_congr {s t : State} (hbanks : t.printer.banks = s.printer.banks) (hslots : t.printer.slots = s.printer.slots)
    (j : Impression) (c : Nat) : t.columnWord j c = s.columnWord j c := by
  rw [State.columnWord, State.columnWord, hbanks, hslots]

theorem ImpressionBegun.leaves {s t : State} {r : Record} {j : Impression} (h : ImpressionBegun s t r j) : t = { s with
    printer := { s.printer with job := t.printer.job, head := t.printer.head }, records := t.records, tally := t.tally
    port := t.port } := by
  have hprinter : t.printer = { s.printer with job := t.printer.job, head := t.printer.head } := by rw [h.printer]
  have hframe := h.frame
  rwa [hprinter] at hframe

/-- A PRINT_START due is taken by its row, and the impression is begun at the present position (R59, R100). -/
theorem State.takeDue_begun {s : State} {p : PieceNo} {r : Record} {pl : CancelPlan}
    (hdue : s.dueEntry = some ⟨.printStart, p, s.position⟩) (hjob : ∀ j, s.printer.job = some j → j.piece ≠ p)
    (hr : s.record? p = some r) (hpl : r.plan = some pl) (hcolumns : 1 ≤ pl.killer + pl.die) :
    ImpressionBegun { s with schedule := s.schedule.tail } s.takeDue r
      ⟨p, s.position, pl.killer, pl.die, pl.bank, r.slot, 0, false⟩ := by
  have hbegun := State.startImpression_begun (s := { s with schedule := s.schedule.tail }) hjob hr hpl s.position
    (by rw [BitVec.sub_self]; exact hcolumns)
  rw [State.newImpression_here { s with schedule := s.schedule.tail } p r pl] at hbegun
  rw [State.takeDue_of_due hdue]
  exact hbegun

/-! ## The step to a due PRINT_START (R59, R104) -/

theorem sampledRecord_of_free {s : State} (h : s.scan.window = none) (q : PieceNo) (r : Record) : sampledRecord s q r = r := by
  simp [sampledRecord, h]

/-- A record in printing, its impression ended after the step has fired its column or has not. -/
theorem printedRecord_endedPartial {s : State} {i : Impression} (hjob : s.printer.job = some i) (old : Record) :
    (printedRecord s i.piece old).endedPartial = { old with
      dots := if s.fires i then old.dots + dotsOf (s.columnWord i i.next) else old.dots
      result := .incomplete, flags := { old.flags with incomplete := true } } := by
  by_cases hf : s.fires i
  · rw [printedRecord_of_fires hjob rfl hf, if_pos hf]
    rfl
  · rw [printedRecord_of_not (fun j hj _ => by rw [← Option.some.inj (hjob.symm.trans hj)]; exact hf), if_neg hf]
    rfl

/-- Of the state s before a step and the state t after a PRINT_START of the position it reaches: the printhead shows column 0 of the new
impression, which awaits its next one, and the piece printed before holds its record ended PARTIAL with these dots. -/
structure PrintedOver (s t : State) (i j : Impression) (r old : Record) (dots : Nat) : Prop where
  printer : t.printer.head = s.columnWord j 0 ∧
    t.printer.job = if 1 < j.killer + j.die then some { j with next := 1 } else none
  old : t.record? i.piece = some { old with
    dots := dots, result := .incomplete, flags := { old.flags with incomplete := true } }
  new : ∃ r', t.record? j.piece = some r' ∧ r'.dots = r.dots + dotsOf (s.columnWord j 0)

theorem printedOver_of_begun {s u t : State} {i j : Impression} {r old y : Record} {dots : Nat} (h : ImpressionBegun u t r j)
    (hnext : j.next = 0) (hbanks : u.printer.banks = s.printer.banks) (hslots : u.printer.slots = s.printer.slots)
    (hne : i.piece ≠ j.piece) (hjob : u.printer.job.map (·.piece) = some i.piece) (hold : u.record? i.piece = some y)
    (hy : y.endedPartial =
      { old with dots := dots, result := .incomplete, flags := { old.flags with incomplete := true } }) :
    PrintedOver s t i j r old dots := by
  have hword : u.columnWord j j.next = s.columnWord j 0 := by rw [State.columnWord_congr hbanks hslots, hnext]
  refine ⟨⟨?_, ?_⟩, ?_, firedRecord j (u.columnWord j j.next) r, h.record, ?_⟩
  · rw [h.printer, ← hword]
  · rw [h.printer, hnext, Nat.zero_add]
  · rw [h.others i.piece hne, hold, Option.map_some, if_pos hjob, hy]
  · rw [← hword]
    rfl

theorem dueEntry_of_next {s : State} {e : Entry} {rest : List Entry} (hschedule : s.schedule = e :: rest)
    (hnext : e.due = s.position + 1) : s.dueEntry = none := by
  refine Option.eq_none_iff_forall_ne_some.mpr fun f hf => ?_
  obtain ⟨-, t, hs, hdue⟩ := State.dueEntry_eq_some.mp hf
  rw [hschedule] at hs
  rw [← (List.cons.inj hs).1] at hdue
  exact absurd (hnext.symm.trans hdue) (by simp)

section
variable {s : State} (x : SampleSet) {p : PieceNo} {r old : Record} {pl : CancelPlan} {i : Impression} {rest : List Entry}
  (hlatch : s.protect.latch = false) (hschedule : s.schedule = ⟨.printStart, p, s.position + 1⟩ :: rest)
  (hwindow : s.scan.window = none) (hjob : s.printer.job = some i) (hne : i.piece ≠ p)
  (hold : s.record? i.piece = some old) (hr : s.record? p = some r) (hpl : r.plan = some pl) (hcolumns : 1 ≤ pl.killer + pl.die)
include hlatch hschedule

theorem dueEntry_stepMoved : (stepMoved s x).dueEntry = some ⟨.printStart, p, (stepMoved s x).position⟩ :=
  State.dueEntry_eq_some.mpr ⟨hlatch, rest, hschedule, rfl⟩

include hjob hne hold hr hpl hcolumns

/-- With the entries first the earlier impression ends before the step reaches the printer (R104). -/
theorem takeDue_printedOver : PrintedOver s (stepMoved s x).takeDue i
    ⟨p, s.position + 1, pl.killer, pl.die, pl.bank, r.slot, 0, false⟩ r old old.dots := by
  have hbegun := State.takeDue_begun (dueEntry_stepMoved x hlatch hschedule)
    (fun j hj => by rw [← Option.some.inj (hjob.symm.trans hj)]; exact hne) hr hpl hcolumns
  exact printedOver_of_begun hbegun rfl rfl rfl hne (congrArg (Option.map _) hjob) hold rfl

include hwindow

/-- With the step first the earlier impression fires its column of the new position, if it has one there, and then ends (R101, R104). -/
theorem handStep_takeDue_printedOver (hmore : i.next + 1 < i.killer + i.die) : PrintedOver s (stepMoved s x).handStep.takeDue i
    ⟨p, s.position + 1, pl.killer, pl.die, pl.bank, r.slot, 0, false⟩ r old
    (if s.position + 1 = posAdd i.base i.next then old.dots + dotsOf (s.columnWord i i.next) else old.dots) := by
  have hforced : s.forcedCloseDue = false := by rw [State.forcedCloseDue, hwindow]
  have hjobs : (stepMoved s x).handStep.printer.job.map (·.piece) = some i.piece := by
    by_cases hf : (stepMoved s x).fires i
    · rw [(State.handStep_printer (u := stepMoved s x)).2 i hjob hf, if_pos hmore]
      rfl
    · rw [(State.handStep_printer (u := stepMoved s x)).1 fun j hj => by rw [← Option.some.inj (hjob.symm.trans hj)]; exact hf]
      exact congrArg (Option.map _) hjob
  have hnew : (stepMoved s x).handStep.record? p = some r := by
    rw [step_record?_other hforced x (fun w hw => absurd (hwindow.symm.trans hw) (by simp))
      (fun j hj => by rw [← Option.some.inj (hjob.symm.trans hj)]; exact hne), hr]
  have hprinted := step_record? hforced x i.piece
  rw [hold, Option.map_some, sampledRecord_of_free (s := stepMoved s x) hwindow] at hprinted
  have hdue := (dueEntry_stepMoved x hlatch hschedule)
  have hposition : (stepMoved s x).handStep.position = s.position + 1 := by
    simp only [State.handStep_frame]
    rfl
  have hkept := (stepMoved s x).handStep_printer_kept
  rw [← State.dueEntry_congr (t := (stepMoved s x).handStep) (by simp) (by simp) (by simp)] at hdue
  generalize (stepMoved s x).handStep = u at *
  have hbegun := State.takeDue_begun (s := u) (p := p) (by rw [hposition]; exact hdue)
    (fun j hj hp => by rw [hj, Option.map_some, hp] at hjobs; exact hne (Option.some.inj hjobs).symm) hnew hpl hcolumns
  rw [hposition] at hbegun
  exact printedOver_of_begun hbegun rfl (by rw [show u.printer.banks = s.printer.banks by rw [hkept]; rfl])
    (by rw [show u.printer.slots = s.printer.slots by rw [hkept]; rfl]) hne hjobs hprinted
    (printedRecord_endedPartial (s := stepMoved s x) hjob old)

end

end Sys2Proof.Machine

/-! PROOFS. PRINT_START fires the first column, or the column that belongs to the position (spec/04, R58, R59; spec/06, R100 to R104). -/

namespace Sys2Proof.Machine

open Sys2Proof.Safety

/-- The next column of an impression that has just fired column 0 at the present position is not here. -/
theorem not_fires_next {s : State} {j : Impression} (h : j.base = s.position) (hnext : j.next = 1) : ¬ s.fires j := by
  rw [State.fires, h, hnext, posAdd]
  simp

/-- The step that follows a PRINT_START taken ahead of it fires nothing (R101, R104). -/
theorem PrintedOver.handStep {s v : State} {i j : Impression} {r old : Record} {dots : Nat} (h : PrintedOver s v i j r old dots)
    (hwindow : v.scan.window = none) (hbase : j.base = v.position) : PrintedOver s v.handStep i j r old dots := by
  have hdark : ∀ k, v.printer.job = some k → ¬ v.fires k := by
    intro k hk
    rw [h.printer.2] at hk
    split at hk
    · rw [← Option.some.inj hk]
      exact not_fires_next hbase rfl
    · cases hk
  obtain ⟨hrecords, -⟩ := State.handStep_of_dark hwindow hdark
  exact ⟨State.handStep_printer.1 hdark ▸ h.printer, (State.record?_congr hrecords _).trans h.old,
    by rw [State.record?_congr hrecords]; exact h.new⟩

/-- A PRINT_START overdue at its insertion begins its impression at once, without a place in the schedule (R58, R100). -/
theorem State.insertEntry_printStart_of_overdue {s : State} (h : s.protect.latch = false) {p : PieceNo} {due : Pos}
    (hdue : isAhead due s.position = false) : s.insertEntry ⟨.printStart, p, due⟩ = s.startImpression p due :=
  State.insertEntry_of_overdue (e := ⟨.printStart, p, due⟩) h hdue

theorem firedRecord_of_more {j : Impression} (h : j.next + 1 < j.killer + j.die) (w : Word) (r : Record) :
    firedRecord j w r = { r with dots := r.dots + dotsOf w } := by
  rw [firedRecord, if_pos h, if_pos h]

theorem firedRecord_of_last {j : Impression} (h : j.killer + j.die ≤ j.next + 1) (w : Word) (r : Record) :
    firedRecord j w r = { r with
      dots := r.dots + dotsOf w, result := endResult j.skipped r
      flags := { r.flags with incomplete := r.flags.incomplete || j.skipped } } := by
  rw [firedRecord, if_neg (Nat.not_lt.mpr h), if_neg (Nat.not_lt.mpr h)]

/-- A PRINT_START taken by its row leaves the rest of the schedule, the position and the scan context. -/
theorem State.takeDue_printStart_leaves {s : State} {p : PieceNo} {due : Pos} (h : s.dueEntry = some ⟨.printStart, p, due⟩) :
    s.takeDue.schedule = s.schedule.tail ∧ s.takeDue.position = s.position ∧ s.takeDue.scan = s.scan := by
  rw [State.takeDue_of_due h]
  simp [State.takeEntry]

/-- With the entries first, the one PRINT_START due at the new position is all that the step finds taken (R59). -/
theorem State.entriesAhead_printStart {s : State} {p : PieceNo} {due : Pos} (h : s.dueEntry = some ⟨.printStart, p, due⟩)
    (hrest : ∀ e ∈ s.schedule.tail.head?, e.due ≠ s.position) : s.entriesAhead .entriesFirst = s.takeDue := by
  obtain ⟨hschedule, hposition, -⟩ := State.takeDue_printStart_leaves h
  rw [State.entriesAhead, State.takeAllDue_of_due h]
  refine State.takeAllDue_of_none (Option.eq_none_iff_forall_ne_some.mpr fun e he => ?_) _
  obtain ⟨-, rest, hs, hdue⟩ := State.dueEntry_eq_some.mp he
  exact hrest e (by rw [← hschedule, hs]; rfl) (hdue.trans hposition)

/-- Settles O39. -/
theorem printStartFiresFirstColumn : Obligations.PrintStartFiresFirstColumn := by
  unfold Obligations.PrintStartFiresFirstColumn
  refine ⟨fun s p r pl hdue hjob hr hpl hcolumns => ?_, fun s p r pl due hlatch hover hjob hr hpl hcolumns => ?_,
    fun s x p r old pl i rest hlatch hschedule hrest hwindow hintake hcrawl hjob hne hmore hold hr hpl hcolumns => ?_⟩
  · have hbegun := State.takeDue_begun hdue hjob hr hpl hcolumns
    have hlast : pl.killer + pl.die = 1 → ¬ 0 + 1 < pl.killer + pl.die := fun h => by rw [h]; decide
    refine ⟨_, exec_command_of_due hdue, congrArg Printer.head hbegun.printer, State.takeDue_schedule hdue,
      fun hmany => ?_, fun hone => ?_, hbegun.tallied, ⟨_, hbegun.record, rfl, fun hone => ?_⟩, hbegun.others, ?_⟩
    · rw [hbegun.printer]
      exact if_pos hmany
    · rw [hbegun.printer]
      exact if_neg (hlast hone)
    · exact (if_neg (hlast hone)).trans (endResult_planned hpl false)
    · have hleaves := hbegun.leaves
      rw [← State.takeDue_schedule hdue] at hleaves
      exact hleaves
  · intro d cols j result t
    have htaken : t = s.startImpression p due := State.insertEntry_printStart_of_overdue hlatch hover
    by_cases hd : d < cols
    · have hbegun : ImpressionBegun s t r j := by
        rw [htaken]
        exact State.startImpression_begun hjob hr hpl due hd
      refine ⟨fun _ => ⟨congrArg Printer.head hbegun.printer, hbegun.tallied, congrArg Printer.job hbegun.printer, _,
        hbegun.record, rfl, fun hmore => ?_, fun hlast => ?_⟩, fun hpassed => absurd hd (Nat.not_lt.mpr hpassed),
        hbegun.others, hbegun.leaves⟩
      · rw [firedRecord_of_more (j := j) hmore]
        exact ⟨rfl, rfl⟩
      · rw [firedRecord_of_last (j := j) hlast.le]
        refine ⟨?_, rfl⟩
        rw [endResult_planned hpl]
        simp [j, result]
    · obtain ⟨hrecord, hothers, hframe⟩ := State.startImpression_passed hjob hr hpl due (Nat.le_of_not_lt hd) hcolumns
      rw [← htaken] at hrecord hothers hframe
      clear_value t
      refine ⟨fun h => absurd h hd, fun _ => ⟨?_, ?_, ?_, ?_, hrecord⟩, hothers, ?_⟩
      · rw [hframe]
      · rw [hframe]
      · rw [hframe]
      · rw [hframe]
      · have hprinter : t.printer = { s.printer with job := none } := by rw [hframe]
        rw [hprinter]
        have hsame : t.tally = s.tally ∧ t.port = s.port := by rw [hframe]; exact ⟨rfl, rfl⟩
        rw [hsame.1, hsame.2]
        exact hframe
  · have hdue := dueEntry_of_next hschedule rfl
    have hforced : s.forcedCloseDue = false := by rw [State.forcedCloseDue, hwindow]
    have hnow := dueEntry_stepMoved x hlatch hschedule
    have hahead := takeDue_printedOver x hlatch hschedule hjob hne hold hr hpl hcolumns
    have hafter := handStep_takeDue_printedOver x hlatch hschedule hwindow hjob hne hold hr hpl hcolumns hmore
    have hrest' : (stepMoved s x).schedule.tail = rest := congrArg List.tail hschedule
    have hstill : (stepMoved s x).handStep.dueEntry = some ⟨.printStart, p, (stepMoved s x).position⟩ :=
      (State.dueEntry_congr (by simp) (by simp) (by simp)).trans hnow
    have hfirst : (stepMoved s x).entriesAhead .entriesFirst = (stepMoved s x).takeDue :=
      State.entriesAhead_printStart hnow (hrest'.symm ▸ hrest)
    obtain ⟨hleft, hposition, hscan⟩ := State.takeDue_printStart_leaves hnow
    obtain ⟨hleft', hposition', -⟩ := State.takeDue_printStart_leaves hstill
    have hover := hahead.handStep (by rw [hscan]; exact hwindow) hposition.symm
    obtain ⟨-, -, hmoved, -, -, -, hkept, -⟩ := (stepMoved s x).handStep_frame
    obtain ⟨-, -, hmoved', -, -, -, hkept', -⟩ := (stepMoved s x).takeDue.handStep_frame
    intro j ended
    refine ⟨⟨(stepMoved s x).takeDue.handStep, ?_, hover.printer.1, ?_, ?_, hover.printer.2, hover.old, hover.new⟩,
      (stepMoved s x).handStep, (stepMoved s x).handStep.takeDue, ?_, exec_command_of_due hstill, hafter.printer.1, ?_, ?_,
      hafter.printer.2, hafter.old, hafter.new⟩
    · rw [exec_forwardStep_of_settled hdue hforced hintake hcrawl, hfirst]
    · rw [hkept', hleft, hrest']
    · exact hmoved'.trans hposition
    · exact exec_forwardStep_of_settled hdue hforced hintake hcrawl ⟨x, .stepFirst⟩
    · rw [hleft', hkept, hrest']
    · exact hposition'.trans hmoved

end Sys2Proof.Machine
